-- ==== Sys2Proof/Word.lean ====
section
/-! DEFINITION. The word types and the sparse table type every store and register file of the part is held in. -/

namespace Sys2Proof

/-- One byte of a store, a packet or a frame. -/
abbrev Byte := BitVec 8

/-- A 32-bit word: a register of the map (R12), a scalar register (R96), an operand slot (R90). -/
abbrev Word := BitVec 32

/-- A LIX count (R27). -/
abbrev Line := BitVec 48

/-- A sparse table: keys strictly rising, no entry equal to what an unlisted key reads as.
Stores (key: byte address), register files, context slots, semaphores and ledgers are tables. -/
abbrev Table (α : Type) := List (Nat × α)

end Sys2Proof
end

