-- ==== Sys2Proof/Syntax.lean ====
section
/-! DEFINITION. The commands of the part: one constructor of `Instr` per row of spec/opcode_table.json,
with the operands the outside (a ball, a packet, a frame, a link partner) or an engine's sequencer supplies. -/

namespace Sys2Proof

/-- The kind of an operand slot (R92). -/
inductive Kind where
  | descriptor | immediate | store | scalar
deriving DecidableEq, Repr

/-- The fields of a 128-bit instruction word beside its opcode (R90, R91, R93); the opcode is the constructor of `Instr`. -/
structure Insn where
  /-- Kind of slot A. -/
  kindA : Kind
  /-- Kind of slot B. -/
  kindB : Kind
  /-- Kind of slot C. -/
  kindC : Kind
  /-- Trace mark, bit [118]. -/
  mark : Bool
  /-- Predicate enable, bit [111]. -/
  predOn : Bool
  /-- Sense, bit [110]: true executes when the register is 0. -/
  predZero : Bool
  /-- Scalar register tested, bits [109:106]. -/
  predReg : BitVec 4
  /-- Wait bits [105:100]: move is bit 0, matrix, vector, text, media, link. -/
  waits : BitVec 6
  /-- Slot A, bits [95:64]. -/
  a : Word
  /-- Slot B, bits [63:32]. -/
  b : Word
  /-- Slot C, bits [31:0]. -/
  c : Word
deriving DecidableEq, Repr

/-- The interfaces a control frame arrives on, in order of their journal codes (R461, R438). -/
inductive Iface where
  | mgmt | net0 | net1 | spi | uart
deriving DecidableEq, Repr

/-- The stores of the part, in the order of MEM_ECC_LAST_HI.STORE (R480). -/
inductive StoreKind where
  | es | bank | cs | xs | ds | lineBuffer | island | warden | fabric
deriving DecidableEq, Repr

/-- The encoder balls (R28, R30). -/
inductive EncBall where
  | enc0 | enc1 | enc3
deriving DecidableEq, Repr

/-- Why a context is torn down (R365, R435, R454). -/
inductive TearCause where
  | contextFault | eccUncorrectable | unload | facetChange | engineLost
deriving DecidableEq, Repr

/-- A CSI-2 long packet as it arrives (R287, R289). -/
structure LinePacket where
  /-- Data type, for example 0x2A for RAW8. -/
  dataType : Nat
  /-- Virtual channel, 0 to 15. -/
  channel : Nat
  /-- Word count of the header, in bytes. -/
  wordCount : Nat
  /-- Payload bytes, as they arrive. -/
  payload : List Byte
  /-- The payload CRC-16 is good. -/
  crcOk : Bool
  /-- Synchronised REFLEX_IN levels going into the edge of the last pixel (R63). -/
  reflexIn : BitVec 16
  /-- LIX as the front end read it when the line's first pixel entered the IFE (R232). -/
  firstLix : Line
  /-- Free mode only: the tail took 10 IMAGE cycles, not 9 (R4, R56). -/
  tailTen : Bool
deriving DecidableEq, Repr

/-- An RTP packet addressed to one of the part's UDP ports (R306). -/
structure RtpPacket where
  /-- Context slot and XS word offset of the stream record that declares the packet's UDP port (R309). -/
  slot : Nat
  record : Nat
  /-- 25GbE port, 0 or 1. -/
  port : Nat
  ipv6 : Bool
  /-- UDP destination port. -/
  udp : Nat
  /-- RTP version, and whether the destination address is unicast. -/
  version : Nat
  unicast : Bool
  payloadType : Nat
  ssrc : Word
  seq : BitVec 16
  timestamp : Word
  marker : Bool
  /-- RTP payload bytes. -/
  payload : List Byte
deriving DecidableEq, Repr

/-- A section entry of a boot image (R407), with whether the section's bytes hash to the entry's SHA-256. -/
structure Section where
  offset : Nat
  length : Nat
  /-- 0 warden firmware, 1 island firmware, 2 detector network, 3 Druak module. -/
  kind : Nat
  /-- 0 vendor, 1 owner. -/
  signer : Nat
  /-- Module number, for kind 3. -/
  number : Nat
  /-- Declared XS size of a module's header (R112), KiB, for kind 3. -/
  xsKib : Nat
  /-- ISLAND cycles of one evaluation of a detector network (R332), for kind 2. -/
  cycles : Nat
  shaOk : Bool
deriving DecidableEq, Repr

/-- What the mask ROM reads from one flash slot (R406 to R408); the signatures' verdicts come with it. -/
structure ImageSlot where
  magicOk : Bool
  format : Nat
  securityVersion : Nat
  imageLength : Nat
  stageALength : Nat
  sections : List Section
  vendorOk : Bool
  /-- The owner signature verifies under a key enrolled in the NVS, or under the vendor key when none is enrolled. -/
  ownerOk : Bool
  /-- SHA-256 of the bytes the vendor signature covers. -/
  firmwareDigest : List Byte
  /-- SHA-256 of the bytes the owner signature covers. -/
  applicationDigest : List Byte
  /-- SHA-256 of the owner key that verified the image. -/
  ownerKeyHash : List Byte
deriving DecidableEq, Repr

/-- What the environment and the silicon give a cold start (R399, R403). -/
structure ColdStart where
  /-- FACET[1:0] as strapped. -/
  facetBalls : BitVec 2
  /-- K reconstructs and verifies (R414). -/
  pufOk : Bool
  /-- Flash slot 0, and slot 1 at the boot record's offset. -/
  slot0 : ImageSlot
  slot1 : ImageSlot
  /-- How many collimation attempts fail before one succeeds; 3 or more means none does (R50). -/
  collimateFails : Nat
  /-- DRAM channel that fails training, if any (R403). -/
  dramFail : Option Nat
  /-- Tiles passing self-test: bit 5 * core + tile (R453). -/
  tilesPass : BitVec 80
deriving DecidableEq, Repr

/-- What a network port hears for its own upkeep (R462). -/
inductive NetFrame where
  | arpRequest | icmpEcho | neighbourSolicit
  | dhcpAck (address : Word)
  | unsupported
deriving DecidableEq, Repr

/-- The IEEE 1149.1 instructions the part supports (R498). -/
inductive JtagOp where
  | bypass | idcode | sample | extest | clamp | highz
deriving DecidableEq, Repr

/-- Identity data a Relay partner sends in training step 4 (R386). -/
structure RelayIdentity where
  partIndex : Nat
  setSize : Nat
  /-- Peer number the partner gives this part. -/
  peerNumber : Nat
  portNumber : Nat
  /-- First 8 bytes of the Relay digest (R431). -/
  digest : BitVec 64
  epoch : BitVec 16
  /-- One-way flight, in tenths of ns (R387). -/
  flight : Nat
  /-- Elastic depth the latency fix sets. -/
  depth : Nat
deriving DecidableEq, Repr

/-- A flit of one lane (R389), with the verdict of its RS decoder (R390). -/
structure FlitIn where
  port : Nat
  lane : Nat
  /-- The RS decoder corrected symbols of the codeword. -/
  fecCorrected : Bool
  /-- The codeword was correctable. -/
  fecOk : Bool
  /-- The codeword's 5,140 message bits. -/
  bits : BitVec 5140
deriving DecidableEq, Repr

/-- A tensor descriptor in its fields (R86). -/
structure Desc where
  base : Nat
  nibble : Bool
  /-- 0 ES, 1 CS, 2 XS, 3 DS. -/
  space : Nat
  /-- 0 int4, 1 int8, 2 int16, 3 int32; 4 to 7 reserved. -/
  format : Nat
  rank : Nat
  /-- Extents E0 to E4. -/
  ext : List Nat
  /-- Strides T0 to T4. -/
  stride : List Int
  zero : Int
  bank : Nat
  chdim : Nat
  perChannel : Bool
  scaled : Bool
  /-- A reserved bit of the 64 bytes is set. -/
  reserved : Bool
deriving DecidableEq, Repr

/-- The trigger of a command (R98). -/
inductive Trigger where
  | start | preds | inbox (n : Nat) | line (period : Nat)
deriving DecidableEq, Repr

/-- A directory entry (R98), with its timing-sheet bounds (R115). -/
structure Command where
  first : Nat
  count : Nat
  ve : Nat
  prio : Nat
  floating : Bool
  trigger : Trigger
  /-- Predecessor condition: true is any end, false is commit. -/
  anyEnd : Bool
  preds : List Nat
  /-- Declared semaphores 0 to 63. -/
  sems : List Nat
  /-- Cycle bound of the timing sheet at the declared maxima. -/
  cycleBound : Nat
  /-- Energy bound of the timing sheet, nJ. -/
  energyBound : Nat
deriving DecidableEq, Repr

/-- One instruction word of a module: opcode and fields (R90). -/
structure CodeWord where
  opcode : BitVec 8
  insn : Insn
deriving DecidableEq, Repr

/-- Initial constant data (R112): bytes at an offset of a space (0 ES of `index` = virtual engine, 1 CS of group, 2 XS, 3 DS). -/
structure ConstData where
  space : Nat
  index : Nat
  offset : Nat
  bytes : List Byte
deriving DecidableEq, Repr

/-- A Druak module as the loader reads it (R112): its header and its sections. -/
structure Module where
  magicOk : Bool
  major : Nat
  minor : Nat
  /-- Every byte the module declares was delivered. -/
  complete : Bool
  /-- A reserved field of header, directory or sections is not zero. -/
  reservedSet : Bool
  /-- Group of each virtual engine; its length is V. -/
  groups : List Nat
  groupCount : Nat
  esKib : Nat
  csKib : Nat
  xsKib : Nat
  dsMib : Nat
  commitKib : Nat
  descKib : Nat
  scaleKib : Nat
  ringKib : Nat
  ringRecords : Nat
  /-- First instruction index of the subroutine area. -/
  subFirst : Nat
  commands : List Command
  /-- Declared maxima of the variables: key 8 * index of the instruction that defines it + kind (R115: 1 loop trips, 2 outcome count,
  3 unit length, 4 run-time operand size). -/
  maxima : Table Nat
  code : List CodeWord
  descs : Table Desc
  /-- Initial scale-bank bytes, from the scale banks' offset. -/
  scales : List Byte
  consts : List ConstData
deriving DecidableEq, Repr

/-- The part's commands: one constructor per row of spec/opcode_table.json. An engine instruction names its engine
(0 to 63) and the fields of its word. -/
inductive Instr where
  | atl (e : Nat) (w : Insn)
  | waitl (e : Nat) (w : Insn)
  | beat (e : Nat) (w : Insn)
  | lineWaitEnd (e : Nat)
  | beatWaitEnd (e : Nat)
  | br (e : Nat) (w : Insn)
  | call (e : Nat) (w : Insn)
  | ret (e : Nat) (w : Insn)
  | loop (e : Nat) (w : Insn)
  | halt (e : Nat) (w : Insn)
  | semwait (e : Nat) (w : Insn)
  | semaphoreGrant (k : Nat)
  | sempost (e : Nat) (w : Insn)
  | credit (e : Nat) (w : Insn)
  | creditGrant (e : Nat)
  | barrier (e : Nat) (w : Insn)
  | commit (e : Nat) (w : Insn)
  | load (e : Nat) (w : Insn)
  | store (e : Nat) (w : Insn)
  | copy (e : Nat) (w : Insn)
  | gather (e : Nat) (w : Insn)
  | halo (e : Nat) (w : Insn)
  | mma (e : Nat) (w : Insn)
  | conv (e : Nat) (w : Insn)
  | dwconv (e : Nat) (w : Insn)
  | pool (e : Nat) (w : Insn)
  | vadd (e : Nat) (w : Insn)
  | vmul (e : Nat) (w : Insn)
  | vshift (e : Nat) (w : Insn)
  | vmax (e : Nat) (w : Insn)
  | vsum (e : Nat) (w : Insn)
  | vexp2 (e : Nat) (w : Insn)
  | vrcp (e : Nat) (w : Insn)
  | vrsqrt (e : Nat) (w : Insn)
  | vsoftmax (e : Nat) (w : Insn)
  | vnorm (e : Nat) (w : Insn)
  | vrope (e : Nat) (w : Insn)
  | qcal (e : Nat) (w : Insn)
  | qcvt (e : Nat) (w : Insn)
  | qstat (e : Nat) (w : Insn)
  | kvappend (e : Nat) (w : Insn)
  | kvattn (e : Nat) (w : Insn)
  | kvevict (e : Nat) (w : Insn)
  | kvdrop (e : Nat) (w : Insn)
  | tokenize (e : Nat) (w : Insn)
  | detok (e : Nat) (w : Insn)
  | maskgen (e : Nat) (w : Insn)
  | sample (e : Nat) (w : Insn)
  | stopchk (e : Nat) (w : Insn)
  | decode (e : Nat) (w : Insn)
  | fetchsample (e : Nat) (w : Insn)
  | batchclose (e : Nat) (w : Insn)
  | rsend (e : Nat) (w : Insn)
  | rrecv (e : Nat) (w : Insn)
  | rrecvMessageReady (e : Nat)
  | allred (e : Nat) (w : Insn)
  | gradq (e : Nat) (w : Insn)
  | optstep (e : Nat) (w : Insn)
  | breakpointHit (e : Nat)
  | admission
  | freezeLatch (e : Nat)
  | freezeResume (e : Nat)
  | preemptDelayEnd (e : Nat)
  | irisBeat
  | teardown (c : Nat)
  | shareClearDone (k : StoreKind) (step : Nat)
  | contextLoaded (c : Nat) (m : Option (List Byte))
  | contextRestart (c : Nat)
  | sramScrub (k : StoreKind) (c : Nat) (index : Nat) (word : Nat)
  | dsScrubLane
  | lixLineEdge (interval : Nat)
  | lixRefTick
  | encIndex
  | clkCollimate
  | collimationCheck (ok : Bool)
  | linePacket (p : Nat) (pkt : LinePacket)
  | ignoredPacket (p : Nat)
  | frameStart (p : Nat) (n : BitVec 16)
  | frameEnd (p : Nat) (n : BitVec 16)
  | sensorPortRetrain (p : Nat)
  | glintSwap
  | glintPulseExpiry (b : Nat)
  | glintLinePulseEnd (b : Nat)
  | cciListStart (n : Nat)
  | cciListEnd (n : Nat) (reads : List (List Byte))
  | cciNack (n : Nat) (entry : Nat)
  | deferredDecodeDone (c : Nat) (stream : Nat)
  | rtpPacket (pkt : RtpPacket)
  | islandMsTick (temps : List Int) (budget : BitVec 2) (wakeN : Bool)
  | stopRaiseDone
  | idleLowering
  | forcedLowering
  | stopLowerStepDone
  | budgetLevelChange (level : BitVec 2)
  | thermalTrip (sensor : Nat) (reading : Int)
  | tripMainEnFall
  | raiseMainEnReady
  | keywordEval (score : BitVec 16)
  | wakeNPress
  | ringFrameEnd (pdm : List (List Bool))
  | ringFrameWriteDone
  | sessionTimeout
  | shutterClose
  | ringClearDone
  | endRequest
  | extendRequest
  | islandMessagePost
  | playEntryQueued (i : Nat)
  | playEntryStart
  | playEntryEnd
  | linkTraining (port : Nat) (partner : RelayIdentity)
  | trainingStepTimeout (port : Nat)
  | linkDown (peer : Nat)
  | relayRetrain (port : Nat)
  | peerCut (peer : Nat)
  | dataFlit (f : FlitIn)
  | releaseFlit (f : FlitIn)
  | discardFlit (f : FlitIn)
  | exchangeFlit (f : FlitIn)
  | creditReturnFlit (f : FlitIn)
  | controlFlit (f : FlitIn)
  | heartbeatMiss (core : Nat) (tile : Nat)
  | remapDone (core : Nat)
  | spareSelfTest (core : Nat) (pass : Bool)
  | staleTrafficDrop (core : Nat) (epoch : Nat)
  | powerGoodRise (x : ColdStart)
  | ready
  | powerGoodFall
  | resetNLow (x : ColdStart)
  | read (i : Iface) (frame : List Byte)
  | write (i : Iface) (frame : List Byte)
  | post (i : Iface) (frame : List Byte)
  | attest (i : Iface) (frame : List Byte)
  | attestSigned
  | stage (i : Iface) (frame : List Byte)
  | spiReplyRead
  | registerWrite (i : Iface) (addr : Word) (value : Word)
  | lixSource (i : Iface) (value : Word)
  | lixDivider (i : Iface) (value : Word)
  | lixStatusClear (i : Iface) (value : Word)
  | lixCountCapture
  | audioPositionCapture
  | sysFacet (i : Iface) (value : Word)
  | facetApply
  | sysCountersClear (i : Iface) (value : Word)
  | sysReset (i : Iface) (value : Word) (x : ColdStart)
  | ctxStop (i : Iface) (c : Nat)
  | ctxResume (i : Iface) (c : Nat)
  | ctxUnload (i : Iface) (c : Nat)
  | ctxLoad (i : Iface) (c : Nat)
  | irisBudgetLimit (i : Iface) (value : Word)
  | qntClipThreshold (i : Iface) (c : Nat) (value : Word)
  | ledgerSelect (i : Iface) (value : Word)
  | glintStatusClear (i : Iface) (value : Word)
  | relayRetrainPort (i : Iface) (ports : BitVec 8)
  | relayCutPeer (i : Iface) (parts : BitVec 9)
  | eventTail (i : Iface) (value : Word)
  | eventData
  | flashRead (i : Iface)
  | flashProgram (i : Iface)
  | flashErase (i : Iface)
  | secNvsStageData (i : Iface) (value : Word)
  | storeFacet (i : Iface) (slot : BitVec 2)
  | enrolKey (i : Iface) (slot : BitVec 2)
  | revokeKey (i : Iface) (slot : BitVec 2)
  | writeBootRecord (i : Iface)
  | secCertData
  | bottomTreeBuilt
  | digestChainCapture
  | digestTraceData
  | digestReplayCtrl (i : Iface) (value : Word)
  | digestReplayData (i : Iface) (value : Word)
  | digestMark (i : Iface) (value : Word)
  | digestBreak (i : Iface) (value : Word)
  | digestBreakResume (i : Iface)
  | digestPeekData
  | encoderTransition (ball : EncBall) (level : Bool)
  | instructionCompletion (e : Nat)
  | sensorPortDeskew (p : Nat) (ok : Bool) (depth : BitVec 8)
  | ethernetLinkTraining (p : Nat) (rsFec : Bool)
  | ethernetLinkDown (p : Nat)
  | arpIcmpDhcpFrame (p : Nat) (f : NetFrame)
  | nvsCommandDone
  | jtagInstruction (op : JtagOp) (shift : List (Nat × Bool))
deriving DecidableEq, Repr

end Sys2Proof
end

