-- ==== Sys2Proof/WellFormed.lean ====
section
/-! DEFINITION. The form every command must have before the part can meet it: ranges of the operands, and the form of an
instruction word (R80, R91 to R93, R126, R343). -/

namespace Sys2Proof

/-- An operand slot keeps the form of its kind (R92): reserved bits 0, reserved space not named. -/
def slotOk (k : Kind) (w : Word) : Bool :=
  match k with
  | .descriptor => w.toNat / 65536 = 0 && w.toNat / 1024 % 2 = 0
  | .immediate => true
  | .store => w.toNat / 2 ^ 30 < 3
  | .scalar => w.toNat < 16

/-- An engine instruction names one of 64 engines (R80, R355), and its slots keep their form. -/
def Insn.wellFormed (e : Nat) (w : Insn) : Bool := e < 64 && slotOk w.kindA w.a && slotOk w.kindB w.b && slotOk w.kindC w.c

/-- A control frame is at most 16 + 2,048 + 8 bytes (R463). -/
def frameOk (i : Iface) (f : List Byte) : Bool := f.length ≤ (if i = .uart then 2 * 2072 + 2 else 2072)

/-- The operands of a command lie in the ranges the spec gives them. -/
def Instr.wellFormed : Instr → Bool
  | .atl e w | .waitl e w | .beat e w | .br e w | .call e w | .ret e w | .loop e w | .halt e w | .semwait e w
  | .sempost e w | .credit e w | .barrier e w | .commit e w | .load e w | .store e w | .copy e w | .gather e w | .halo e w
  | .mma e w | .conv e w | .dwconv e w | .pool e w | .vadd e w | .vmul e w | .vshift e w | .vmax e w | .vsum e w
  | .vexp2 e w | .vrcp e w | .vrsqrt e w | .vsoftmax e w | .vnorm e w | .vrope e w | .qcal e w | .qcvt e w | .qstat e w
  | .kvappend e w | .kvattn e w | .kvevict e w | .kvdrop e w | .tokenize e w | .detok e w | .maskgen e w | .sample e w
  | .stopchk e w | .decode e w | .fetchsample e w | .batchclose e w | .rsend e w | .rrecv e w | .allred e w | .gradq e w
  | .optstep e w => w.wellFormed e
  | .lineWaitEnd e | .beatWaitEnd e | .creditGrant e | .rrecvMessageReady e | .breakpointHit e | .freezeLatch e
  | .freezeResume e | .preemptDelayEnd e | .instructionCompletion e => e < 64
  | .semaphoreGrant k => k < 1024
  | .teardown c | .contextLoaded c _ | .contextRestart c | .deferredDecodeDone c _ | .ctxStop _ c | .ctxResume _ c
  | .ctxUnload _ c | .ctxLoad _ c | .qntClipThreshold _ c _ => c < 32
  | .linePacket p pkt => p < 8 && pkt.channel < 16
  | .ignoredPacket p | .frameStart p _ | .frameEnd p _ | .sensorPortRetrain p | .sensorPortDeskew p _ _ => p < 8
  | .glintPulseExpiry b | .glintLinePulseEnd b => b < 16
  | .cciListStart n | .cciListEnd n _ | .cciNack n _ => n < 8
  | .playEntryQueued i => i < 4
  | .linkTraining p _ | .trainingStepTimeout p | .relayRetrain p => p < 8
  | .linkDown p | .peerCut p => p < 9
  | .dataFlit f | .releaseFlit f | .discardFlit f | .exchangeFlit f | .creditReturnFlit f | .controlFlit f => f.port < 8 && f.lane < 4
  | .heartbeatMiss k t => k < 16 && t < 5
  | .remapDone k | .spareSelfTest k _ | .staleTrafficDrop k _ => k < 16
  | .thermalTrip k _ => k < 32
  | .read i f | .write i f | .post i f | .attest i f | .stage i f => frameOk i f
  | .rtpPacket pkt => pkt.port < 2 && pkt.payloadType < 128
  | .ethernetLinkTraining p _ | .ethernetLinkDown p | .arpIcmpDhcpFrame p _ => p < 3
  | .islandMsTick ts _ _ => ts.length = 32
  | .admission | .irisBeat | .shareClearDone _ _ | .sramScrub _ _ _ _ | .dsScrubLane | .lixLineEdge _ | .lixRefTick
  | .encIndex | .clkCollimate | .collimationCheck _ | .glintSwap | .stopRaiseDone | .idleLowering | .forcedLowering
  | .stopLowerStepDone | .budgetLevelChange _ | .tripMainEnFall | .raiseMainEnReady | .keywordEval _ | .wakeNPress
  | .ringFrameEnd _ | .ringFrameWriteDone | .sessionTimeout | .shutterClose | .ringClearDone | .endRequest | .extendRequest
  | .islandMessagePost | .playEntryStart | .playEntryEnd | .powerGoodRise _ | .ready | .powerGoodFall | .resetNLow _
  | .attestSigned | .spiReplyRead | .registerWrite _ _ _ | .lixSource _ _ | .lixDivider _ _ | .lixStatusClear _ _
  | .lixCountCapture | .audioPositionCapture | .sysFacet _ _ | .facetApply | .sysCountersClear _ _ | .sysReset _ _ _
  | .irisBudgetLimit _ _ | .ledgerSelect _ _ | .glintStatusClear _ _ | .relayRetrainPort _ _ | .relayCutPeer _ _
  | .eventTail _ _ | .eventData | .flashRead _ | .flashProgram _ | .flashErase _ | .secNvsStageData _ _ | .storeFacet _ _
  | .enrolKey _ _ | .revokeKey _ _ | .writeBootRecord _ | .secCertData | .bottomTreeBuilt | .digestChainCapture
  | .digestTraceData | .digestReplayCtrl _ _ | .digestReplayData _ _ | .digestMark _ _ | .digestBreak _ _
  | .digestBreakResume _ | .digestPeekData | .encoderTransition _ _ | .nvsCommandDone | .jtagInstruction _ _ => true

end Sys2Proof
end

