-- ==== Sys2Proof/Decode.lean ====
section
/-! DEFINITION. Words: the decoder over the rows of the opcode table that give bits (none does), and the 128-bit instruction
word of an engine (R90 to R93, R126). -/

namespace Sys2Proof

/-- No row of spec/opcode_table.json gives its command any bits: no word spells a command. -/
def decodeTableWord (_nbits _w : Nat) : Option Instr := none

/-! ### The instruction word -/

/-- Kind bits (R92). -/
def kindBits : Kind → BitVec 2
  | .descriptor => 0
  | .immediate => 1
  | .store => 2
  | .scalar => 3

def kindOf (b : BitVec 2) : Kind :=
  if b = 0 then .descriptor else if b = 1 then .immediate else if b = 2 then .store else .scalar

/-- A bit. -/
def bitOf (b : Bool) : BitVec 1 := if b then 1 else 0

/-- Opcode, flags, predicate and sync field, slots (R90, R91, R93). -/
def encodeWord (x : CodeWord) : BitVec 128 :=
  let w := x.insn
  x.opcode ++ ((0 : BitVec 1) ++ bitOf w.mark ++ kindBits w.kindC ++ kindBits w.kindB ++ kindBits w.kindA) ++
  (bitOf w.predOn ++ bitOf w.predZero ++ w.predReg ++ w.waits ++ (0 : BitVec 4)) ++ w.a ++ w.b ++ w.c

/-- Opcodes of R126. -/
def assignedOpcodes : List (BitVec 8) :=
  [0x01, 0x02, 0x03, 0x08, 0x09, 0x0A, 0x0B, 0x0C, 0x10, 0x11, 0x12, 0x13, 0x14, 0x20, 0x21, 0x22, 0x23, 0x24, 0x30, 0x31,
   0x32, 0x33] ++
  [0x40, 0x41, 0x42, 0x43, 0x44, 0x45, 0x46, 0x47, 0x48, 0x49, 0x4A, 0x50, 0x51, 0x52, 0x58, 0x59, 0x5A, 0x5B] ++
  [0x60, 0x61, 0x62, 0x63, 0x64, 0x68, 0x69, 0x6A, 0x70, 0x71, 0x72, 0x78, 0x79]

/-- The fields of a word; none where a reserved bit is set or the opcode is unassigned (R91, R93, R126). -/
def decodeWord (b : BitVec 128) : Option CodeWord :=
  let op : BitVec 8 := b.extractLsb' 120 8
  if b.getLsbD 119 || (b.extractLsb' 96 4 : BitVec 4) ≠ 0 || !(assignedOpcodes.contains op) then none
  else some
    { opcode := op,
      insn := { kindA := kindOf (b.extractLsb' 112 2), kindB := kindOf (b.extractLsb' 114 2), kindC := kindOf (b.extractLsb' 116 2),
                mark := b.getLsbD 118, predOn := b.getLsbD 111, predZero := b.getLsbD 110, predReg := b.extractLsb' 106 4,
                waits := b.extractLsb' 100 6, a := b.extractLsb' 64 32, b := b.extractLsb' 32 32, c := b.extractLsb' 0 32 } }

/-- The command that an engine's word is (R126). -/
def instrOfWord (e : Nat) (x : CodeWord) : Option Instr :=
  let w := x.insn
  match x.opcode.toNat with
  | 0x01 => some (.atl e w) | 0x02 => some (.waitl e w) | 0x03 => some (.beat e w) | 0x08 => some (.br e w)
  | 0x09 => some (.call e w) | 0x0A => some (.ret e w) | 0x0B => some (.loop e w) | 0x0C => some (.halt e w)
  | 0x10 => some (.semwait e w) | 0x11 => some (.sempost e w) | 0x12 => some (.credit e w) | 0x13 => some (.barrier e w)
  | 0x14 => some (.commit e w) | 0x20 => some (.load e w) | 0x21 => some (.store e w) | 0x22 => some (.copy e w)
  | 0x23 => some (.gather e w) | 0x24 => some (.halo e w) | 0x30 => some (.mma e w) | 0x31 => some (.conv e w)
  | 0x32 => some (.dwconv e w) | 0x33 => some (.pool e w) | 0x40 => some (.vadd e w) | 0x41 => some (.vmul e w)
  | 0x42 => some (.vshift e w) | 0x43 => some (.vmax e w) | 0x44 => some (.vsum e w) | 0x45 => some (.vexp2 e w)
  | 0x46 => some (.vrcp e w) | 0x47 => some (.vrsqrt e w) | 0x48 => some (.vsoftmax e w) | 0x49 => some (.vnorm e w)
  | 0x4A => some (.vrope e w) | 0x50 => some (.qcal e w) | 0x51 => some (.qcvt e w) | 0x52 => some (.qstat e w)
  | 0x58 => some (.kvappend e w) | 0x59 => some (.kvattn e w) | 0x5A => some (.kvevict e w) | 0x5B => some (.kvdrop e w)
  | 0x60 => some (.tokenize e w) | 0x61 => some (.detok e w) | 0x62 => some (.maskgen e w) | 0x63 => some (.sample e w)
  | 0x64 => some (.stopchk e w) | 0x68 => some (.decode e w) | 0x69 => some (.fetchsample e w) | 0x6A => some (.batchclose e w)
  | 0x70 => some (.rsend e w) | 0x71 => some (.rrecv e w) | 0x72 => some (.allred e w) | 0x78 => some (.gradq e w)
  | 0x79 => some (.optstep e w)
  | _ => none

end Sys2Proof
end

