-- ==== Sys2Proof/Config.lean ====
section
/-! DEFINITION. What the silicon or a published standard fixes and the spec leaves open: constants of this part,
and the free values (opaque constants: nothing in Lean can evaluate one). -/

namespace Sys2Proof.Config

/-- SYS_ID.REV_LETTER (R476: "Silicon"). DESIGN CHOICE (log 6): letter A. -/
def revLetter : Nat := 0x41
/-- SYS_ID.REV_DIGIT. DESIGN CHOICE (log 6): 0. -/
def revDigit : Nat := 0
/-- SYS_ID.GRADE. DESIGN CHOICE (log 6): 0, the -C grade. -/
def grade : Nat := 0

/-- What the headers of one coded sample say (R159, R301 to R303, R310, R311), under the published standard of its format. -/
structure SampleInfo where
  /-- Header bytes H. -/
  header : Nat
  /-- Size of the sample: cropped to the conformance window, or the frame (R302). -/
  width : Nat
  height : Nat
  /-- Size of the coded picture, in luma samples (R303). -/
  codedWidth : Nat
  codedHeight : Nat
  /-- 12-bit JPEG, or 10-bit video. -/
  deep : Bool
  /-- Monochrome video. -/
  mono : Bool
  /-- Horizontal and vertical sampling factors of the components of a JPEG image. -/
  components : List (Nat × Nat)
  /-- The headers show an excluded item of R300 or R301. -/
  excluded : Bool
  /-- Bytes of decoded-picture buffer the sequence header and level need (R310). -/
  dpbBytes : Nat
  /-- Picture order count or order hint. -/
  order : Nat
  /-- AV1 film grain parsed and not applied. -/
  filmGrain : Bool
deriving DecidableEq, Repr, Inhabited

/-- Free value (log 2): the header parse of a coded sample, by format (R309 offset 0x00). -/
opaque parseSample : (format : Nat) → (coded : List Byte) → SampleInfo

/-- What a decoder starts a sample with: the stream's reference state, the bytes of its decoded-picture buffer, and the background code
that a reference never decoded reads as (R305). -/
structure DecodeInput where
  reference : Nat
  stored : List Byte
  background : Nat
deriving DecidableEq, Repr

/-- Free value (log 2): the sample values, in plane and row order, that a decoder of the format gives for a coded sample;
shorter than the planes when the data ends early (R305). -/
opaque decodeSample : (format : Nat) → DecodeInput → (coded : List Byte) → List Nat

/-- Free value (log 2): the reference state after a picture. -/
opaque nextReference : (format : Nat) → DecodeInput → (coded : List Byte) → Nat

/-- Free value (log 43): the bytes that a picture writes into the decoded-picture buffer, by offset in its area: its reconstruction in a
frame that the reference state does not name (R310). -/
opaque dpbPicture : (format : Nat) → DecodeInput → (coded : List Byte) → List (Nat × Byte)

/-- Free value (log 2): the Annex B bytes of one RTP payload (RFC 6184, RFC 7798), by stream format. -/
opaque annexB : (format : Nat) → (payload : List Byte) → List Byte

/-- Free value (log 3): the device's HSS signature with a leaf over a report (R415, R439). -/
opaque hssSign : (leaf : Nat) → (report : List Byte) → List Byte

/-- Free value (log 3): the device ID, 32 bytes of NVS (R415). -/
opaque deviceId : List Byte

/-- Free value (log 3): the device certificate, a word at each byte offset (R415, R484). -/
opaque certificateWord : Nat → Word

/-- Free value (log 3): the node cache of a bottom tree (R411, R419). -/
opaque bottomTreeCache : Nat → List Byte

/-- Free value (log 3): half the size of the flash device at the xSPI balls (R413). -/
opaque slot1Default : Nat

/-- Free value (log 3): the MAC base taken from the device ID (R413), 6 bytes. -/
opaque macBase : List Byte

/-- Free value (log 3): the LMS key and signature bytes of a bottom tree (R417), by its index. -/
opaque bottomTreeKey : Nat → List Byte

/-- Free value (log 97): the 32 bits that a 32-bit field takes of a value outside the signed range, where no rule says `saturate`. -/
opaque wideWord : Int → Word

/-- Free value (log 4): a value the spec states no result for, by a running number. -/
opaque freeValue : Nat → Word

/-- Free value (log 112): VDD_CORE steps of 5 mV above 550 mV that the process monitors ask for at a collimation, by the edge of its beginning (R500: the lowest
voltage that meets every count; modulo the 31 steps of R499). -/
opaque coreSteps : Nat → Nat

end Sys2Proof.Config
end

