-- ==== Sys2Proof/Machine/Arith.lean ====
section
/-! DEFINITION. The integer arithmetic of chapter 06 (clamps, saturation, the truncating shift), the exact fixed-point
functions of R149, and the byte-order helpers. -/

namespace Sys2Proof.Machine

/-- Clamp to lo .. hi. -/
def clamp (lo hi x : Int) : Int := if x < lo then lo else if hi < x then hi else x

/-- Saturate to a signed width of w bits (R167). -/
def satTo (w : Nat) (x : Int) : Int := clamp (-(2 ^ (w - 1))) (2 ^ (w - 1) - 1) x

/-- shift(x, s) of R169: right with truncation toward zero, left exactly. -/
def shiftTz (x s : Int) : Int := if 0 ≤ s then x.tdiv (2 ^ s.toNat) else x * 2 ^ (-s).toNat

/-- ceil(a / b). -/
def ceilDiv (a b : Nat) : Nat := (a + b - 1) / b

/-- The greatest y below 2^n above `acc` that `p` holds for, one bit at a time from the top. -/
def greatest (p : Nat → Bool) : Nat → Nat → Nat
  | 0, acc => acc
  | n + 1, acc => if p (acc + 2 ^ n) then greatest p n (acc + 2 ^ n) else greatest p n acc

/-- floor(65,536 * 2^(x / 65,536)) of R149: the greatest y with y^65,536 ≤ 2^(16 * 65,536 + x). From x = 15 * 65,536 on
the value is 2^31 or more, which saturates every format, and 2^31 stands for it; at or below -17 * 65,536 it is 0. -/
def vexp2 (x : Int) : Int :=
  if x ≤ -17 * 65536 then 0
  else if 15 * 65536 ≤ x then 2 ^ 31
  else
    let t : Int := 16 * 65536 + x
    if t < 0 then 0
    else (greatest (fun y => y ^ 65536 ≤ 2 ^ t.toNat) 32 0 : Nat)

/-- trunc(2^32 / x); 2^31 - 1 at 0 (R149). -/
def vrcp (x : Int) : Int := if x = 0 then 2 ^ 31 - 1 else (2 ^ 32 : Int).tdiv x

/-- floor(2^24 / sqrt(x)) for x > 0: the greatest y with y^2 * x ≤ 2^48; 2^31 - 1 otherwise (R149). -/
def vrsqrt (x : Int) : Int :=
  if 0 < x then (greatest (fun y => y * y * x.toNat ≤ 2 ^ 48) 25 0 : Nat) else 2 ^ 31 - 1

/-- floor(65,536 * log2(sum / 65,536)) for sum at or above 65,536 (R246). -/
def logSum (sum : Nat) : Int := (Nat.log2 (sum ^ 65536) : Int) - 16 * 65536

/-- A saturating 32-bit counter (R475). -/
def bump (n k : Nat) : Nat := min (n + k) 0xFFFFFFFF

/-! ### Bytes -/

/-- The n bytes of x, least significant first. -/
def bytesLe (x : Nat) : Nat → List Byte
  | 0 => []
  | n + 1 => BitVec.ofNat 8 x :: bytesLe (x / 256) n

/-- The n bytes of x, most significant first. -/
def bytesBe (x n : Nat) : List Byte := (bytesLe x n).reverse

/-- The value of bytes, least significant first. -/
def leValue : List Byte → Nat
  | [] => 0
  | b :: r => b.toNat + 256 * leValue r

/-- The value of bytes, most significant first. -/
def beValue (l : List Byte) : Nat := leValue l.reverse

/-- A w-bit two's-complement value. -/
def signed (w x : Nat) : Int := let y := x % 2 ^ w; if y < 2 ^ (w - 1) then (y : Int) else (y : Int) - 2 ^ w

/-- The w low bits of an integer. -/
def lowBits (w : Nat) (x : Int) : Nat := (x % (2 ^ w : Int)).toNat

/-- What a signed 32-bit field of a record or a scale bank takes of an exact value: its bits, or a free value where it lies outside the
range (R168 saturates only where a rule says so; log 97). -/
def word32 (x : Int) : Nat := if satTo 32 x = x then lowBits 32 x else (Config.wideWord x).toNat

/-- Bits hi .. lo of x. -/
def bits (x hi lo : Nat) : Nat := x / 2 ^ lo % 2 ^ (hi + 1 - lo)

/-- Bit i of x. -/
def bit (x i : Nat) : Bool := x / 2 ^ i % 2 = 1

/-- A Boolean as a bit. -/
def b2n (b : Bool) : Nat := if b then 1 else 0

/-- ASCII bytes of a word. -/
def ascii (s : String) : List Byte := s.toList.map fun c => BitVec.ofNat 8 c.toNat

end Sys2Proof.Machine
end

