-- ==== Sys2Proof/Machine/Facet.lean ====
section
/-! DEFINITION. A facet in its fields (R421 to R431): the operating profile in force. -/

namespace Sys2Proof.Machine

/-- The timing, power and cascade part (R422). -/
structure TimingCfg where
  source : Nat
  /-- D, 1 to 65,536. -/
  divider : Nat
  refPeriod : Nat
  /-- Declared interval in IMAGE cycles (R42). -/
  interval : Nat
  envelope : Nat
  /-- BUDGET values: full, reduced, low, critical, mW. -/
  budgetFull : Nat
  budgetReduced : Nat
  budgetLow : Nat
  budgetCritical : Nat
  capacity : Nat
  /-- Thermal ceiling, 1/16 C. -/
  ceiling : Nat
  floor : Nat
  encoderLevel : Nat
  timerLevel : Nat
  preview : Option Nat
  encoderEdges : Nat
  /-- Hold times of Stops 1 to 4, ms. -/
  hold1 : Nat
  hold2 : Nat
  hold3 : Nat
  hold4 : Nat
  wakeLine : Line
  wakeOn : Bool
deriving DecidableEq, Repr

/-- The island part (R423). -/
structure IslandCfg where
  mic : Nat
  wakeN : Bool
  tdm48 : Bool
  owner : Option Nat
  inbox : Nat
  windowKib : Nat
  frameSem : Nat
  threshold : Int
  timeout : Nat
  taps : List Int
deriving DecidableEq, Repr

/-- A sensor-port record (R426). -/
structure PortCfg where
  lanes : Nat
  dataType : Nat
  channel : Nat
  locked : Bool
  bonded : Bool
  rate : Nat
  length : Nat
  mclk : Nat
  mclkDiv : Nat
  share : Nat
  ringOwner : Nat
  ringLines : Nat
  ringKib : Nat
  logKib : Nat
deriving DecidableEq, Repr

/-- A CCI record (R427). -/
structure CciCfg where
  /-- 0 I3C 12.5 MHz, 1 I3C 6.25 MHz, 2 I2C 1 MHz, 3 I2C 400 kHz. -/
  bus : Nat
  enabled : Bool
  owner : Nat
  windowKib : Nat
  targets : List Nat
deriving DecidableEq, Repr

/-- A video pipeline's record (R428): w and the owner of each slot; page pipelines are a list of owners. -/
structure PipeCfg where
  slots : Nat
  owners : List Nat
deriving DecidableEq, Repr

/-- A context record (R429, CTX_RECORD of R478). -/
structure CtxRecord where
  present : Bool
  restart : Bool
  module : Nat
  level : Nat
  ceiling : Nat
  engines : BitVec 64
  /-- ES steps minus one, 2 bits an engine. -/
  esSteps : BitVec 128
  /-- CS steps of cores 0 to 15, a byte each. -/
  csSteps : BitVec 128
  xs : Nat
  ds : Nat
  batch : Nat
  sinks : Nat
  allotment : Nat
  soft : Nat
  hard : Nat
  reductionKib : Nat
  reductionSize : Nat
  /-- A reserved field of the record is not zero. -/
  reserved : Bool
deriving DecidableEq, Repr

/-- A chip semaphore's facet entry (R430). -/
structure SemCfg where
  total : Nat
  isUnit : Bool
deriving DecidableEq, Repr

/-- A semaphore binding (R430). -/
structure Binding where
  chip : Nat
  bound : Bool
  initial : Nat
deriving DecidableEq, Repr

/-- An inbox of a context (R348, R430). -/
structure InboxCfg where
  /-- XS offset in 16-byte words. -/
  offset : Nat
  /-- Entry size Z in bytes. -/
  size : Nat
  /-- Entry count E; 0 for no inbox. -/
  count : Nat
deriving DecidableEq, Repr

/-- A shared window (R430). -/
structure SharedCfg where
  writer : Nat
  readers : BitVec 32
  kib : Nat
  sizeKib : Nat
deriving DecidableEq, Repr

/-- An outbox (R100, R101, R348): bytes of a context's XS space whose writes are posted at COMMIT into an inbox of another context. The
facet's layout gives outboxes no place, so a facet read from bytes declares none (DESIGN CHOICE, log 107). -/
structure OutboxCfg where
  owner : Nat
  kib : Nat
  sizeKib : Nat
  target : Nat
  inbox : Nat
deriving DecidableEq, Repr

/-- A receive window of the Relay plan (R431). -/
structure WindowCfg where
  part : Nat
  owner : Nat
  fromPart : Nat
  fromSlot : Nat
  /-- XS offset, 16-byte words. -/
  offset : Nat
  /-- Size in bytes. -/
  size : Nat
  number : Nat
deriving DecidableEq, Repr

/-- A facet (R421), parsed. -/
structure Facet where
  timing : TimingCfg
  island : IslandCfg
  /-- Function code of each of the 80 mux balls (R424). -/
  balls : List Nat
  widthCeiling : Nat
  heightCeiling : Nat
  pixelCeiling : Nat
  glintPort : Option Nat
  glintOwner : Nat
  glintKib : Nat
  setSize : Nat
  partIndex : Nat
  net0 : Bool
  net1 : Bool
  /-- Thermal coefficients h_k. -/
  heat : List Nat
  ports : Table PortCfg
  ccis : Table CciCfg
  videos : Table PipeCfg
  /-- Owner of page pipeline p, 0xFF for none. -/
  pages : List Nat
  contexts : Table CtxRecord
  sems : Table SemCfg
  /-- Key: 64 * context + inbox number. -/
  inboxes : Table InboxCfg
  shared : List SharedCfg
  outboxes : List OutboxCfg
  /-- Key: 64 * context + context semaphore. -/
  bindings : Table Binding
  windows : List WindowCfg
  /-- Word slots per round (R391); key 256 * part + 8 * slot + peer number. -/
  grants : Table Nat
  /-- First 8 bytes of the Relay digest (R431). -/
  relayDigest : BitVec 64
  /-- SHA-256 of the facet's bytes (R421 header 0x10). -/
  digest : List Byte
deriving DecidableEq, Repr

/-- The context record of an empty slot. -/
def CtxRecord.none : CtxRecord :=
  { present := false, restart := false, module := 0, level := 0, ceiling := 0, engines := 0, esSteps := 0, csSteps := 0,
    xs := 0, ds := 0, batch := 0, sinks := 0, allotment := 0, soft := 0, hard := 0, reductionKib := 0, reductionSize := 0,
    reserved := false }

/-- A sensor-port record that declares nothing. -/
def PortCfg.none : PortCfg :=
  { lanes := 0, dataType := 0, channel := 0, locked := false, bonded := false, rate := 0, length := 0, mclk := 0,
    mclkDiv := 0, share := 0, ringOwner := 0, ringLines := 0, ringKib := 0, logKib := 0 }

/-- A CCI controller that is not enabled. -/
def CciCfg.none : CciCfg := { bus := 0, enabled := false, owner := 0, windowKib := 0, targets := [] }

/-- A pipeline nobody owns. -/
def PipeCfg.none : PipeCfg := { slots := 1, owners := [] }

/-- An unused chip semaphore. -/
def SemCfg.none : SemCfg := { total := 0, isUnit := false }

/-- An unbound context semaphore. -/
def Binding.none : Binding := { chip := 0, bound := false, initial := 0 }

/-- No inbox. -/
def InboxCfg.none : InboxCfg := { offset := 0, size := 0, count := 0 }

/-- The empty facet (R433). Fields R433 does not give are DESIGN CHOICE (log 6). -/
def Facet.empty : Facet :=
  { timing := { source := 0, divider := 1, refPeriod := 16384, interval := 200, envelope := 60000, budgetFull := 60000,
                budgetReduced := 60000, budgetLow := 60000, budgetCritical := 60000, capacity := 4000000, ceiling := 1600,
                floor := 1, encoderLevel := 1, timerLevel := 1, preview := Option.none, encoderEdges := 1, hold1 := 65535,
                hold2 := 65535, hold3 := 65535, hold4 := 65535, wakeLine := 0, wakeOn := false },
    island := { mic := 0, wakeN := false, tdm48 := false, owner := Option.none, inbox := 0, windowKib := 0, frameSem := 0,
                threshold := 0, timeout := 1, taps := List.replicate 32 0 },
    balls := List.replicate 80 0, widthCeiling := 0, heightCeiling := 0, pixelCeiling := 0, glintPort := Option.none,
    glintOwner := 0, glintKib := 0, setSize := 1, partIndex := 0, net0 := true, net1 := true, heat := List.replicate 32 0,
    ports := [], ccis := [], videos := [], pages := List.replicate 8 0xFF, contexts := [], sems := [], inboxes := [],
    shared := [], outboxes := [], bindings := [], windows := [], grants := [], relayDigest := 0, digest := [] }

end Sys2Proof.Machine
end

