-- ==== Sys2Proof/Machine/State.lean ====
section
/-! DEFINITION. The state of the part as plain data: every register, store, buffer, counter, mode and ball the spec
gives it, and the queue of waiting commands. `State.reset` is the part before POWER_GOOD rises. -/

namespace Sys2Proof.Machine

open Sys2Proof

/-- A store: byte address to byte, unlisted bytes reading 0 (R199); flash unlisted bytes read 0xFF. -/
abbrev Memory := Table Byte

/-- Why the machine stops with a fault. The spec gives every step a next state, so none is raised. -/
inductive Fault where
  /-- Reserved: no meaning raises it (a safe stop). -/
  | unreachable
deriving DecidableEq, Repr

/-- Why a command is refused. -/
inductive Refusal where
  /-- Raised by exec for a row that has no meaning yet (safe). -/
  | notModelled (mnemonic : String)
deriving DecidableEq, Repr

/-! ### LIX, clocks (chapter 02) -/

/-- The Line Index, its front end and the island's copy (R27 to R47). -/
structure Lix where
  count : Line
  phase : BitVec 16
  /-- The phase holds until the next edge the front end accepts: before the first edge of a source, and across Stop 0 (R37, R45, R46). -/
  hold : Bool
  source : Nat
  /-- D, 1 to 65,536. -/
  divider : Nat
  refPeriod : Nat
  /-- Line edges raised by the source and not yet accepted at a strobe (R32, R33). -/
  due : Nat
  /-- The interval check is not applied to the next edge (R45). -/
  firstEdge : Bool
  overspeed : Bool
  /-- No timing guarantee (R43). -/
  suspended : Bool
  /-- Quadrature position and the highest reached (R29). -/
  position : Int
  high : Int
  /-- Origin from which H is divided (0 at selection, H_c after a divider write; R29). -/
  origin : Int
  /-- Rising edges of ENC3 since the last line edge. -/
  pulses : Nat
  encA : Bool
  encB : Bool
  enc3 : Bool
  indexCount : Line
  indexPhase : BitVec 16
  capCount : Line
  capPhase : BitVec 16
  late : Nat
  /-- LIX_STATUS.ISLAND_ONLY (R46). -/
  islandOnly : Bool
  /-- Line edges since the last ISLAND millisecond tick (R378). -/
  msEdges : Nat
  /-- ARITH edge at which the count last changed (log 4). -/
  edgeAt : Nat
deriving DecidableEq, Repr

/-- CLK block (R49, R50, R477). -/
structure Clk where
  /-- PLL A, PLL B, island PLL. -/
  lock : BitVec 3
  collimated : Bool
  fail : Bool
  attempts : Nat
  /-- A collimation sequence is running: dividers gated and released, beat 64 not reached (R49). -/
  running : Bool
  /-- VDD_CORE target in mV, as the part has written it to rail 0 with the AVSBus Voltage command (R500). -/
  coreTarget : Nat
  /-- SENSOR_MCLK outputs that run; the others are low (R506). -/
  mclk : BitVec 4
deriving DecidableEq, Repr

/-! ### Glint (chapter 03) -/

/-- A REFLEX_OUT ball's rule state (R66). -/
structure Ball where
  active : Bool
  /-- Lines left of a mode 2 pulse, counting the line of its set. -/
  lines : Nat
  /-- A mode 3 pulse is running. -/
  pulse : Bool
deriving DecidableEq, Repr

/-- The Glint unit (R59 to R75). -/
structure Glint where
  /-- The active bank and the window, bytes 0x000 to 0xFDF (R71). -/
  active : Memory
  window : Memory
  /-- Upsets of the words of the active bank and of the window. -/
  upActive : Table (BitVec 144)
  upWindow : Table (BitVec 144)
  flags : Word
  target : Line
  armed : Bool
  refused : Bool
  late : Nat
  /-- A bank has been swapped in since the last reset, loss or clear (R75). -/
  installed : Bool
  /-- Balls driven since reset, and the polarity they are held at while no bank is installed (R75). -/
  driven : BitVec 16
  heldPolarity : BitVec 16
  /-- Rule results of the previous line (R61, GLINT_FIRED). -/
  fired : Word
  balls : Table Ball
  /-- Synchronised REFLEX_IN (R63). -/
  input : BitVec 16
deriving DecidableEq, Repr

/-! ### Accumulator banks -/

/-- The correction header of a bank (R175). -/
structure Header where
  valid : Bool
  zw : Int
  za : Int
  ktot : Nat
  bank : Nat
  perChannel : Bool
  /-- The weights descriptor's scale-present bit, so that R171 holds for its column sums; no field of R175 and never compared (log 101). -/
  scaled : Bool
  /-- 0 matrix, 1 depthwise. -/
  kind : Nat
  format : Nat
deriving DecidableEq, Repr

/-- A bank (R200): the tile by 64 * m + n, the row sums, the header, and the upsets of its codewords: word k of four tile entries, then
word 1,024 + k of four row sums (R213). -/
structure Bank where
  tile : Table Int
  rows : Table Int
  header : Header
  up : Table (BitVec 144)
deriving DecidableEq, Repr

/-! ### Instances -/

/-- An end of an instance that a dependent may consume (R99, R107). -/
structure EndRec where
  /-- XS word offset of its completion record. -/
  record : Nat
  /-- 0 committed, 1 halted, 2 failed, 3 skipped, 4 torn down. -/
  kind : Nat
  status : Nat
deriving DecidableEq, Repr

/-- Why a ready instance is deferred (R354). -/
inductive Deferral where
  | no | tokens | heat
deriving DecidableEq, Repr

/-- A ready instance: what it starts from (R96, R351). -/
structure Ready where
  slot : Nat
  cmd : Nat
  readyEdge : Nat
  /-- Trigger line of a line-triggered command. -/
  line : Line
  /-- s2 at the start: message or completion record. -/
  s2 : Word
  /-- Inbox and entry held until its end. -/
  inbox : Option (Nat × Nat)
  deferral : Deferral
  tokenBeats : Nat
  heatBeats : Nat
  /-- Restart's context-start instance (R382). -/
  isStart : Bool
  /-- It ends as skipped with this status (R107). -/
  skip : Option Nat
deriving DecidableEq, Repr

/-- An active loop (R132): body bounds, trip, count, index register. -/
structure LoopFrame where
  first : Nat
  last : Nat
  trip : Nat
  trips : Nat
  reg : Option Nat
  /-- Calls open when the loop was entered. -/
  depth : Nat
deriving DecidableEq, Repr

/-- What an instance waits on inside its command (R111). -/
inductive Wait where
  | none
  /-- An ATL or a WAITL; an ATL that a freeze has held in its wait is marked resumed (R361). -/
  | line (target : Line) (phase : Nat) (atl : Bool) (resumed : Bool)
  /-- BEAT: the beat count that ends it. -/
  | beat (target : Nat)
  /-- SEMWAIT: chip semaphore, count, and the result register of a replayed test form (R450). -/
  | sem (chip : Nat) (count : Nat) (reg : Option Nat)
  | credit (peer : Nat) (count : Nat)
  | message (w : Insn)
  /-- An ALLRED's receives: the chunks toward their owner (0), then the combined chunks (1); `xs` are the source's elements as read. -/
  | reduce (w : Insn) (phase : Nat) (xs : List Int)
deriving DecidableEq, Repr

/-- A move from the audio ring in flight (R331): its instruction, whether a cut fails it, the edge of its last word, and the elements
it writes: the edge on which the last of their words is delivered, the space, the bit address and the width. -/
structure RingMove where
  idx : Nat
  fails : Bool
  last : Nat
  pieces : List (Nat × Nat × Nat × Nat)
deriving DecidableEq, Repr

/-- An instruction issued and not completed: its queue (R122) and its completion edge. -/
structure Entry where
  queue : Nat
  done : Nat
  /-- Bytes read and written (space, first, last); space 4 is the bank, 5 the scalar registers. -/
  reads : List (Nat × Nat × Nat)
  writes : List (Nat × Nat × Nat)
  /-- Instruction index and destination digest of a marked instruction, traced at its completion (R445). -/
  mark : Option (Nat × BitVec 64)
  ring : Option RingMove
deriving DecidableEq, Repr

/-- A deferred sample of a stream (R313). -/
structure Deferred where
  entry : Nat
  width : Nat
  height : Nat
  order : Nat
  format : Nat
  short : Bool
  grain : Bool
  /-- Background code of its batch. -/
  background : Nat
  /-- XS word offset of the stream record, DS byte offset and size of the entry, and of the DPB area, as the DECODE checked them. -/
  record : Nat
  place : Nat
  size : Nat
  dpbAt : Nat
  dpbSize : Nat
  /-- An access unit of no bytes: background alone (R308). -/
  empty : Bool
  /-- Decoded, and the digest of its planes. -/
  decoded : Bool
  digest : BitVec 64
  coded : List Byte
deriving DecidableEq, Repr

/-- A link send released at COMMIT (R108, R162). -/
structure Send where
  peer : Nat
  window : Nat
  message : Nat
  offset : Nat
  length : Nat
  credits : Nat
deriving DecidableEq, Repr

/-- A message of a receive window (R394). -/
structure Message where
  number : Nat
  slot : Nat
  offset : Nat
  length : Nat
  released : Bool
  last : Bool
  /-- Its credits have gone back already (a receiver killed after its RRECV). -/
  returned : Bool
deriving DecidableEq, Repr

/-- A running or frozen instance. -/
structure Inst where
  origin : Ready
  ve : Nat
  group : Nat
  engine : Nat
  prio : Nat
  admitEdge : Nat
  /-- Context step counter at the start (R255). -/
  stepAtStart : BitVec 64
  /-- Edge from which the next instruction may issue. -/
  nextIssue : Nat
  regs : Table Word
  /-- Index of the next instruction within the module's stream. -/
  pc : Nat
  calls : List Nat
  loops : List LoopFrame
  wait : Wait
  queue : List Entry
  /-- Edge from which each queue may issue (occupancy, R123). -/
  queueFree : Table Nat
  /-- Commit buffer: staged bytes; key is the XS address, or 2^40 plus the DS address. -/
  staged : Memory
  /-- Upsets of the buffer's words, by the key of a byte divided by 16. -/
  stagedUp : Table (BitVec 144)
  /-- Bytes read from state that existed before the command, and bytes it wrote in place (same keys; R101). -/
  readSet : Table Bool
  wroteSet : Table Bool
  /-- Staged posts and provisional holds, by chip semaphore (R103). -/
  posts : Table Nat
  holds : Table Nat
  sends : List Send
  /-- Outboxes written, in the order of their first write (R108). -/
  outs : List Nat
  credits : Table Nat
  failed : Option (Nat × Nat)
  info : Option (Nat × Nat)
  /-- Execution cycles so far, and the edge up to which they are counted. -/
  cycles : Nat
  front : Nat
  /-- Picojoules charged so far (R130). -/
  energy : Nat
  reserved : Nat
  saturated : Nat
  satEvent : Bool
  theta : Nat
  /-- Instruction index and destination digest of each digested instruction (R443). -/
  digests : List (Nat × BitVec 64)
  late : Bool
  /-- Times each predicated instruction has executed, by its index in the stream (R114). -/
  outcomes : Table Nat
  carryIn : Bool
  allred : Bool
  /-- Messages received, with their windows: a kill puts them back (R110). -/
  received : List (Nat × Message)
  /-- Edge from which a freeze or a breakpoint holds it, and the queues at that time while the instruction it was held before has
  not issued: its frozen time runs from the edge on which that instruction would have issued (R361). -/
  frozenAt : Nat
  held : Option (Nat × List Entry)
  /-- A breakpoint holds it; it may issue the instruction it stopped at (R451). -/
  halted : Bool
  passed : Bool
  /-- Batches whose slots it has filled, one entry a slot in flight (R318), deferred samples to queue at COMMIT (R313), samples
  decoded with the reference state each leaves (R310), by stream. -/
  fills : List Nat
  deferred : List (Nat × Deferred)
  references : List (Nat × Nat × Nat)
  /-- Fetches made (key as `Ctx.fetched`), and batches reopened (XS word offset) with the held slots each returned. -/
  fetched : List (Nat × Nat × Nat × Nat)
  reopened : List (Nat × Nat)
deriving DecidableEq, Repr

/-- An engine: what runs on it, what is frozen on it (most recent first), a pre-emptor it waits for. -/
structure Engine where
  run : Option Inst
  frozen : List Inst
  /-- A freeze in progress: the drain edge c (R360). -/
  draining : Option Nat
  /-- A pre-emptor waiting for an excluded holder (R358), and since which edge. -/
  waiting : Option (Ready × Nat)
  /-- The pre-emptor of a freeze in progress, its tokens reserved (R360). -/
  incoming : Option Ready
  /-- The engine is free for admission from this edge. -/
  freeAt : Nat
deriving DecidableEq, Repr

/-! ### Contexts -/

/-- A slot's state (R346). -/
inductive SlotState where
  | empty | loading | active | parked | stopped | clearing
deriving DecidableEq, Repr

/-- Link credits of a context toward a peer (R368, R393). -/
structure Credit where
  grant : Nat
  free : Nat
  held : Nat
  flight : Nat
  /-- Next message number toward the peer (R389). -/
  message : Nat
deriving DecidableEq, Repr

/-- A message written into an inbox and not yet visible (R349). -/
structure Pending where
  inbox : Nat
  entry : Nat
  arrival : Nat
  digest : BitVec 64
deriving DecidableEq, Repr

/-- A decoder stream's private state (R306 to R314). -/
structure Stream where
  /-- XS word offset of its stream record. -/
  record : Nat
  lastSeq : Option (BitVec 16)
  ssrc : Option Word
  unitTime : Option Word
  unitBytes : List Byte
  gap : Bool
  discarded : Bool
  /-- Write offset in the coded ring. -/
  ringAt : Nat
  queue : List Deferred
  /-- Deferred entries bound into batches, still held. -/
  bound : List Nat
  /-- Reference state of the committed stream (R310). -/
  reference : Nat
  /-- Access units written and samples decoded that the record's counts do not show yet: they show at a COMMIT (R309). -/
  unitsDue : Nat
  samplesDue : Nat
deriving DecidableEq, Repr

/-- Replay of a slot (R450). -/
structure Replay where
  on : Bool
  words : List Word
deriving DecidableEq, Repr

/-- Stores of a context and the upsets of their codewords (R213, R214). ES key: 2^30 * virtual engine + offset,
CS key: 2^30 * group + offset. Upset key: the same address divided by 16. -/
structure Stores where
  es : Memory
  cs : Memory
  xs : Memory
  ds : Memory
  upEs : Table (BitVec 144)
  upCs : Table (BitVec 144)
  upXs : Table (BitVec 144)
  upDs : Table (BitVec 144)
deriving DecidableEq, Repr

/-- Command bookkeeping of a context. -/
structure Progress where
  /-- Earlier commits of each command (s3). -/
  commits : Table Nat
  /-- Ends of each command that wrote a record (j of R106). -/
  ends : Table Nat
  /-- Unconsumed ends, key 2^16 * dependent + predecessor. -/
  unconsumed : Table (List EndRec)
  /-- Instances running or frozen, by command. -/
  running : Table Bool
  /-- Line edges since the context started. -/
  lines : Nat
  arrivals : Table Nat
  /-- Held inbox entries, key 4,096 * inbox + entry. -/
  entries : Table Bool
  pending : List Pending
deriving DecidableEq, Repr

/-- A context slot. -/
structure Ctx where
  state : SlotState
  loadCode : Nat
  lastStatus : Nat
  /-- CTX_RECORD_c. -/
  record : CtxRecord
  /-- The record whose shares are granted. -/
  granted : CtxRecord
  module : Option Module
  /-- Engine of each virtual engine (R81). -/
  bindings : Table Nat
  /-- Core of each group. -/
  cores : Table Nat
  stores : Stores
  /-- Banks, by engine. -/
  banks : Table Bank
  step : BitVec 64
  chain : BitVec 64
  progress : Progress
  /-- Committed holdings, by chip semaphore. -/
  held : Table Nat
  inboxOverflow : Nat
  tokensHeld : Nat
  satCount : Nat
  satEvents : Nat
  theta : Nat
  /-- What QNT_CLIP_THRESHOLD held before its last write, and the edge of that write (R186). -/
  thetaWas : Nat
  thetaEdge : Nat
  credits : Table Credit
  batchHeld : Nat
  batchFlight : Nat
  streams : Table Stream
  /-- Batch descriptors the context has sealed, by XS word offset (R317). -/
  batches : Table Bool
  /-- Fetched slots, key 64 * batch offset + slot: the buffer word before the fetch, stream and deferred entry (R316). -/
  fetched : Table (Nat × Nat × Nat)
  replay : Replay
  /-- A teardown takes effect on the edge after its cause: the cause, the faulting instance's engine, that edge. -/
  tear : Option (TearCause × Option Nat × Nat)
  /-- A restart follows when the slot is empty or its peers are reachable: the kind 13 cause. -/
  restart : Option Nat
  /-- Only the context-start instance is admitted until it has ended (R382). -/
  startOnly : Bool
  /-- Bound and not yet started: its context-start instances come when it first becomes active. -/
  starting : Bool
deriving DecidableEq, Repr

/-! ### Ledgers -/

/-- Who has a step of a store (R368, R457). -/
inductive Owner where
  | free | held (c : Nat) | clearing (c : Nat) | part
deriving DecidableEq, Repr

/-- A waiter of a chip semaphore (R363), with the edge on which its SEMWAIT came up. -/
structure Waiter where
  slot : Nat
  cmd : Nat
  count : Nat
  edge : Nat
deriving DecidableEq, Repr

/-- A chip semaphore (R362 to R364). Holdings of contexts are in `Ctx.held`, provisional holds in `Inst.holds`. -/
structure Sem where
  total : Nat
  free : Nat
  /-- A unit's holding. -/
  isUnit : Bool
  unitHeld : Nat
  waiters : List Waiter
  /-- Counts posted on the edge freshEdge, free from the edge after it (R108, R364). -/
  fresh : Nat
  freshEdge : Nat
deriving DecidableEq, Repr

/-- The ledgers of the stores, and the registers of the LEDGER block (R196, R479). -/
structure Ledgers where
  es : Table Owner
  banks : Table Owner
  cs : Table Owner
  xs : Table Owner
  ds : Table Owner
  sems : Table Sem
  unitOverflow : Nat
  unitLast : Nat
  violation : Bool
  which : Nat
  index : Nat
  total : Nat
  free : Nat
  held : Nat
  flight : Nat
  select : BitVec 26
  selTotal : Nat
  selFree : Nat
  selHeld : Nat
  selFlight : Nat
deriving DecidableEq, Repr

/-! ### Stores, media -/

/-- MEM block (R219, R480) and scrub positions (R210, R216). -/
structure MemRegs where
  corrEs : Nat
  corrCs : Nat
  corrXs : Nat
  corrDs : Nat
  corrOther : Nat
  uncorr : Nat
  lastAddr : BitVec 40
  lastCtx : Nat
  lastStore : Nat
  lastCore : Nat
  dsPasses : Nat
  sramPasses : Nat
  dsPage : Nat
  dsBlock : Nat
  /-- Upsets of the words outside the contexts' shares (R213): the island's and the warden's SRAM beside the audio ring, the part's own XS
  and DS (R198), and the steps that are free or clearing, key 2^48 * store + 2^32 * step + word. -/
  upIsland : Table (BitVec 144)
  upWarden : Table (BitVec 144)
  upPartXs : Table (BitVec 144)
  upPartDs : Table (BitVec 144)
  upFree : Table (BitVec 144)
  /-- Counters that have posted their event in this ISLAND millisecond (R219, R398): 2 * status + 1, and one more where the counter
  has changed again since. -/
  posted : Table Nat
deriving DecidableEq, Repr

/-- A line held in a ring slot (R232). -/
structure RingLine where
  line : Line
  bytes : List Byte
deriving DecidableEq, Repr

/-- A sensor port (R57, R231, R289, R290). -/
structure Port where
  up : Bool
  depth : BitVec 8
  retrains : Nat
  dropped : Nat
  ignored : Nat
  ring : Table RingLine
  /-- Upsets of the line buffer's words, by the window's offset divided by 16. -/
  upRing : Table (BitVec 144)
  newest : Option Line
  frame : BitVec 16
  frameOpen : Bool
  firstLine : Option Line
  lastLine : Line
  frameDropped : Nat
  /-- A half waiting for its partner's (R292): pixels or a drop, and LIX at its first pixel. -/
  half : Option (Option (List Nat) × Line)
deriving DecidableEq, Repr

/-- One transaction of a camera list (R295). -/
structure CciEntry where
  address : Nat
  read : Bool
  regBytes : Nat
  count : Nat
  register : Word
  data : List Byte
deriving DecidableEq, Repr

/-- A CCI controller (R294 to R297). -/
structure Cci where
  window : Memory
  armed : Bool
  target : Line
  running : Option (List CciEntry)
  /-- Edge on which the list started. -/
  startAt : Nat
  last : Nat
  lastIndex : Nat
  lists : Word
  present : BitVec 4
deriving DecidableEq, Repr

/-- MEDIA block and the units behind it. -/
structure Media where
  ports : Table Port
  ccis : Table Cci
  cciLate : Nat
  rtpDiscard : Nat
  rtpOrder : Nat
  tkuFaults : Nat
  tkuDead : Nat
deriving DecidableEq, Repr

/-! ### Audio island (chapter 12) -/

/-- One microphone's decimator and encoder (R321, R324). -/
structure Mic where
  capturing : Bool
  start : Nat
  /-- CIC integrators and comb delays. -/
  i1 : Int
  i2 : Int
  i3 : Int
  i4 : Int
  c1 : Int
  c2 : Int
  c3 : Int
  c4 : Int
  /-- PDM bits into the current sample. -/
  bits : Nat
  /-- Last 32 y values, newest first. -/
  y : List Int
  predictor : Int
  index : Nat
deriving DecidableEq, Repr

/-- A 32-byte island message (R334). -/
structure IslandMsg where
  kind : Nat
  level : Nat
  cause : BitVec 8
  session : Nat
  handOff : Nat
  wakeAt : Nat
  score : BitVec 16
deriving DecidableEq, Repr

/-- A play entry (R338). -/
structure Play where
  offset : Nat
  frames : Nat
  mask : BitVec 8
  /-- 0 empty, 1 queued, 2 playing, 3 done, 4 rejected. -/
  state : Nat
  played : Nat
  /-- Sample position of the last tick before it was queued (R340). -/
  arrived : Nat
deriving DecidableEq, Repr

/-- The audio island. -/
structure Island where
  position : Nat
  mics : Table Mic
  ring : Memory
  /-- Upsets of the ring's words. -/
  upRing : Table (BitVec 144)
  /-- Ring slots written since the last close; the frame that close discarded (R331). -/
  written : Table Bool
  closedFrame : Option Nat
  /-- Newest frame whose write has been accepted (R331). -/
  newest : Option Nat
  /-- A burst in progress: frame number and record bytes (R325). -/
  burst : Option (Nat × List Byte)
  open_ : Bool
  sessions : Nat
  timeout : Nat
  clearing : Bool
  /-- Closing causes waiting for a frame-end tick: end request, owner torn down, facet change. -/
  closeEnd : Bool
  closeOwner : Bool
  closeFacet : Bool
  /-- The time-out reached 0. -/
  closeTime : Bool
  /-- The cause of the running session and its wake position and score. -/
  wakeCause : BitVec 8
  wakeAt : Nat
  wakeScore : BitVec 16
  /-- A wake decided since the last tick and not yet handed off. -/
  wakePending : Bool
  handedOff : Bool
  /-- Scores of the current frame: count, last, best that reached the threshold. -/
  evals : Nat
  lastScore : BitVec 16
  bestScore : Option (BitVec 16)
  /-- Consecutive ticks, up to the last one, on which WAKE_N read low (R333). -/
  lowTicks : Nat
  /-- The count that a reload found on a frame-end tick whose decrement is still to come (R337). -/
  reloadFrom : Option Nat
  /-- Marks of the current frame, and those that a frame-end tick sets for the frame it begins before the frame it ends is recorded (R323). -/
  frameWakeN : Bool
  nextWakeN : Bool
  /-- Edge and sample position of the last wake, and of an end request that waits for its close (R342). -/
  wokeAt : Nat × Nat
  endAt : Nat × Nat
  frameHandOff : Bool
  nextHandOff : Bool
  /-- Frames that have ended. -/
  frames : Nat
  /-- The last frame-end tick is a closing tick: the close has not been carried out yet (R327, R329). -/
  closing : Bool
  /-- A wake on an owner's closing tick: cause, score and position of the session of the next frame-end tick (R329). -/
  wakeNext : Option (BitVec 8 × BitVec 16 × Nat)
  held : List IslandMsg
  /-- Requests and play entries committed and not yet through the bridge (R338, R513). -/
  endBit : Bool
  extendBit : Bool
  bridge : Table Play
  plays : Table Play
  nextPlay : Nat
  /-- The entry that plays. -/
  playing : Option Nat
  /-- TDM frame on which it started. -/
  playStart : Nat
  /-- The TDM frames of the millisecond that the last tick began, 8 slot words each; none while the three balls are held low, below
  Stop 1 (R339). -/
  tdm : List (List Word)
  /-- The control block as the part has written it (R338, R79). -/
  shown : Memory
  capPosition : Nat
  detector : Bool
  fir : List Int
deriving DecidableEq, Repr

/-! ### Iris -/

/-- The governor (R371 to R382). -/
structure Iris where
  stop : Nat
  target : Nat
  raising : Bool
  lowering : Bool
  /-- A forced lowering waits for instances on departing units since this edge (R380). -/
  forced : Option Nat
  budgetLimit : Nat
  budget : BitVec 2
  budgetLast : BitVec 2
  /-- The last two ticks read one BUDGET level (R372). -/
  budgetTwice : Bool
  temps : Table Int
  capacity : Nat
  free : Nat
  held : Nat
  flight : Nat
  deferBeats : Nat
  preemptDelay : Nat
  wakeLine : Line
  wakeOn : Bool
  /-- Whole milliseconds without work at the current level, and whether there was work or another level since the last tick. -/
  quiet : Nat
  worked : Bool
  mainEn : Bool
  /-- ISLAND milliseconds since MAIN_EN fell (R502). -/
  mainOff : Nat
  thermtrip : Bool
  /-- The highest level an event trigger has asked for and not had yet (R378). -/
  asked : Nat
  /-- The raise from Stop 0 waits for its rails (R502). -/
  railsDue : Bool
  /-- Beats seen since beat 0 (R350). -/
  beats : Nat
deriving DecidableEq, Repr

/-! ### Relay -/

/-- A Relay port (R386, R389, R482). -/
structure RelayPort where
  up : Bool
  peer : Nat
  step : Nat
  cause : Nat
  depth : Nat
  retrains : Nat
  fails : Nat
  /-- Next lane flit sequence expected, by lane. -/
  seqs : Table (BitVec 16)
deriving DecidableEq, Repr

/-- A received part of a reduction (R395), by sender and phase. -/
structure Chunk where
  slot : Nat
  tag : Nat
  part : Nat
  owner : Nat
  phase : Nat
  words : List (BitVec 128)
deriving DecidableEq, Repr

/-- A flit or message the part has sent (output). -/
structure FlitOut where
  peer : Nat
  kind : Nat
  slot : Nat
  window : Nat
  message : Nat
  offset : Nat
  bytes : List Byte
  credits : Nat
deriving DecidableEq, Repr

/-- The Relay unit. -/
structure Relay where
  formed : Bool
  cut : BitVec 9
  epoch : BitVec 16
  ports : Table RelayPort
  /-- Messages of each receive window, oldest first. -/
  windows : Table (List Message)
  chunks : List Chunk
  sent : List FlitOut
  fecCorr : Nat
  fecUncorr : Nat
  checkFail : Nat
  seqGap : Nat
  stale : Nat
  overflow : Nat
  lastError : BitVec 8
deriving DecidableEq, Repr

/-! ### Start-up, identity, integrity, control -/

/-- A command of the NVS engine in progress (R484). -/
structure NvsJob where
  op : Nat
  index : Nat
  iface : Iface
  /-- The staged bytes a key or boot record command took. -/
  data : List Byte
deriving DecidableEq, Repr

/-- An attestation being signed (R439). -/
structure Signing where
  iface : Iface
  request : Word
  /-- Bytes 0x000 to 0x0FF of the report. -/
  report : List Byte
  /-- Leaf taken. -/
  leaf : Nat
deriving DecidableEq, Repr

/-- A module section of the boot image: number, declared XS in KiB, and whether its bytes hash to its entry (R407, R408). -/
structure ImageModule where
  number : Nat
  xsKib : Nat
  shaOk : Bool
deriving DecidableEq, Repr

/-- SEC block, NVS and the device's keys (chapter 15). -/
structure Sec where
  nvs : Memory
  staging : Memory
  /-- The flash device at the xSPI balls; an unlisted byte reads 0xFF. -/
  flash : Memory
  identity : Bool
  owner : Bool
  vendorOnly : Bool
  signing : Option Signing
  building : Bool
  slot : Nat
  version : Nat
  flashAddr : Word
  flashData : Word
  stageAddr : BitVec 16
  job : Option NvsJob
  result : Nat
  certAddr : BitVec 13
  firmware : List Byte
  application : List Byte
  ownerKey : List Byte
  /-- Next leaf, leaf bound B, bottom tree (R416, R417). -/
  nextLeaf : Nat
  bound : Nat
  bottom : Nat
  coldStarts : Nat
  journalHead : Nat
  journalHash : List Byte
  facetSource : Nat
  /-- The state record has a valid copy (R412). -/
  stateOk : Bool
  /-- Modules the boot image holds. -/
  modules : List ImageModule
deriving DecidableEq, Repr

/-- A trace record (R447). -/
structure TraceRec where
  kind : Nat
  slot : Nat
  cmd : Nat
  instr : Nat
  step : BitVec 64
  lix : BitVec 64
  value : BitVec 64
deriving DecidableEq, Repr

/-- An event record (R472). -/
structure EventRec where
  number : Word
  status : Nat
  slot : Nat
  register : Word
  value : Word
  lix : BitVec 64
  /-- The completion record of a teardown, or nothing. -/
  detail : List Byte
deriving DecidableEq, Repr

/-- A journal entry (R438). -/
structure JournalRec where
  number : Nat
  line : Line
  iface : Nat
  kind : Nat
  addr : Word
  old : Word
  new : Word
  tag : List Byte
deriving DecidableEq, Repr

/-- DIGEST block and trace (R446, R485). -/
structure Digest where
  trace : Table TraceRec
  head : Nat
  lost : Nat
  ctx : Nat
  capChain : BitVec 64
  capStep : BitVec 64
  traceAddr : Nat
  traceWord : Nat
  replaySlot : Nat
  replayOn : Bool
  divKind : Nat
  divSlot : Nat
  divStep : BitVec 64
  divExpect : BitVec 64
  divFound : BitVec 64
  /-- HI halves that a read of the LO register captured (R485). -/
  divStepHi : Word
  divExpectHi : Word
  divFoundHi : Word
  markSlot : Nat
  markOn : Bool
  markCmd : Nat
  markS3 : Word
  breakInstr : Nat
  breakArmed : Bool
  /-- The instance stopped at the breakpoint: engine and edge. -/
  broken : Option (Nat × Nat)
  peekAddr : Word
deriving DecidableEq, Repr

/-- A reply or event frame that has left (R467, R473). -/
structure Reply where
  iface : Iface
  bytes : List Byte
deriving DecidableEq, Repr

/-- A network port (R483). -/
structure NetPort where
  link : Bool
  rsFec : Bool
  dhcp : Bool
  ipv4 : Word
deriving DecidableEq, Repr

/-- EVENT and NET blocks, journal, replies (chapter 17). -/
structure Control where
  events : Table EventRec
  head : Word
  tail : Word
  lost : Nat
  mask : BitVec 24
  addr : Nat
  word : Nat
  nets : Table NetPort
  frames : Nat
  bad : Nat
  destIp : Word
  destUdp : BitVec 16
  destPort : Nat
  destOn : Bool
  /-- Replies waiting for the SPI master, oldest first, at most 8 (R470). -/
  spi : List (List Byte)
  /-- Frames sent on every other interface, oldest first. -/
  sent : List Reply
  /-- Frames a network port has sent for its own upkeep (R462): the port and what each answers. -/
  upkeep : List (Nat × NetFrame)
  journal : Table JournalRec
deriving DecidableEq, Repr

/-- A core's tiles (R453 to R458). -/
structure Core where
  dead : BitVec 5
  /-- Spare tile, 7 for none. -/
  spare : Nat
  /-- Tile that serves each logical engine. -/
  serves : Table Nat
  lost : BitVec 4
  epoch : Nat
  /-- A remap in progress: the edge d, the logical engine and the affected contexts. -/
  remap : Option (Nat × Nat × List Nat)
deriving DecidableEq, Repr

/-- SYS block, balls and test port. -/
structure Sys where
  ready : Bool
  maskRom : Bool
  halted : Bool
  cause : Nat
  channel : Nat
  /-- Active facet number, 0xFF for the empty facet. -/
  facetNumber : Nat
  facetCode : Nat
  /-- An accepted facet waiting for its beat: number, facet, journal code of the interface that selected it. -/
  nextFacet : Option (Nat × Facet × Nat)
  epochStale : Nat
  powerGood : Bool
  resetN : Bool
  jtag : JtagOp
  /-- Boundary register: cell to level. -/
  boundary : Table Bool
  cores : Table Core
deriving DecidableEq, Repr

/-- The state of the part. -/
structure State where
  /-- ARITH edges since beat 0 of the collimation in force (log 4). -/
  now : Nat
  /-- The model's counter of free values (log 4). -/
  freeCount : Nat
  facet : Facet
  lix : Lix
  clk : Clk
  glint : Glint
  ctxs : Table Ctx
  engines : Table Engine
  /-- Ready and deferred instances. -/
  ready : List Ready
  ledgers : Ledgers
  mem : MemRegs
  media : Media
  island : Island
  iris : Iris
  relay : Relay
  sec : Sec
  digest : Digest
  control : Control
  sys : Sys
  /-- The commands that wait, first in, first out. -/
  pending : List Instr
deriving DecidableEq, Repr

/-! ### What unlisted entries of the tables are -/

def Ball.idle : Ball := { active := false, lines := 0, pulse := false }

def Header.none : Header :=
  { valid := false, zw := 0, za := 0, ktot := 0, bank := 0, perChannel := false, scaled := false, kind := 0, format := 0 }

def Bank.clear : Bank := { tile := [], rows := [], header := Header.none, up := [] }

def Engine.idle : Engine := { run := none, frozen := [], draining := none, waiting := none, incoming := none, freeAt := 0 }

def Stores.clear : Stores :=
  { es := [], cs := [], xs := [], ds := [], upEs := [], upCs := [], upXs := [], upDs := [] }

def Progress.start : Progress :=
  { commits := [], ends := [], unconsumed := [], running := [], lines := 0, arrivals := [], entries := [], pending := [] }

/-- An empty slot (R346); θ is 65,536 after reset (R186). -/
def Ctx.empty : Ctx :=
  { state := .empty, loadCode := 0, lastStatus := 0, record := CtxRecord.none, granted := CtxRecord.none, module := none,
    bindings := [], cores := [], stores := Stores.clear, banks := [], step := 0, chain := 0, progress := Progress.start,
    held := [], inboxOverflow := 0, tokensHeld := 0, satCount := 0, satEvents := 0, theta := 65536, thetaWas := 65536, thetaEdge := 0, credits := [],
    batchHeld := 0, batchFlight := 0, streams := [], batches := [], fetched := [], replay := { on := false, words := [] }, tear := none, restart := none,
    startOnly := false, starting := false }

def Credit.none : Credit := { grant := 0, free := 0, held := 0, flight := 0, message := 0 }

def Stream.idle : Stream :=
  { record := 0, lastSeq := none, ssrc := none, unitTime := none, unitBytes := [], gap := false, discarded := false, ringAt := 0, queue := [], bound := [], reference := 0,
    unitsDue := 0, samplesDue := 0 }

def Sem.unused : Sem := { total := 0, free := 0, isUnit := false, unitHeld := 0, waiters := [], fresh := 0, freshEdge := 0 }

def Port.idle : Port :=
  { up := false, depth := 0, retrains := 0, dropped := 0, ignored := 0, ring := [], upRing := [], newest := none, frame := 0,
    frameOpen := false, firstLine := none, lastLine := 0, frameDropped := 0, half := none }

def Cci.idle : Cci :=
  { window := [], armed := false, target := 0, running := none, startAt := 0, last := 0, lastIndex := 0, lists := 0, present := 0 }

def Mic.idle : Mic :=
  { capturing := false, start := 0, i1 := 0, i2 := 0, i3 := 0, i4 := 0, c1 := 0, c2 := 0, c3 := 0, c4 := 0, bits := 0,
    y := [], predictor := 0, index := 0 }

def Play.empty : Play := { offset := 0, frames := 0, mask := 0, state := 0, played := 0, arrived := 0 }

def RelayPort.idle : RelayPort :=
  { up := false, peer := 0, step := 0, cause := 0, depth := 0, retrains := 0, fails := 0, seqs := [] }

def NetPort.idle : NetPort := { link := false, rsFec := false, dhcp := false, ipv4 := 0 }

def TraceRec.blank : TraceRec := { kind := 0, slot := 0, cmd := 0, instr := 0, step := 0, lix := 0, value := 0 }

def EventRec.blank : EventRec :=
  { number := 0, status := 0, slot := 0, register := 0, value := 0, lix := 0, detail := [] }

def JournalRec.blank : JournalRec :=
  { number := 0, line := 0, iface := 0, kind := 0, addr := 0, old := 0, new := 0, tag := [] }

/-- A core whose five tiles pass self-test (R453): tiles 0 to 3 serve, tile 4 is the spare. -/
def Core.good : Core :=
  { dead := 0, spare := 4, serves := [(1, 1), (2, 2), (3, 3)], lost := 0, epoch := 0, remap := none }

/-! ### Reset -/

/-- LIX at reset (R27, R477); its settings are the empty facet's (R433). -/
def Lix.reset : Lix :=
  { count := 0, phase := 0, hold := true, source := 0, divider := 1, refPeriod := 16384,  due := 0, firstEdge := true, overspeed := false, suspended := false, position := 0, high := 0,
    origin := 0, pulses := 0, encA := false, encB := false, enc3 := false, indexCount := 0, indexPhase := 0, capCount := 0,
    capPhase := 0, late := 0, islandOnly := true, msEdges := 0, edgeAt := 0 }

def Clk.reset : Clk := { lock := 0, collimated := false, fail := false, attempts := 0, running := false, coreTarget := 700, mclk := 0 }

/-- Glint at reset (R75): both banks, the flag word and the swap control zero, no ball driven. -/
def Glint.reset : Glint :=
  { active := [], window := [], upActive := [], upWindow := [], flags := 0, target := 0, armed := false, refused := false, late := 0, installed := false,
    driven := 0, heldPolarity := 0, fired := 0, balls := [], input := 0 }

def Ledgers.reset : Ledgers :=
  { es := [], banks := [], cs := [], xs := [], ds := [], sems := [], unitOverflow := 0, unitLast := 0, violation := false,
    which := 0, index := 0, total := 0, free := 0, held := 0, flight := 0, select := 0, selTotal := 0, selFree := 0,
    selHeld := 0, selFlight := 0 }

/-- MEM block at reset (R480): the owner field of the last error reads 0xFF. -/
def MemRegs.reset : MemRegs :=
  { corrEs := 0, corrCs := 0, corrXs := 0, corrDs := 0, corrOther := 0, uncorr := 0, lastAddr := 0, lastCtx := 0xFF,
    lastStore := 0, lastCore := 0, dsPasses := 0, sramPasses := 0, dsPage := 0, dsBlock := 0,
    upIsland := [], upWarden := [], upPartXs := [], upPartDs := [], upFree := [], posted := [] }

def Media.reset : Media :=
  { ports := [], ccis := [], cciLate := 0, rtpDiscard := 0, rtpOrder := 0, tkuFaults := 0, tkuDead := 0 }

/-- The island at reset: shutter closed, ring cleared (R199, R326). -/
def Island.reset : Island :=
  { position := 0, mics := [], ring := [], upRing := [], written := [], closedFrame := none, newest := none, burst := none, open_ := false,
    sessions := 0, timeout := 0, clearing := false, closeEnd := false, closeOwner := false, closeFacet := false,
    closeTime := false, wakeCause := 0, wakeAt := 0, wakeScore := 0, wakePending := false, handedOff := false, evals := 0,
    lastScore := 0, bestScore := none, lowTicks := 0, reloadFrom := none, frameWakeN := false, nextWakeN := false,
    wokeAt := (0, 0), endAt := (0, 0), frameHandOff := false, nextHandOff := false, frames := 0, closing := false,
    wakeNext := none, held := [], endBit := false,
    extendBit := false, bridge := [], plays := [], nextPlay := 0, playing := none, playStart := 0, tdm := [], shown := [], capPosition := 0, detector := false,
    fir := List.replicate 32 0 }

/-- Iris at reset (R371, R372, R477): the bucket full, the limit 60,000, BUDGET 0b11. -/
def Iris.reset : Iris :=
  { stop := 0, target := 0, raising := false, lowering := false, forced := none, budgetLimit := 60000, budget := 0b11,
    budgetLast := 0b11, budgetTwice := false, temps := [], capacity := 4000000, free := 4000000, held := 0, flight := 0, deferBeats := 0,
    preemptDelay := 0, wakeLine := 0, wakeOn := false, quiet := 0, worked := false, mainEn := true, mainOff := 0, thermtrip := false, asked := 0,
    railsDue := false, beats := 0 }

def Relay.reset : Relay :=
  { formed := false, cut := 0, epoch := 0, ports := [], windows := [], chunks := [], sent := [], fecCorr := 0,
    fecUncorr := 0, checkFail := 0, seqGap := 0, stale := 0, overflow := 0, lastError := 0 }

def Sec.reset : Sec :=
  { nvs := [], staging := [], flash := [], identity := false, owner := false, vendorOnly := false, signing := none,
    building := false, slot := 0, version := 0, flashAddr := 0, flashData := 0, stageAddr := 0, job := none, result := 0,
    certAddr := 0, firmware := List.replicate 32 0, application := List.replicate 32 0, ownerKey := List.replicate 32 0,
    nextLeaf := 0, bound := 0, bottom := 0, coldStarts := 0, journalHead := 0, journalHash := List.replicate 32 0,
    facetSource := 0, stateOk := false, modules := [] }

def Digest.reset : Digest :=
  { trace := [], head := 0, lost := 0, ctx := 0, capChain := 0, capStep := 0, traceAddr := 0, traceWord := 0, replaySlot := 0,
    replayOn := false, divKind := 0, divSlot := 0, divStep := 0, divExpect := 0, divFound := 0, divStepHi := 0, divExpectHi := 0, divFoundHi := 0, markSlot := 0,
    markOn := false, markCmd := 0, markS3 := 0, breakInstr := 0, breakArmed := false, broken := none, peekAddr := 0 }

/-- EVENT and NET blocks at reset (R483). -/
def Control.reset : Control :=
  { events := [], head := 0, tail := 0, lost := 0, mask := 0xFFFFFF, addr := 0, word := 0, nets := [], frames := 0, bad := 0,
    destIp := 0, destUdp := 47110, destPort := 0, destOn := false, spi := [], sent := [], upkeep := [], journal := [] }

def Sys.reset : Sys :=
  { ready := false, maskRom := false, halted := false, cause := 0, channel := 0, facetNumber := 0xFF, facetCode := 0,
    nextFacet := none, epochStale := 0, powerGood := false, resetN := false, jtag := .idcode, boundary := [], cores := [] }

/-- The part before POWER_GOOD rises: every SRAM clear, every register at its reset value, nothing waiting. -/
def State.reset : State :=
  { now := 0, freeCount := 0, facet := Facet.empty, lix := Lix.reset, clk := Clk.reset, glint := Glint.reset, ctxs := [],
    engines := [], ready := [], ledgers := Ledgers.reset, mem := MemRegs.reset, media := Media.reset, island := Island.reset,
    iris := Iris.reset, relay := Relay.reset, sec := Sec.reset, digest := Digest.reset, control := Control.reset,
    sys := Sys.reset, pending := [] }

end Sys2Proof.Machine
end

