-- ==== Sys2Proof/Machine/Table.lean ====
section
/-! DEFINITION. The operations of sparse tables: every store, register file and slot table is read and written here. -/

namespace Sys2Proof.Machine

open Sys2Proof

/-- The entry at a key; `d` where the table lists none. -/
def tget {α : Type} (d : α) : Table α → Nat → α
  | [], _ => d
  | (k', v) :: r, k => if k < k' then d else if k = k' then v else tget d r k

/-- Write an entry, keeping the canonical form: writing `d` removes it. -/
def tset {α : Type} [DecidableEq α] (d : α) : Table α → Nat → α → Table α
  | [], k, v => if v = d then [] else [(k, v)]
  | (k', v') :: r, k, v =>
    if k < k' then (if v = d then (k', v') :: r else (k, v) :: (k', v') :: r)
    else if k = k' then (if v = d then r else (k, v) :: r)
    else (k', v') :: tset d r k v

/-- Change one entry. -/
def tmod {α : Type} [DecidableEq α] (d : α) (t : Table α) (k : Nat) (f : α → α) : Table α := tset d t k (f (tget d t k))

/-- Change every listed entry, keeping the canonical form; `f` leaves what an unlisted key reads as. -/
def tmap {α : Type} [DecidableEq α] (d : α) (f : α → α) (t : Table α) : Table α :=
  (t.map fun e => (e.1, f e.2)).filter fun e => e.2 ≠ d

/-- The canonical form, all keys above `lo`. -/
def tableFrom {α : Type} [DecidableEq α] (d : α) : Nat → Table α → Bool
  | _, [] => true
  | lo, (k, v) :: r => lo ≤ k && v ≠ d && tableFrom d (k + 1) r

/-- The canonical form: keys strictly rising, no entry equal to what an unlisted key reads as. -/
def tableWf {α : Type} [DecidableEq α] (d : α) (t : Table α) : Bool := tableFrom d 0 t

/-- The canonical form of a store. -/
def Memory.wf (m : Memory) : Bool := tableWf (0 : Byte) m

/-- One byte of a store. -/
def rd (m : Memory) (a : Nat) : Byte := tget 0 m a

/-- Write one byte of a store. -/
def wr (m : Memory) (a : Nat) (b : Byte) : Memory := tset 0 m a b

/-- The n bytes from a. -/
def rdBytes (m : Memory) (a : Nat) : Nat → List Byte
  | 0 => []
  | n + 1 => rd m a :: rdBytes m (a + 1) n

/-- Write bytes from a. -/
def wrBytes (m : Memory) (a : Nat) : List Byte → Memory
  | [] => m
  | b :: r => wrBytes (wr m a b) (a + 1) r

/-- A little-endian field of n bytes. -/
def rdLe (m : Memory) (a n : Nat) : Nat := leValue (rdBytes m a n)

/-- Clear the bytes a .. a + n - 1. -/
def clearRange (m : Memory) (a n : Nat) : Memory := m.filter fun e => !(a ≤ e.1 && e.1 < a + n)

/-- The sum of a table's entries. -/
def tsum : Table Nat → Nat
  | [] => 0
  | (_, v) :: r => v + tsum r

/-- How many entries satisfy a test. -/
def tcount {α : Type} (p : α → Bool) (t : Table α) : Nat := (t.filter fun e => p e.2).length

/-- The numbers lo .. lo + n - 1. -/
def span (lo : Nat) : Nat → List Nat
  | 0 => []
  | n + 1 => lo :: span (lo + 1) n

/-- The first element of a list that satisfies a test. -/
def firstWhere {α : Type} (p : α → Bool) : List α → Option α
  | [] => none
  | x :: r => if p x then some x else firstWhere p r

/-- List element with a default. -/
def nth {α : Type} (l : List α) (i : Nat) (d : α) : α := l.getD i d

end Sys2Proof.Machine
end

