-- ==== Sys2Proof/Machine/Hash.lean ====
section
/-! DEFINITION. The digest of R440 (CRC-64 of ECMA-182) and SHA-256 (FIPS 180-4, PRESUMED from the standard, log 7). -/

namespace Sys2Proof.Machine

open Sys2Proof

/-- One bit step of the CRC (R440). -/
def crcBit (c : BitVec 64) : BitVec 64 :=
  if c.msb then (c <<< 1) ^^^ 0x42F0E1EBA9EA3693#64 else c <<< 1

/-- One byte of the CRC, most significant bit first. -/
def crcByte (c : BitVec 64) (b : Byte) : BitVec 64 :=
  let x := c ^^^ (b.zeroExtend 64 <<< 56)
  crcBit (crcBit (crcBit (crcBit (crcBit (crcBit (crcBit (crcBit x)))))))

/-- The CRC continued over bytes. -/
def crcFrom (c : BitVec 64) (l : List Byte) : BitVec 64 := l.foldl crcByte c

/-- crc64 (R440). -/
def crc64 (l : List Byte) : BitVec 64 := crcFrom 0 l

/-- The largest of the numbers below 2^n whose k-th power is at most x, found bit by bit from the top onto the bits already fixed. -/
def rootFrom (k x : Nat) : Nat → Nat → Nat
  | 0, r => r
  | n + 1, r => rootFrom k x n (if (r + 2 ^ n) ^ k ≤ x then r + 2 ^ n else r)

/-- The first 32 bits of the fraction of the k-th root of p, the form in which FIPS 180-4 gives its constants. -/
def rootWord (k p : Nat) : Word := BitVec.ofNat 32 (rootFrom k (p * 2 ^ (32 * k)) 40 0)

/-- The primes below 312, of which there are 64. -/
def shaPrimes : List Nat := (List.range 312).filter fun p => 2 ≤ p && (List.range 18).all fun d => d < 2 || p ≤ d || p % d ≠ 0

/-- Round constants: cube roots of the first 64 primes. -/
def shaK : List Word := (shaPrimes.map (rootWord 3)).take 64

/-- Initial hash value: square roots of the first eight. -/
def shaInit : List Word := (shaPrimes.take 8).map (rootWord 2)

/-- A word turned right by two amounts and by a third, or shifted by the third, the three combined. -/
def turns (p q r : Nat) (x : Word) : Word := x.rotateRight p ^^^ (x.rotateRight q ^^^ x.rotateRight r)

def turnsShift (p q r : Nat) (x : Word) : Word := (x >>> r) ^^^ (x.rotateRight q ^^^ x.rotateRight p)

/-- Bits of y where x is set, of z elsewhere; bits set in two of three. -/
def choose (x y z : Word) : Word := z ^^^ (x &&& (y ^^^ z))

def majority (x y z : Word) : Word := (x &&& (y ||| z)) ||| (y &&& z)

/-- One round on the eight working words, with the sum of its constant and its schedule word. -/
def shaRound (v : List Word) (kw : Word) : List Word :=
  match v with
  | [a, b, c, d, e, f, g, h] =>
    let t := kw + choose e f g + turns 6 11 25 e + h
    [t + majority a b c + turns 2 13 22 a, a, b, c, t + d, e, f, g]
  | _ => v

/-- The schedule from its last 16 words, oldest first: their n successors after the oldest n of them. -/
def shaSchedule : Nat → List Word → List Word
  | 0, w => w
  | n + 1, w =>
    match w with
    | [] => []
    | o :: rest =>
      let at_ (k : Nat) : Word := rest.getD (k - 1) 0
      o :: shaSchedule n (rest ++ [turnsShift 17 19 10 (at_ 14) + at_ 9 + turnsShift 7 18 3 (at_ 1) + o])

/-- One block of 16 words onto a hash value. -/
def shaBlock (h : List Word) (block : List Word) : List Word :=
  List.zipWith (· + ·) h ((List.zipWith (· + ·) (shaSchedule 48 block) shaK).foldl shaRound h)

/-- n big-endian words of a byte list. -/
def shaWords : Nat → List Byte → List Word
  | 0, _ => []
  | n + 1, l => BitVec.ofNat 32 (beValue (l.take 4)) :: shaWords n (l.drop 4)

/-- n blocks of 64 bytes. -/
def shaBlocks : Nat → List Word → List Byte → List Word
  | 0, h, _ => h
  | n + 1, h, l => shaBlocks n (shaBlock h (shaWords 16 (l.take 64))) (l.drop 64)

/-- SHA-256 (FIPS 180-4), 32 bytes. -/
def sha256 (l : List Byte) : List Byte :=
  let n := l.length
  let z := (119 - n % 64) % 64
  let p := l ++ (0x80 :: List.replicate z 0) ++ bytesBe (8 * n) 8
  (shaBlocks (p.length / 64) shaInit p).flatMap fun w => bytesBe w.toNat 4

end Sys2Proof.Machine
end

