-- ==== Sys2Proof/Machine/Power.lean ====
section
/-! DEFINITION. What is powered, what the limit allows and what the powered units draw (R17, R372, R373, R377), and the
small views of State every other file uses. -/

namespace Sys2Proof.Machine

open Sys2Proof

/-! ### Views of State -/

/-- Slot c. -/
def ctxOf (s : State) (c : Nat) : Ctx := tget Ctx.empty s.ctxs c

/-- Replace slot c. -/
def setCtx (s : State) (c : Nat) (x : Ctx) : State := { s with ctxs := tset Ctx.empty s.ctxs c x }

/-- Change slot c. -/
def modCtx (s : State) (c : Nat) (f : Ctx → Ctx) : State := setCtx s c (f (ctxOf s c))

/-- Engine e. -/
def engOf (s : State) (e : Nat) : Engine := tget Engine.idle s.engines e

/-- Replace engine e. -/
def setEng (s : State) (e : Nat) (x : Engine) : State := { s with engines := tset Engine.idle s.engines e x }

/-- Change engine e. -/
def modEng (s : State) (e : Nat) (f : Engine → Engine) : State := setEng s e (f (engOf s e))

/-- Replace the running instance of engine e. -/
def setInst (s : State) (e : Nat) (i : Inst) : State := modEng s e fun x => { x with run := some i }

/-- Core k's tiles. -/
def coreOf (s : State) (k : Nat) : Core := tget Core.good s.sys.cores k

def setCore (s : State) (k : Nat) (x : Core) : State :=
  { s with sys := { s.sys with cores := tset Core.good s.sys.cores k x } }

/-- Sensor port p. -/
def portOf (s : State) (p : Nat) : Port := tget Port.idle s.media.ports p

def setPort (s : State) (p : Nat) (x : Port) : State :=
  { s with media := { s.media with ports := tset Port.idle s.media.ports p x } }

def portCfg (s : State) (p : Nat) : PortCfg := tget PortCfg.none s.facet.ports p

/-- CCI controller n. -/
def cciOf (s : State) (n : Nat) : Cci := tget Cci.idle s.media.ccis n

def setCci (s : State) (n : Nat) (x : Cci) : State :=
  { s with media := { s.media with ccis := tset Cci.idle s.media.ccis n x } }

def cciCfg (s : State) (n : Nat) : CciCfg := tget CciCfg.none s.facet.ccis n

/-- Chip semaphore k. -/
def semOf (s : State) (k : Nat) : Sem := tget Sem.unused s.ledgers.sems k

def setSem (s : State) (k : Nat) (x : Sem) : State :=
  { s with ledgers := { s.ledgers with sems := tset Sem.unused s.ledgers.sems k x } }

/-- Relay port n. -/
def relayPort (s : State) (n : Nat) : RelayPort := tget RelayPort.idle s.relay.ports n

def setRelayPort (s : State) (n : Nat) (x : RelayPort) : State :=
  { s with relay := { s.relay with ports := tset RelayPort.idle s.relay.ports n x } }

/-- Network port p: 0 management, 1 and 2 the 25GbE ports. -/
def netPort (s : State) (p : Nat) : NetPort := tget NetPort.idle s.control.nets p

def setNetPort (s : State) (p : Nat) (x : NetPort) : State :=
  { s with control := { s.control with nets := tset NetPort.idle s.control.nets p x } }

/-- The module bound in slot c, with zeros where none is. -/
def moduleOf (s : State) (c : Nat) : Module :=
  (ctxOf s c).module.getD
    { magicOk := false, major := 0, minor := 0, complete := false, reservedSet := false, groups := [], groupCount := 0,
      esKib := 0, csKib := 0, xsKib := 0, dsMib := 0, commitKib := 0, descKib := 0, scaleKib := 0, ringKib := 0,
      ringRecords := 0, subFirst := 0, commands := [], maxima := [], code := [], descs := [], scales := [], consts := [] }

/-- A command no module holds. -/
def Command.blank : Command :=
  { first := 0, count := 0, ve := 0, prio := 0, floating := false, trigger := .start, anyEnd := false, preds := [],
    sems := [], cycleBound := 0, energyBound := 0 }

/-- Directory entry k of slot c. -/
def commandOf (s : State) (c k : Nat) : Command := nth (moduleOf s c).commands k Command.blank

/-- A command's priority after the context's ceiling (R344). -/
def prioOf (s : State) (c k : Nat) : Nat := min (commandOf s c k).prio (ctxOf s c).granted.ceiling

/-! ### Power -/

/-- Power ceiling of a Stop level, mW (R17). -/
def stopCeiling : Nat → Nat
  | 0 => 22
  | 1 => 1800
  | 2 => 9000
  | 3 => 38000
  | _ => 60000

/-- The facet's value for a BUDGET level (R372). -/
def budgetValue (t : TimingCfg) (b : BitVec 2) : Nat :=
  if b = 0b11 then t.budgetFull else if b = 0b10 then t.budgetReduced
  else if b = 0b01 then t.budgetLow else t.budgetCritical

/-- The limit without the Stop term (R377). -/
def limitFree (s : State) : Nat :=
  min s.facet.timing.envelope (min (budgetValue s.facet.timing s.iris.budget) s.iris.budgetLimit)

/-- L_mW (R372). -/
def limitMw (s : State) : Nat := min (limitFree s) (stopCeiling s.iris.stop)

/-- The highest Stop a limit allows (R377). -/
def stopFor (l : Nat) : Nat := if 60000 ≤ l then 4 else if 38000 ≤ l then 3 else if 9000 ≤ l then 2 else 1

/-- The highest Stop the limit allows now. -/
def allowedStop (s : State) : Nat := stopFor (limitFree s)

/-- Cores powered at a level (R345). -/
def coresAt : Nat → Nat
  | 0 => 0
  | 1 => 1
  | 2 => 4
  | _ => 16

/-- The lowest level at which core k is powered. -/
def coreLevel (k : Nat) : Nat := if k = 0 then 1 else if k < 4 then 2 else 3

/-- Sensor port p is declared, captures and is powered (R23, R288). -/
def portCaptures (s : State) (p : Nat) : Bool :=
  let f := portCfg s p
  f.lanes ≠ 0 && f.share ≠ 0 && (3 ≤ s.iris.stop || (1 ≤ s.iris.stop && s.facet.timing.preview = some p))

/-- Sensor port p is powered. -/
def portPowered (s : State) (p : Nat) : Bool :=
  (portCfg s p).lanes ≠ 0 && (3 ≤ s.iris.stop || (1 ≤ s.iris.stop && s.facet.timing.preview = some p))

/-- The standing charge of one ISLAND millisecond, in tokens (R373). -/
def standing (s : State) : Nat :=
  let l := s.iris.stop
  let capturing := ((span 0 8).filter (portCaptures s)).length
  let preview := match s.facet.timing.preview with
    | some p => portCaptures s p
    | none => false
  18 + (if l = 0 then 3 else 400 + 250 * coresAt l + 300 + 100 + 200 * capturing) +
    (if 2 ≤ l then 600 + 400 else 0) + (if 3 ≤ l then 80 + 150 + 150 else if 1 ≤ l && preview then 150 else 0) +
    (if l = 4 then 3200 else 0)

/-- The part issues and admits nothing (R370, R403, R509). -/
def chipHalted (s : State) : Bool := s.sys.halted

/-- An interface is served (R461). -/
def served (s : State) (i : Iface) : Bool :=
  s.sys.powerGood && s.sys.resetN &&
  match i with
  | .mgmt => 2 ≤ s.iris.stop
  | .net0 => 2 ≤ s.iris.stop && s.facet.net0
  | .net1 => 2 ≤ s.iris.stop && s.facet.net1
  | .spi | .uart => 1 ≤ s.iris.stop || s.sys.maskRom

/-- Journal code of an interface (R461). -/
def ifaceCode : Iface → Nat
  | .mgmt => 0
  | .net0 => 1
  | .net1 => 2
  | .spi => 3
  | .uart => 4

/-- The pitch of a line in its ring window, and its pixels: the pair's where the port is a bonded lower port (R231). -/
def lineLength (s : State) (p : Nat) : Nat :=
  (portCfg s p).length + if (portCfg s p).bonded then (portCfg s (p + 1)).length else 0

/-- Bits of a data type (R287). -/
def typeBits (t : Nat) : Nat := if t = 0x2A then 8 else if t = 0x2B then 10 else if t = 0x2C then 12 else if t = 0x2D then 14 else 16

/-- Bytes of an element of a line in the ring (R231). -/
def lineElem (s : State) (p : Nat) : Nat := if (portCfg s p).dataType = 0x2A then 1 else 2

def linePitch (s : State) (p : Nat) : Nat := 16 * ceilDiv (lineLength s p * lineElem s p) 16

/-- Port p is the upper port of a bonded pair. -/
def bondedUpper (s : State) (p : Nat) : Bool := p % 2 = 1 && (portCfg s (p - 1)).bonded

/-- Peer number of part j at part i (R385). -/
def peerNumber (i j : Nat) : Nat := if j < i then j else j - 1

/-- Ports per pair (R385). -/
def portsPerPair (n : Nat) : Nat := if n ≤ 1 then 0 else 8 / (n - 1)

/-- The part a Relay port reaches under the facet. -/
def peerOfPort (s : State) (n : Nat) : Nat :=
  let k := n / max 1 (portsPerPair s.facet.setSize)
  if k < s.facet.partIndex then k else k + 1

/-- Slots per round of context c toward a peer (R391). -/
def slotShare (s : State) (c peer : Nat) : Nat :=
  tget 0 s.facet.grants (256 * s.facet.partIndex + 8 * c + peerNumber s.facet.partIndex peer)

/-- Peers toward which context c holds a credit grant (R393): the parts with a window open to it. -/
def grantTo (s : State) (c peer : Nat) : Nat :=
  (s.facet.windows.filter fun w => w.part = peer && w.fromPart = s.facet.partIndex && w.fromSlot = c).foldl
    (fun n w => n + w.size) 0 / 256

def grantPeers (s : State) (c : Nat) : List Nat :=
  (span 0 s.facet.setSize).filter fun j => j ≠ s.facet.partIndex && 0 < grantTo s c j

/-- The link to a peer is up: the set is formed, the peer is not cut and every port toward it is up (R384, R386). -/
def linkUp (s : State) (peer : Nat) : Bool :=
  s.iris.stop = 4 && s.relay.formed && !(s.relay.cut.getLsbD peer) &&
  (span (peerNumber s.facet.partIndex peer * portsPerPair s.facet.setSize) (portsPerPair s.facet.setSize)).all
    fun n => (relayPort s n).up

end Sys2Proof.Machine
end

