-- ==== Sys2Proof/Machine/Regs.lean ====
section
/-! DEFINITION. The register map (R475 to R485): what a register reads as, without the effect a read may have. -/

namespace Sys2Proof.Machine

open Sys2Proof

/-- The 64 bytes of a context record (R429). -/
def recordBytes (r : CtxRecord) : List Byte :=
  bytesLe (b2n r.present + 2 * b2n r.restart) 1 ++ bytesLe r.module 1 ++ bytesLe r.level 1 ++ bytesLe r.ceiling 1 ++
  bytesLe r.engines.toNat 8 ++ bytesLe r.esSteps.toNat 16 ++ bytesLe r.csSteps.toNat 16 ++ bytesLe r.xs 1 ++ bytesLe 0 1 ++
  bytesLe r.ds 2 ++ bytesLe r.batch 2 ++ bytesLe r.sinks 2 ++ bytesLe r.allotment 4 ++ bytesLe r.soft 2 ++
  bytesLe r.hard 2 ++ bytesLe r.reductionKib 2 ++ bytesLe r.reductionSize 2

/-- A little-endian field of a byte list. -/
def field (l : List Byte) (a n : Nat) : Nat := leValue ((l.drop a).take n)

/-- A context record from its bytes. -/
def recordOf (l : List Byte) : CtxRecord :=
  { present := bit (field l 0 1) 0, restart := bit (field l 0 1) 1, module := field l 1 1, level := field l 2 1,
    ceiling := field l 3 1, engines := BitVec.ofNat 64 (field l 4 8), esSteps := BitVec.ofNat 128 (field l 12 16),
    csSteps := BitVec.ofNat 128 (field l 28 16), xs := field l 44 1, ds := field l 46 2, batch := field l 48 2,
    sinks := field l 50 2, allotment := field l 52 4, soft := field l 56 2, hard := field l 58 2,
    reductionKib := field l 60 2, reductionSize := field l 62 2,
    reserved := 4 ≤ field l 0 1 || field l 45 1 ≠ 0 }

/-- Slot state code (R478). -/
def slotCode : SlotState → Nat
  | .empty => 0
  | .loading => 1
  | .active => 2
  | .parked => 3
  | .stopped => 4
  | .clearing => 5

/-- LIX count and phase as a 64-bit field: count below, phase in [63:48]. -/
def lixField (s : State) : BitVec 64 := s.lix.phase ++ s.lix.count

/-- REFLEX_OUT balls that are active. -/
def reflexOut (s : State) : Nat := ((span 0 16).map fun b => b2n (tget Ball.idle s.glint.balls b).active * 2 ^ b).foldl (· + ·) 0

/-- SYS_TILE_STATUS of a core (R476). -/
def tileStatus (k : Core) : Nat :=
  let serving := ((span 0 4).filter fun l => !(k.lost.getLsbD l)).map fun l => 2 ^ tget 0 k.serves l
  serving.foldl (· ||| ·) 0 + 32 * k.spare + 256 * k.lost.toNat

/-- SYS block (R476). -/
def peekSys (s : State) (o : Nat) : Nat :=
  if o = 0x000 then Config.revDigit + 256 * Config.revLetter + 65536 * Config.grade + 0x164 * 2 ^ 20
  else if o = 0x004 then
    b2n s.sys.ready + 2 * b2n s.sys.maskRom + 4 * b2n s.sys.halted + 16 * s.iris.stop + 256 * s.sys.cause +
    65536 * s.sys.channel + 2 ^ 24 * b2n s.sec.identity
  else if o = 0x008 then s.sys.facetNumber
  else if o = 0x00C then s.sys.facetCode + 256 * b2n s.sys.nextFacet.isSome
  else if o = 0x010 then s.sys.epochStale
  else if 0x100 ≤ o && o < 0x140 then tileStatus (coreOf s ((o - 0x100) / 4))
  else if 0x140 ≤ o && o < 0x180 then (coreOf s ((o - 0x140) / 4)).epoch
  else 0

/-- LIX, CLK and IRIS blocks (R477). -/
def peekLix (s : State) (o : Nat) : Nat :=
  if o = 0x00 then s.lix.source
  else if o = 0x04 then s.lix.divider - 1
  else if o = 0x08 then s.lix.refPeriod
  else if o = 0x0C then b2n s.lix.overspeed + 2 * b2n s.lix.islandOnly
  else if o = 0x10 then s.lix.count.toNat % 2 ^ 32
  else if o = 0x14 then s.lix.capCount.toNat / 2 ^ 32
  else if o = 0x18 then s.lix.capPhase.toNat
  else if o = 0x1C then s.lix.indexCount.toNat % 2 ^ 32
  else if o = 0x20 then s.lix.indexCount.toNat / 2 ^ 32 + 65536 * s.lix.indexPhase.toNat
  else if o = 0x24 then min (s.lix.high - s.lix.position).toNat 0xFFFFFFFF
  else if o = 0x28 then s.lix.late
  else 0

def peekClk (s : State) (o : Nat) : Nat :=
  if o = 0x04 then s.clk.lock.toNat + 8 * b2n s.clk.collimated + 16 * b2n s.clk.fail + 32 * s.clk.attempts else 0

def peekIris (s : State) (o : Nat) : Nat :=
  if o = 0x00 then s.iris.budgetLimit
  else if o = 0x04 then limitMw s + 65536 * s.iris.budget.toNat + 2 ^ 20 * allowedStop s
  else if o = 0x08 then s.iris.free
  else if o = 0x0C then s.iris.held
  else if o = 0x10 then s.iris.flight
  else if o = 0x14 then s.iris.deferBeats
  else if o = 0x18 then s.iris.preemptDelay
  else if o = 0x1C then s.iris.wakeLine.toNat % 2 ^ 32
  else if o = 0x20 then s.iris.wakeLine.toNat / 2 ^ 32 + 2 ^ 31 * b2n s.iris.wakeOn
  else if o = 0x24 then s.iris.stop + 16 * s.iris.target + 256 * b2n s.iris.raising + 512 * b2n s.iris.lowering
  else if 0x100 ≤ o && o < 0x180 then lowBits 16 (tget 400 s.iris.temps ((o - 0x100) / 4))
  else 0

/-- CTX block (R478). -/
def peekCtx (s : State) (o : Nat) : Nat :=
  if o = 0x800 then s.ledgers.unitOverflow
  else if o = 0x804 then s.ledgers.unitLast
  else if o < 0x800 then
    let x := ctxOf s (o / 0x40)
    let r := o % 0x40
    if r = 0 then slotCode x.state + 256 * x.loadCode + 65536 * x.lastStatus
    else if r = 8 then x.inboxOverflow
    else if r = 0xC then x.tokensHeld
    else 0
  else if 0x1000 ≤ o && o < 0x1800 then field (recordBytes (ctxOf s ((o - 0x1000) / 0x40)).record) (o % 0x40) 4
  else 0

/-- LEDGER and QNT blocks (R479). -/
def peekLedger (s : State) (o : Nat) : Nat :=
  let l := s.ledgers
  if o = 0x00 then b2n l.violation + 256 * l.which + 65536 * l.index
  else if o = 0x04 then l.total
  else if o = 0x08 then l.free
  else if o = 0x0C then l.held
  else if o = 0x10 then l.flight
  else if o = 0x20 then l.select.toNat
  else if o = 0x24 then l.selTotal
  else if o = 0x28 then l.selFree
  else if o = 0x2C then l.selHeld
  else if o = 0x30 then l.selFlight
  else 0

def peekQnt (s : State) (o : Nat) : Nat :=
  if o < 0x80 then (ctxOf s (o / 4)).satCount
  else if o < 0x100 then (ctxOf s ((o - 0x80) / 4)).satEvents
  else if o < 0x180 then (ctxOf s ((o - 0x100) / 4)).theta
  else 0

/-- MEM block (R480). -/
def peekMem (s : State) (o : Nat) : Nat :=
  let m := s.mem
  if o = 0x00 then m.corrEs
  else if o = 0x04 then m.corrCs
  else if o = 0x08 then m.corrXs
  else if o = 0x0C then m.corrDs
  else if o = 0x10 then m.corrOther
  else if o = 0x14 then m.uncorr
  else if o = 0x18 then m.lastAddr.toNat % 2 ^ 32
  else if o = 0x1C then m.lastAddr.toNat / 2 ^ 32 + 256 * m.lastCtx + 65536 * m.lastStore + 2 ^ 20 * m.lastCore
  else if o = 0x20 then m.dsPasses
  else if o = 0x24 then m.sramPasses
  else 0

/-- MEDIA, GLINT, AUDIO and TKU blocks (R481). -/
def peekMedia (s : State) (o : Nat) : Nat :=
  if o < 0x20 then
    let p := portOf s (o / 4)
    b2n p.up + 2 * b2n (portCfg s (o / 4)).locked + 256 * p.depth.toNat + 65536 * p.retrains
  else if o < 0x40 then (portOf s ((o - 0x20) / 4)).dropped
  else if o < 0x60 then (portOf s ((o - 0x40) / 4)).ignored
  else if o < 0x80 then
    let c := cciOf s ((o - 0x60) / 4)
    c.last + 4 * b2n c.running.isSome + 16 * c.present.toNat
  else if o = 0x80 then s.media.cciLate
  else if o = 0x84 then s.media.rtpDiscard
  else if o = 0x88 then s.media.rtpOrder
  else 0

def peekGlint (s : State) (o : Nat) : Nat :=
  if o = 0x00 then b2n s.glint.refused + 2 * b2n s.glint.armed
  else if o = 0x04 then s.glint.late
  else if o = 0x08 then reflexOut s
  else if o = 0x0C then s.glint.input.toNat
  else if o = 0x10 then s.glint.fired.toNat
  else 0

def peekAudio (s : State) (o : Nat) : Nat :=
  if o = 0x00 then b2n s.island.open_
  else if o = 0x04 then s.island.sessions % 2 ^ 32
  else if o = 0x08 then s.island.position % 2 ^ 32
  else if o = 0x0C then s.island.capPosition / 2 ^ 32 % 65536
  else if o = 0x10 then s.island.timeout
  else if 0x40 ≤ o && o < 0x80 then
    let i := (o - 0x40) / 4
    lowBits 16 (nth s.island.fir (2 * i) 0) + 65536 * lowBits 16 (nth s.island.fir (2 * i + 1) 0)
  else 0

def peekTku (s : State) (o : Nat) : Nat :=
  if o = 0x00 then s.media.tkuFaults else if o = 0x04 then s.media.tkuDead else 0

/-- RELAY block (R482). CUT's bits 16 and 17 lie under EPOCH's: both are read (log 10). -/
def peekRelay (s : State) (o : Nat) : Nat :=
  let r := s.relay
  if o = 0x00 then
    (s.facet.setSize + 16 * s.facet.partIndex + 256 * b2n r.formed) ||| (512 * r.cut.toNat) ||| (65536 * r.epoch.toNat)
  else if 0x20 ≤ o && o < 0x40 then
    let p := relayPort s ((o - 0x20) / 4)
    b2n p.up + 2 * p.peer + 32 * p.step + 256 * p.cause + 4096 * (p.depth % 256) + 2 ^ 24 * p.retrains
  else if o = 0x44 then r.fecCorr
  else if o = 0x48 then r.fecUncorr
  else if o = 0x4C then r.checkFail
  else if o = 0x50 then r.seqGap
  else if o = 0x54 then r.stale
  else if o = 0x58 then r.overflow
  else if o = 0x5C then r.lastError.toNat
  else 0

/-- NET and EVENT blocks (R483). -/
def peekNet (s : State) (o : Nat) : Nat :=
  let c := s.control
  if o < 0x0C then
    let p := netPort s (o / 4)
    b2n p.link + 2 * b2n p.rsFec + 4 * b2n p.dhcp
  else if 0x10 ≤ o && o < 0x1C then (netPort s ((o - 0x10) / 4)).ipv4.toNat
  else if o = 0x20 then c.frames
  else if o = 0x24 then c.bad
  else if o = 0x28 then c.destIp.toNat
  else if o = 0x2C then c.destUdp.toNat + 65536 * c.destPort + 2 ^ 31 * b2n c.destOn
  else 0

/-- The 64 bytes of an event record (R472). -/
def eventBytes (e : EventRec) : List Byte :=
  bytesLe e.number.toNat 4 ++ bytesLe e.status 1 ++ bytesLe e.slot 1 ++ bytesLe 0 2 ++ bytesLe e.register.toNat 4 ++
  bytesLe e.value.toNat 4 ++ bytesLe e.lix.toNat 8 ++ bytesLe 0 8 ++ (e.detail ++ List.replicate 32 0).take 32

def peekEvent (s : State) (o : Nat) : Nat :=
  let c := s.control
  if o = 0x00 then c.head.toNat
  else if o = 0x04 then c.tail.toNat
  else if o = 0x08 then c.lost
  else if o = 0x0C then c.mask.toNat
  else if o = 0x10 then c.addr
  else if o = 0x14 then field (eventBytes (tget EventRec.blank c.events c.addr)) (4 * c.word) 4
  else 0

/-- SEC block (R484). -/
def peekSec (s : State) (o : Nat) : Nat :=
  let x := s.sec
  if o = 0x00 then
    b2n x.identity + 2 * b2n x.owner + 4 * b2n x.vendorOnly + 8 * b2n x.signing.isSome + 16 * b2n x.building + 32 * x.slot
  else if o = 0x04 then x.version
  else if o = 0x10 then x.flashAddr.toNat
  else if o = 0x14 then x.flashData.toNat
  else if o = 0x20 then x.stageAddr.toNat
  else if o = 0x24 then rdLe x.staging x.stageAddr.toNat 4
  else if o = 0x2C then x.result + 256 * b2n x.job.isSome
  else if 0x40 ≤ o && o < 0x60 then field Config.deviceId (o - 0x40) 4
  else if o = 0x60 then x.certAddr.toNat
  else if o = 0x64 then (Config.certificateWord x.certAddr.toNat).toNat
  else 0

/-- The 32 bytes of a trace record (R447). -/
def traceBytes (t : TraceRec) : List Byte :=
  bytesLe t.kind 1 ++ bytesLe t.slot 1 ++ bytesLe t.cmd 2 ++ bytesLe t.instr 4 ++ bytesLe t.step.toNat 8 ++
  bytesLe t.lix.toNat 8 ++ bytesLe t.value.toNat 8

/-- The engine that runs or holds an instance of slot c, for the scalar registers of DIGEST_PEEK. -/
def peekInst (s : State) (c : Nat) : Option Inst :=
  match s.digest.broken with
  | some (e, _) => ((engOf s e).run.toList ++ (engOf s e).frozen).find? fun i => i.origin.slot = c
  | none => none

/-- What DIGEST_PEEK_DATA returns at its address (R451, R485): word index k of the selected store of the selected
context while it is stopped; the banks of its engines follow one another, tile then row sums (log 11). -/
def peekWord (s : State) : Nat :=
  let c := s.digest.ctx
  let x := ctxOf s c
  let a := s.digest.peekAddr.toNat % 2 ^ 28
  let k := s.digest.peekAddr.toNat / 2 ^ 28
  let m := moduleOf s c
  if x.state ≠ .stopped then 0
  else if k = 0 then
    let words := max 1 (m.esKib * 256)
    rdLe x.stores.es (2 ^ 30 * (a / words) + 4 * (a % words)) 4
  else if k = 1 then
    let b := tget Bank.clear x.banks (a / 4160)
    let r := a % 4160
    lowBits 32 (if r < 4096 then tget 0 b.tile r else tget 0 b.rows (r - 4096))
  else if k = 2 then
    let words := max 1 (m.csKib * 256)
    rdLe x.stores.cs (2 ^ 30 * (a / words) + 4 * (a % words)) 4
  else if k = 3 then
    match peekInst s c with
    | some i => (tget 0 i.regs (a % 16)).toNat
    | none => 0
  else if k = 4 then rdLe x.stores.xs (4 * a) 4
  else 0

/-- DIGEST block (R485). -/
def peekDigest (s : State) (o : Nat) : Nat :=
  let d := s.digest
  let lo (x : BitVec 64) := x.toNat % 2 ^ 32
  let hi (x : BitVec 64) := x.toNat / 2 ^ 32
  if o = 0x00 then d.ctx
  else if o = 0x04 then lo (ctxOf s d.ctx).chain
  else if o = 0x08 then hi d.capChain
  else if o = 0x0C then lo d.capStep
  else if o = 0x10 then hi d.capStep
  else if o = 0x14 then d.head % 2 ^ 32
  else if o = 0x18 then d.traceAddr
  else if o = 0x1C then field (traceBytes (tget TraceRec.blank d.trace d.traceAddr)) (4 * d.traceWord) 4
  else if o = 0x20 then d.lost
  else if o = 0x24 then d.replaySlot + 2 ^ 31 * b2n d.replayOn
  else if o = 0x2C then d.divKind + 256 * d.divSlot
  else if o = 0x30 then lo d.divStep
  else if o = 0x34 then d.divStepHi.toNat
  else if o = 0x38 then lo d.divExpect
  else if o = 0x3C then d.divExpectHi.toNat
  else if o = 0x40 then lo d.divFound
  else if o = 0x44 then d.divFoundHi.toNat
  else if o = 0x48 then d.markSlot + 32 * b2n d.markOn + 65536 * d.markCmd
  else if o = 0x4C then d.markS3.toNat
  else if o = 0x50 then d.breakInstr + 2 ^ 30 * b2n d.breakArmed
  else if o = 0x54 then d.peekAddr.toNat
  else if o = 0x58 then peekWord s
  else 0

/-- An address lies in a block of the map (R475). -/
def inMap (a : Nat) : Bool := a < 0x110000

/-- The value of a register (R475); an offset the block does not list reads 0 (R465). -/
def regPeek (s : State) (a : Nat) : Nat :=
  let o := a % 0x10000
  match a / 0x10000 with
  | 0x0 => peekSys s o
  | 0x1 => peekLix s o
  | 0x2 => peekClk s o
  | 0x3 => peekIris s o
  | 0x4 => peekCtx s o
  | 0x5 => peekLedger s o
  | 0x6 => peekQnt s o
  | 0x7 => peekMem s o
  | 0x8 => peekMedia s o
  | 0x9 => peekGlint s o
  | 0xA => peekAudio s o
  | 0xB => peekTku s o
  | 0xC => peekRelay s o
  | 0xD => peekNet s o
  | 0xE => peekSec s o
  | 0xF => peekEvent s o
  | 0x10 => peekDigest s o
  | _ => 0

end Sys2Proof.Machine
end

