-- ==== Sys2Proof/Machine/Flags.lean ====
section
/-! DEFINITION. Statuses (R474, R104), the OVERSPEED and ECC flags' computations, and the saturating counters (R475). -/

namespace Sys2Proof.Machine

open Sys2Proof

/-! ### Status codes (R474) -/

def stOk : Nat := 0x00
def stLength : Nat := 0x01
def stDims : Nat := 0x02
def stShort : Nat := 0x03
def stDeferred : Nat := 0x04
def stOverrun : Nat := 0x05
def stGrammarDead : Nat := 0x06
def stSplit : Nat := 0x07
def stKvWait : Nat := 0x08
def stKvDropped : Nat := 0x09
def stSat : Nat := 0x0A
def stConst : Nat := 0x0B
def stHeld : Nat := 0x0C
def stOverspeed : Nat := 0x0D
def stEpoch : Nat := 0x0E
def stLedger : Nat := 0x0F
def stCorrected : Nat := 0x10
def stUncorrectable : Nat := 0x11
def stFault : Nat := 0x12
def stBudget : Nat := 0x13
def stThermal : Nat := 0x14
def stShutter : Nat := 0x15
def stSignature : Nat := 0x16
def stLinkDown : Nat := 0x17

/-- A failing status of an instruction (R104, R474). -/
def failing (st : Nat) : Bool :=
  [stLength, stDims, stOverrun, stKvWait, stHeld, stUncorrectable, stFault, stShutter, stLinkDown].contains st

/-- A status that tears the context down (R365). -/
def tearing (st : Nat) : Bool := st = stFault || st = stUncorrectable

/-- The interval check (R42): two source edges closer than the declared interval. -/
def overspeedNow (s : State) (interval : Nat) : Bool := !s.lix.firstEdge && interval < s.facet.timing.interval

/-! ### The word code (R213, R214) -/

/-- a_i: the i-th 12-bit value with exactly two bits set, in increasing order. -/
def pairMasks : List Nat :=
  ((span 0 12).flatMap fun hi => (span 0 hi).map fun lo => 2 ^ hi + 2 ^ lo)

/-- Parity-check column of codeword bit k: data bits 0 to 127, check bits 128 to 143. -/
def eccColumn (k : Nat) : Nat :=
  if k < 128 then 16 * nth pairMasks (k / 4) 0 + 2 ^ (k % 4) else 2 ^ (k - 128)

/-- Syndrome of an error pattern: the code is linear, so the stored codeword drops out. -/
def eccSyndrome (pattern : BitVec 144) : Nat :=
  (span 0 144).foldl (fun x k => if pattern.getLsbD k then x ^^^ eccColumn k else x) 0

/-- Check bits of a data word (R213). -/
def eccCheck (d : BitVec 128) : Nat := eccSyndrome (d.zeroExtend 144)

/-- What a read makes of an error pattern (R214). -/
inductive Ecc where
  | good
  /-- The bit inverted. -/
  | corrected (bit : Nat)
  | uncorrectable
deriving DecidableEq, Repr

def eccDecode (pattern : BitVec 144) : Ecc :=
  let y := if pattern = 0 then 0 else eccSyndrome pattern
  if y = 0 then .good
  else match (span 0 144).find? fun k => eccColumn k = y with
    | some k => .corrected k
    | none => .uncorrectable

/-- The data bits a read delivers wrongly, given the pattern. -/
def eccResidue (pattern : BitVec 144) : BitVec 128 :=
  match eccDecode pattern with
  | .corrected k => (pattern ^^^ BitVec.twoPow 144 k).truncate 128
  | _ => pattern.truncate 128

/-! ### Stores under the word code (R512) -/

/-- A byte as a read delivers it. -/
def rdStore (m : Memory) (up : Table (BitVec 144)) (a : Nat) : Byte :=
  let p := tget 0 up (a / 16)
  if p = 0 then rd m a else rd m a ^^^ ((eccResidue p) >>> (8 * (a % 16))).truncate 8

/-- Store a byte: a word with an upset is merged as delivered and its check bits are computed afresh (R512). -/
def wrStore (m : Memory) (up : Table (BitVec 144)) (a : Nat) (b : Byte) : Memory × Table (BitVec 144) :=
  let p := tget 0 up (a / 16)
  if p = 0 then (wr m a b, up)
  else
    let w := 16 * (a / 16)
    let word := (span w 16).map (rdStore m up)
    (wr (wrBytes m w word) a b, tset 0 up (a / 16) 0)

end Sys2Proof.Machine
end

