-- ==== Sys2Proof/Machine/Ops.lean ====
section
/-! DEFINITION. Shared operations: time, events, the trace, the journal, free values, ledgers of semaphores, credits and
tokens, message arrival, and halting the chip. -/

namespace Sys2Proof.Machine

open Sys2Proof

/-! ### Time -/

/-- Time moves to an ARITH edge, not before the present one; the phase counts with it (R37). -/
def advanceTo (s : State) (edge : Nat) : State :=
  let d := edge - s.now
  { s with now := s.now + d,
           lix := { s.lix with phase := if s.lix.hold then s.lix.phase else BitVec.ofNat 16 (min 65535 (s.lix.phase.toNat + d)) } }

/-- d of R38 lies behind: the target line is this one with its phase reached, or a passed one. -/
def targetReached (s : State) (t : Line) (p : Nat) : Bool :=
  let d := (t - s.lix.count).toNat
  (d = 0 && p ≤ s.lix.phase.toNat) || 2 ^ 47 ≤ d

/-- A fresh free value. -/
def freshWord (s : State) : Word × State := (Config.freeValue s.freeCount, { s with freeCount := s.freeCount + 1 })

/-! ### Events (R472, R473) -/

/-- The port an event frame leaves on. -/
def destIface (p : Nat) : Iface := if p = 0 then .mgmt else if p = 1 then .net0 else .net1

/-- A frame: header, payload, trailer (R463). -/
def frameBytes (op status fragment request : Nat) (payload : List Byte) : List Byte :=
  let b := ascii "BXCF" ++ bytesLe 1 1 ++ bytesLe op 1 ++ bytesLe status 1 ++ bytesLe fragment 1 ++ bytesLe request 4 ++
    bytesLe payload.length 2 ++ bytesLe 0 2 ++ payload
  b ++ bytesLe (crc64 b).toNat 8

/-- A byte inside a UART frame (R471). -/
def uartByte (b : Byte) : List Byte := if b = 0xC0 then [0xDB, 0xDC] else if b = 0xDB then [0xDB, 0xDD] else [b]

/-- A frame as an interface carries it: on the UART between two 0xC0 delimiters, with escapes (R471). -/
def onLine (i : Iface) (frame : List Byte) : List Byte :=
  match i with
  | .uart => 0xC0 :: frame.flatMap uartByte ++ [0xC0]
  | _ => frame

/-- Send a frame on an interface; the SPI target holds it for its master, at most 8 (R470). -/
def sendFrame (s : State) (i : Iface) (frame : List Byte) : State :=
  match i with
  | .spi =>
    let q := s.control.spi ++ [frame]
    { s with control := { s.control with spi := q.drop (q.length - 8) } }
  | _ => { s with control := { s.control with sent := s.control.sent ++ [{ iface := i, bytes := onLine i frame }] } }

/-- Put a record into the event ring (R472); the event it would overwrite counts as lost when it is unacknowledged (R473). -/
def ringEvent (s : State) (status slot addr : Nat) (detail : List Byte) : State :=
  let c := s.control
  let full := (c.head - c.tail).toNat = 2048
  let r : EventRec := { number := c.head, status := status, slot := slot, register := BitVec.ofNat 32 addr,
                        value := BitVec.ofNat 32 (regPeek s addr), lix := lixField s, detail := detail }
  { s with control := { c with events := tset EventRec.blank c.events (c.head.toNat % 2048) r, head := c.head + 1,
                               tail := if full then c.tail + 1 else c.tail,
                               lost := if full then bump c.lost 1 else c.lost } }

/-- Post an event, and send it to the event destination while that is enabled and served (R473). -/
def postEvent (s : State) (status slot addr : Nat) (detail : List Byte) : State :=
  let e := tget EventRec.blank (ringEvent s status slot addr detail).control.events (s.control.head.toNat % 2048)
  let t := ringEvent s status slot addr detail
  if s.control.destOn && s.control.mask.getLsbD status && served s (destIface s.control.destPort) then
    let (w, u) := freshWord t
    sendFrame u (destIface s.control.destPort) (frameBytes 0x86 0 0 w.toNat (eventBytes e))
  else t

/-- A chip-level event. -/
def chipEvent (s : State) (status addr : Nat) : State := postEvent s status 0xFF addr []

/-- EVENT_N is driven low (R473): an enabled event waits, or the part is halted or in mask-ROM service. -/
def eventPending (s : State) : Bool :=
  s.sys.halted || s.sys.maskRom ||
  (span 0 (s.control.head - s.control.tail).toNat).any fun k =>
    s.control.mask.getLsbD (tget EventRec.blank s.control.events ((s.control.tail.toNat + k) % 2048)).status

/-- Event for a counter that has changed, at most once per ISLAND millisecond per counter (R219, R398, R458): at once, or at the
next tick where the counter has posted already. -/
def counterEvent (s : State) (addr status : Nat) : State :=
  let k := tget 0 s.mem.posted addr
  if k = 0 then chipEvent { s with mem := { s.mem with posted := tset 0 s.mem.posted addr (2 * status + 1) } } status addr
  else { s with mem := { s.mem with posted := tset 0 s.mem.posted addr (k + k % 2) } }

/-- The tick's part: counters that changed after their event post again, the others may post. -/
def counterTick (s : State) : State :=
  let again := s.mem.posted.filter fun e => e.2 % 2 = 0
  again.foldl (fun t e => counterEvent t e.1 ((e.2 - 2) / 2)) { s with mem := { s.mem with posted := [] } }

/-! ### Trace and journal -/

/-- The line index as it reads on an edge that is not before the present one. -/
def lixAt (s : State) (edge : Nat) : BitVec 64 := lixField (advanceTo s edge)

/-- Write a trace record stamped with an edge (R446, R447). -/
def traceOn (s : State) (edge kind slot cmd instr : Nat) (value : BitVec 64) : State :=
  let r : TraceRec := { kind := kind, slot := slot, cmd := cmd, instr := instr % 2 ^ 32,
                        step := if slot < 32 then (ctxOf s slot).step else 0, lix := lixAt s edge, value := value }
  { s with digest := { s.digest with trace := tset TraceRec.blank s.digest.trace (s.digest.head % 2 ^ 21) r,
                                     head := s.digest.head + 1 } }

/-- Write a trace record stamped with the present edge. -/
def trace (s : State) (kind slot cmd instr : Nat) (value : BitVec 64) : State := traceOn s s.now kind slot cmd instr value

/-- Bytes 0x00 to 0x17 of a journal entry (R438). -/
def journalHead (r : JournalRec) : List Byte :=
  bytesLe r.number 4 ++ bytesLe r.line.toNat 6 ++ bytesLe r.iface 1 ++ bytesLe r.kind 1 ++ bytesLe r.addr.toNat 4 ++
  bytesLe r.old.toNat 4 ++ bytesLe r.new.toNat 4

/-- The state record of the NVS, as bytes 0x000 to 0x7DF (R417). -/
def stateRecord (x : Sec) (seq : Nat) : List Byte :=
  let b := ascii "STAT" ++ bytesLe seq 4 ++ bytesLe x.bound 8 ++ bytesLe x.bottom 4 ++ bytesLe x.coldStarts 4 ++
    bytesLe (x.journalHead - 1) 4 ++ bytesLe 0 4 ++ x.journalHash ++ (Config.bottomTreeKey x.bottom)
  (b ++ List.replicate 2016 0).take 2016

/-- Which copy of a two-copy record is in use (R412): the valid one with the higher sequence, as (base, sequence). -/
def recordCopy (m : Memory) (base : Nat) (magic : String) : Option (Nat × Nat) :=
  let ok (a : Nat) := rdBytes m a 4 = ascii magic && sha256 (rdBytes m a 2016) = rdBytes m (a + 2016) 32
  let seq (a : Nat) := rdLe m (a + 4) 4
  if ok base && ok (base + 2048) then
    if seq (base + 2048) < seq base then some (base, seq base) else some (base + 2048, seq (base + 2048))
  else if ok base then some (base, seq base)
  else if ok (base + 2048) then some (base + 2048, seq (base + 2048))
  else none

/-- Write a two-copy record into the older copy (R412). -/
def writeRecord (m : Memory) (base : Nat) (magic : String) (body : Nat → List Byte) : Memory :=
  let (at_, seq) := match recordCopy m base magic with
    | some (a, q) => (if a = base then base + 2048 else base, q + 1)
    | none => (base, 1)
  let b := body seq
  wrBytes m at_ (b ++ sha256 b)

/-- The warden writes the state record (R417), where there is one (R412; log 19). -/
def writeState (x : Sec) : Sec := if x.stateOk then { x with nvs := writeRecord x.nvs 0x5000 "STAT" (stateRecord x) } else x

/-- Append a journal entry: the entry, then the state record that advances the head (R412, R438). -/
def journal (s : State) (iface kind addr old new : Nat) : State :=
  let x := s.sec
  let r : JournalRec :=
    { number := x.journalHead, line := if s.clk.collimated || s.lix.count ≠ 0 then s.lix.count else 0, iface := iface,
      kind := kind, addr := BitVec.ofNat 32 addr, old := BitVec.ofNat 32 old, new := BitVec.ofNat 32 new, tag := [] }
  let h := sha256 (x.journalHash ++ journalHead r)
  let r := { r with tag := h.take 8 }
  let slot := x.journalHead % 4096
  { s with control := { s.control with journal := tset JournalRec.blank s.control.journal slot r },
           sec := writeState { x with nvs := wrBytes x.nvs (0x60000 + 32 * slot) (journalHead r ++ r.tag),
                                      journalHead := x.journalHead + 1, journalHash := h } }

/-- A register write that changed a defined field or triggered an action is journalled as kind 0 (R475). -/
def journalWrite (s : State) (i : Iface) (addr old new : Nat) : State := journal s (ifaceCode i) 0 addr old new

/-! ### Halting (R370) -/

/-- REFLEX_OUT balls to their inactive level; a ball never driven stays undriven (R75). -/
def reflexSafe (s : State) : State := { s with glint := { s.glint with balls := [] } }

/-- The listening microphone. -/
def listening (s : State) : Nat := s.facet.island.mic

/-- Every channel but the listening microphone stops (R322). -/
def onlyListening (s : State) : Table Mic := tset Mic.idle [] (listening s) (tget Mic.idle s.island.mics (listening s))

/-- The shutter closes at once (R370), and the other microphones stop with it (R322). -/
def shutterCut (s : State) : State :=
  { s with island := { s.island with open_ := false, closeEnd := false, closeOwner := false,
                                     closeFacet := false, closeTime := false, closing := false, mics := onlyListening s } }

/-- SCL period of a bus in IMAGE cycles (R294). -/
def sclPeriod (bus : Nat) : Nat := if bus = 0 then 32 else if bus = 1 then 64 else if bus = 2 then 400 else 1000

/-- SCL periods of a transaction (R296). -/
def cciPeriods (e : CciEntry) : Nat :=
  if e.read && 1 ≤ e.regBytes then 21 + 9 * e.regBytes + 9 * e.count else 11 + 9 * e.regBytes + 9 * e.count

/-- The entry that a list has come to after some IMAGE cycles. -/
def cciReached (p : Nat) : Nat → List CciEntry → Nat
  | n, e :: f :: l => if n < p * (cciPeriods e + 1) then 0 else 1 + cciReached p (n - p * (cciPeriods e + 1)) (f :: l)
  | _, _ => 0

/-- The entry that the list running on controller n has come to (R296: 4 IMAGE cycles are 5 ARITH edges). -/
def cciIndex (s : State) (n : Nat) : Nat :=
  cciReached (sclPeriod (cciCfg s n).bus) ((s.now - (cciOf s n).startAt) * 4 / 5 - 2) ((cciOf s n).running.getD [])

/-- A running CCI list ends at the next byte boundary with status 3 and the index of the entry it had come to, the busy bit clear; an
armed one is disarmed (R297, R370). -/
def cutList (s : State) (n : Nat) : State :=
  let x := cciOf s n
  if x.running.isNone then setCci s n { x with armed := false }
  else
    let i := cciIndex s n
    let w := wr (wr (wr x.window 7 (rd x.window 7 &&& 0xBF)) 9 3) 10 (BitVec.ofNat 8 i)
    let put (t : State) (o : Nat) : State :=
      if rdBytes w o 8 = rdBytes x.window o 8 then t
      else trace t 17 (cciCfg s n).owner 0 ((cciCfg s n).windowKib * 1024 + o) (BitVec.ofNat 64 (rdLe w o 8))
    put (put (setCci s n { x with running := none, last := 3, lastIndex := i, window := w }) 0) 8

/-- Every CCI list ends. -/
def cutLists (s : State) : State := (s.media.ccis.map (·.1)).foldl cutList s

/-- The actions of R370 without the ledger values; R509 takes the same. -/
def makeSafe (s : State) : State := shutterCut (cutLists (reflexSafe s))

/-- A failed ledger identity (R370): the values go to LEDGER_STATUS and the chip halts. -/
def ledgerViolation (s : State) (which index total free held flight : Nat) : State :=
  if s.sys.halted then s
  else
    let t := makeSafe s
    let t := { t with ledgers := { t.ledgers with violation := true, which := which, index := index, total := total,
                                                  free := free, held := held, flight := flight },
                      sys := { t.sys with halted := true, cause := 4 } }
    chipEvent t stLedger 0x00050000

/-! ### The ledgers' columns (R368) -/

/-- Steps of a share table a test holds for. -/
def ownedBy (p : Owner → Bool) (t : Table Owner) : Nat := tcount p t

def isHeld : Owner → Bool
  | .held _ => true
  | .part => true
  | _ => false

def isClearing : Owner → Bool
  | .clearing _ => true
  | _ => false

/-- Total, free, held, in flight of a store ledger. -/
def storeColumns (total : Nat) (t : Table Owner) : Nat × Nat × Nat × Nat :=
  (total, total - ownedBy isHeld t - ownedBy isClearing t, ownedBy isHeld t, ownedBy isClearing t)

/-- Committed holdings of a chip semaphore over all contexts. -/
def semHeld (s : State) (k : Nat) : Nat := (s.ctxs.map fun c => tget 0 c.2.held k).foldl (· + ·) 0

/-- The instances of an engine. -/
def instsOf (e : Engine) : List Inst := e.run.toList ++ e.frozen

/-- All running and frozen instances. -/
def allInsts (s : State) : List Inst := s.engines.flatMap fun e => instsOf e.2

/-- Provisional holds of a chip semaphore. -/
def semFlight (s : State) (k : Nat) : Nat := ((allInsts s).map fun i => tget 0 i.holds k).foldl (· + ·) 0

/-- The four columns of a ledger, named as in LEDGER_STATUS (R479). A post staged for COMMIT stays in its held column. -/
def ledgerColumns (s : State) (which index : Nat) : Nat × Nat × Nat × Nat :=
  match which with
  | 1 => storeColumns 256 s.ledgers.es
  | 2 => storeColumns 256 s.ledgers.banks
  | 3 => storeColumns 512 s.ledgers.cs
  | 4 => storeColumns 124 s.ledgers.xs
  | 5 => storeColumns 16320 s.ledgers.ds
  | 6 =>
    let x := semOf s index
    (x.total, x.free, x.unitHeld + semHeld s index, semFlight s index)
  | 7 =>
    let c := tget Credit.none (ctxOf s (index / 16)).credits (index % 16)
    (c.grant, c.free, c.held, c.flight)
  | 8 =>
    let held := (s.ctxs.map fun c => c.2.batchHeld).foldl (· + ·) 0
    let fl := (s.ctxs.map fun c => c.2.batchFlight).foldl (· + ·) 0
    (2048, 2048 - held - fl, held, fl)
  | 9 => (s.iris.capacity, s.iris.free, s.iris.held, s.iris.flight)
  | _ => (0, 0, 0, 0)

/-- A ledger's identity (R368). -/
def ledgerOk (s : State) (which index : Nat) : Bool :=
  let (t, f, h, i) := ledgerColumns s which index
  t = f + h + i

/-- Check one ledger; a failed identity halts the chip. -/
def checkLedger (s : State) (which index : Nat) : State :=
  if ledgerOk s which index then s
  else
    let (t, f, h, i) := ledgerColumns s which index
    ledgerViolation s which index t f h i

/-- Every ledger of the chip, checked in the order of LEDGER_STATUS: stores, semaphores in use, credits, batches, tokens. -/
def checkLedgers (s : State) : State :=
  let t := [1, 2, 3, 4, 5].foldl (fun x w => checkLedger x w 0) s
  let t := s.ledgers.sems.foldl (fun x e => checkLedger x 6 e.1) t
  let t := s.ctxs.foldl (fun x e => e.2.credits.foldl (fun y p => checkLedger y 7 (16 * e.1 + p.1)) x) t
  checkLedger (checkLedger t 8 0) 9 0

/-! ### Semaphores -/

/-- Chip semaphore and facet entry behind context semaphore k of slot c (R362). -/
def bindingOf (s : State) (c k : Nat) : Binding := tget Binding.none s.facet.bindings (64 * c + k)

/-- Counts leave the free column. -/
def semTake (s : State) (k n : Nat) : State := setSem s k { semOf s k with free := (semOf s k).free - n }

/-- Counts of a semaphore that an instruction at an edge can take (R108, R364). -/
def semFreeAt (x : Sem) (edge : Nat) : Nat := if edge ≤ x.freshEdge then x.free - x.fresh else x.free

/-- Counts posted on an edge, free from the edge after it (R108, R364). -/
def semPost (x : Sem) (n edge : Nat) : Sem :=
  { x with free := x.free + n, fresh := (if x.freshEdge = edge then x.fresh else 0) + n, freshEdge := edge }

/-- Counts return to free on a chip semaphore, to be taken from the next edge. -/
def semFree (s : State) (k n : Nat) : State := if n = 0 then s else setSem s k (semPost (semOf s k) n s.now)

/-- A unit posts its semaphore by one (R364): from the unit's holding; with none held the overflow count increments. -/
def unitPost (s : State) (k : Nat) : State :=
  let x := semOf s k
  if 0 < x.unitHeld then setSem s k { semPost x 1 s.now with unitHeld := x.unitHeld - 1 }
  else { s with ledgers := { s.ledgers with unitOverflow := bump s.ledgers.unitOverflow 1, unitLast := k } }

/-- A unit posts the semaphore context c binds under number k, where it is bound. -/
def unitPostBound (s : State) (c k : Nat) : State :=
  if (bindingOf s c k).bound then unitPost s (bindingOf s c k).chip else s

/-! ### Credits (R393) -/

def creditOf (s : State) (c peer : Nat) : Credit := tget Credit.none (ctxOf s c).credits peer

def setCredit (s : State) (c peer : Nat) (x : Credit) : State :=
  modCtx s c fun k => { k with credits := tset Credit.none k.credits peer x }

/-- Credits in flight come back. -/
def creditReturn (s : State) (c peer n : Nat) : State :=
  let x := creditOf s c peer
  let k := min n x.flight
  setCredit s c peer { x with free := x.free + k, flight := x.flight - k }

/-! ### Tokens (R374) -/

/-- Reserve at admission: free to held. -/
def reserveTokens (s : State) (c n : Nat) : State :=
  let t := { s with iris := { s.iris with free := s.iris.free - n, held := s.iris.held + n } }
  modCtx t c fun x => { x with tokensHeld := x.tokensHeld + n }

/-- Settle at an end: the charge moves from held to in flight, the rest of the reservation to free. -/
def settleTokens (s : State) (c reserved charge : Nat) : State :=
  let q := min charge reserved
  let t := { s with iris := { s.iris with held := s.iris.held - reserved, flight := s.iris.flight + q,
                                          free := s.iris.free + (reserved - q) } }
  modCtx t c fun x => { x with tokensHeld := x.tokensHeld - reserved }

/-- Charge of an instance in tokens: pJ up to nJ, nJ up to tokens (R374). -/
def chargeOf (i : Inst) : Nat := ceilDiv (ceilDiv i.energy 1000) 1000

/-! ### Words with upsets (R217 to R219) -/

/-- Count corrected words of a store, by its code, and post the counter's event (R217, R219). -/
def countCorrected (s : State) (store n : Nat) : State :=
  if n = 0 then s
  else
    let m := s.mem
    let t : State := { s with mem :=
      if store < 2 then { m with corrEs := bump m.corrEs n } else if store = 2 then { m with corrCs := bump m.corrCs n }
      else if store = 3 then { m with corrXs := bump m.corrXs n } else if store = 4 then { m with corrDs := bump m.corrDs n }
      else { m with corrOther := bump m.corrOther n } }
    counterEvent t (0x70000 + (if store < 2 then 0 else if store = 2 then 4 else if store = 3 then 8 else if store = 4 then 12 else 16))
      stCorrected

/-- Record an uncorrectable word (R219) and post its event. -/
def countUncorrectable (s : State) (store owner word core : Nat) : State :=
  let m := s.mem
  let t := { s with mem := { m with uncorr := bump m.uncorr 1, lastStore := store, lastCtx := owner,
                                    lastAddr := BitVec.ofNat 40 word, lastCore := core } }
  counterEvent t 0x70014 stUncorrectable

/-- Mark a context for teardown on the next edge (R365); a mark that stands is kept. -/
def markTear (s : State) (c : Nat) (cause : TearCause) (e : Option Nat) : State :=
  modCtx s c fun x => if x.tear.isSome then x else { x with tear := some (cause, e, s.now + 1) }

/-- An uncorrectable word outside every context's share: recorded with no context, and a chip-level event (R218). -/
def partWord (s : State) (store word : Nat) : State := chipEvent (countUncorrectable s store 0xFF word 0) stUncorrectable 0x70014

/-- An uncorrectable word of a context's share: recorded, and its owner torn down (R218); `e` is the engine of the owner's own
instruction that found it. -/
def ctxWord (s : State) (c store word core : Nat) (e : Option Nat) : State :=
  markTear (countUncorrectable s store c word core) c .eccUncorrectable e

/-! ### Writes by the part (R512) -/

/-- Words that a write of n bytes at a covers in part. -/
def partWords (a n : Nat) : List Nat :=
  ((if a % 16 ≠ 0 && n ≠ 0 then [a / 16] else []) ++ (if (a + n) % 16 ≠ 0 && n ≠ 0 then [(a + n) / 16] else [])).eraseDups

/-- A write of the part merges with the words it covers in part: those it corrects count, those it cannot correct stay as they are and tear
their owner down (R512, R218). Answers the words it does not write. -/
def mergeWords (s : State) (c store a n : Nat) (up : Table (BitVec 144)) : State × List Nat :=
  (partWords a n).foldl (fun t w =>
    match eccDecode (tget 0 up w) with
    | .good => t
    | .corrected _ => (countCorrected t.1 store 1, t.2)
    | .uncorrectable => (ctxWord t.1 c store w 0 none, w :: t.2)) (s, [])

/-- Put bytes into a store at a, but for those of the words to be left. -/
def putBytes (m : Memory) (up : Table (BitVec 144)) (a : Nat) (leave : List Nat) (l : List Byte) : Memory × Table (BitVec 144) :=
  l.zipIdx.foldl (fun (t : Memory × Table (BitVec 144)) e =>
    if leave.contains ((a + e.2) / 16) then t else wrStore t.1 t.2 (a + e.2) e.1) (m, up)

/-- The part reads words of context c's own XS: those it corrects count, one it cannot correct tears the context down (R217, R218). -/
def partReads (s : State) (c : Nat) (words : List Nat) : State :=
  words.foldl (fun t w =>
    match eccDecode (tget 0 (ctxOf s c).stores.upXs w) with
    | .good => t
    | .corrected _ => countCorrected t 3 1
    | .uncorrectable => ctxWord t c 3 w 0 none) s

/-- The part writes bytes of context c's own XS. -/
def xsPut (s : State) (c a : Nat) (l : List Byte) : State :=
  let p := mergeWords s c 3 a l.length (ctxOf s c).stores.upXs
  modCtx p.1 c fun x =>
    let (m, u) := putBytes x.stores.xs x.stores.upXs a p.2 l
    { x with stores := { x.stores with xs := m, upXs := u } }

/-- The part writes bytes of context c's DS. -/
def dsPut (s : State) (c a : Nat) (l : List Byte) : State :=
  let p := mergeWords s c 4 a l.length (ctxOf s c).stores.upDs
  modCtx p.1 c fun x =>
    let (m, u) := putBytes x.stores.ds x.stores.upDs a p.2 l
    { x with stores := { x.stores with ds := m, upDs := u } }

/-! ### Messages (R348, R349) -/

/-- The inbox of a context. -/
def inboxOf (s : State) (c n : Nat) : InboxCfg := tget InboxCfg.none s.facet.inboxes (64 * c + n)

/-- The lowest free entry of an inbox. -/
def freeEntry (x : Ctx) (n count : Nat) : Option Nat :=
  (span 0 count).find? fun e => !(tget false x.progress.entries (4096 * n + e))

/-- A message arrives (R349): written into the lowest free entry, or discarded and counted. Answers whether it was taken. -/
def arrive (s : State) (c n source detail : Nat) (msg : List Byte) : Bool × State :=
  let b := inboxOf s c n
  let x := ctxOf s c
  let discard := modCtx s c fun k => { k with inboxOverflow := bump k.inboxOverflow 1 }
  if x.state ≠ .active || b.count = 0 || b.size < msg.length + 16 then (false, discard)
  else match freeEntry x n b.count with
    | none => (false, discard)
    | some e =>
      let num := tget 0 x.progress.arrivals n
      let at_ := 16 * b.offset + b.size * e
      let head := bytesLe msg.length 4 ++ bytesLe source 1 ++ bytesLe detail 1 ++ bytesLe 0 2 ++ bytesLe num 8
      (true, modCtx (xsPut s c at_ (head ++ msg)) c fun k =>
        { k with progress := { k.progress with arrivals := tset 0 k.progress.arrivals n (num + 1),
                                               entries := tset false k.progress.entries (4096 * n + e) true,
                                               pending := k.progress.pending ++
                                                 [{ inbox := n, entry := e, arrival := num, digest := crc64 msg }] } })

end Sys2Proof.Machine
end

