-- ==== Sys2Proof/Machine/Mem.lean ====
section
/-! DEFINITION. The four spaces of a context byte by byte: declared sizes (R83, R84), the windows in XS (R514), the commit
buffer (R101), the word code's effect on a read and a partial write (R213 to R218, R512). -/

namespace Sys2Proof.Machine

open Sys2Proof

/-- A state and the instance that issues. -/
structure Run where
  s : State
  i : Inst

/-- The slot of the instance. -/
def Run.slot (r : Run) : Nat := r.i.origin.slot

/-! ### Windows (R514) -/

/-- A window of an XS space. -/
inductive Win where
  | glint
  | cci (n : Nat)
  | ring (p : Nat)
  | island
  | relay (w : Nat)
  | shared (writer : Nat)
  | outbox (n : Nat)
deriving DecidableEq, Repr

/-- The windows of context c's XS space: which, first byte, size. -/
def windowsOf (s : State) (c : Nat) : List (Win × Nat × Nat) :=
  let f := s.facet
  (if f.glintPort.isSome && f.glintOwner = c then [(Win.glint, f.glintKib * 1024, 4096)] else []) ++
  ((span 0 8).filter fun n => (cciCfg s n).enabled && (cciCfg s n).owner = c).map
    (fun n => (Win.cci n, (cciCfg s n).windowKib * 1024, 1024)) ++
  ((span 0 8).filter fun p => (portCfg s p).lanes ≠ 0 && (portCfg s p).share ≠ 0 && !bondedUpper s p
      && (portCfg s p).ringLines ≠ 0 && (portCfg s p).ringOwner = c).map
    (fun p => (Win.ring p, (portCfg s p).ringKib * 1024, 2 * (portCfg s p).ringLines * linePitch s p)) ++
  (if f.island.owner = some c then [(Win.island, f.island.windowKib * 1024, 688128)] else []) ++
  ((f.windows.zipIdx.filter fun w => w.1.part = f.partIndex && w.1.owner = c).map
    fun w => (Win.relay w.2, 16 * w.1.offset, w.1.size)) ++
  ((f.shared.filter fun w => w.writer = c || w.readers.getLsbD c).map
    fun w => (Win.shared w.writer, w.kib * 1024, w.sizeKib * 1024)) ++
  ((f.outboxes.zipIdx.filter fun w => w.1.owner = c).map fun w => (Win.outbox w.2, w.1.kib * 1024, w.1.sizeKib * 1024))

/-- The window that holds a byte, with the byte's offset in it. -/
def windowAt (s : State) (c a : Nat) : Option (Win × Nat) :=
  match (windowsOf s c).find? fun w => w.2.1 ≤ a && a < w.2.1 + w.2.2 with
  | some w => some (w.1, a - w.2.1)
  | none => none

/-- Where an access of bytes lo to hi falls: outside every window, within one, or neither (R514). -/
def classify (s : State) (c lo hi : Nat) : Except Nat (Option Win) :=
  match (windowsOf s c).filter fun w => w.2.1 ≤ hi && lo < w.2.1 + w.2.2 with
  | [] => .ok none
  | [w] => if w.2.1 ≤ lo && hi < w.2.1 + w.2.2 then .ok (some w.1) else .error stLength
  | _ => .error stLength

/-! ### Stores under the word code -/

/-- Key of a byte of a space in its context's tables. -/
def esKey (i : Inst) (a : Nat) : Nat := 2 ^ 30 * i.ve + a

def csKey (i : Inst) (a : Nat) : Nat := 2 ^ 30 * i.group + a

/-- Key of a published byte in the commit buffer: XS as it is, DS above 2^40. -/
def pubKey (sp a : Nat) : Nat := if sp = 3 then 2 ^ 40 + a else a

/-- The line a ring window's slot names (R232). -/
def lineOfSlot (r newest k : Nat) : Int := (newest : Int) - ((newest : Int) - k) % (2 * r)

/-- A byte as a read delivers it, at an offset of a store with upsets (R214). -/
def delivered (up : Table (BitVec 144)) (off : Nat) (b : Byte) : Byte :=
  let p := tget 0 up (off / 16)
  if p = 0 then b else b ^^^ ((eccResidue p) >>> (8 * (off % 16))).truncate 8

/-- A byte of a line-ring window (R231, R232). -/
def ringByte (s : State) (p off : Nat) : Byte :=
  let r := (portCfg s p).ringLines
  let pitch := max 1 (linePitch s p)
  match (portOf s p).newest with
  | none => 0
  | some n =>
    let l := lineOfSlot r n.toNat (off / pitch)
    let x := tget { line := 0, bytes := [] } (portOf s p).ring (l % (r : Int)).toNat
    delivered (portOf s p).upRing (off % (r * pitch)) (x.bytes.getD (off % pitch) 0)

/-- The bytes of a play entry (R338). -/
def playBytes (x : Play) : List Byte :=
  bytesLe x.offset 4 ++ bytesLe x.frames 4 ++ bytesLe x.mask.toNat 1 ++ bytesLe x.state 1 ++ bytesLe 0 2 ++ bytesLe x.played 4

/-- The island control block (R338); a request bit is cleared at its arrival. -/
def controlBlock (s : State) : List Byte :=
  let i := s.island
  bytesLe 0 4 ++ bytesLe i.sessions 4 ++ bytesLe (b2n i.open_) 1 ++
  bytesLe i.nextPlay 1 ++ List.replicate 54 0 ++ (span 0 4).flatMap fun e => playBytes (tget Play.empty i.plays e)

/-- The swap control word (R71). -/
def swapControl (s : State) : Nat := s.glint.target.toNat + 2 ^ 63 * b2n s.glint.armed

/-- A byte of the Glint window (R71). -/
def glintByte (s : State) (off : Nat) : Byte :=
  if 0xFE0 ≤ off && off < 0xFE4 then BitVec.ofNat 8 (s.glint.flags.toNat / 256 ^ (off - 0xFE0))
  else if 0xFF0 ≤ off && off < 0xFF8 then BitVec.ofNat 8 (swapControl s / 256 ^ (off - 0xFF0))
  else rdStore s.glint.window s.glint.upWindow off

/-- A byte of the audio ring: a word that cannot be corrected reads as zero (R218). -/
def audioByte (i : Island) (off : Nat) : Byte :=
  if eccDecode (tget 0 i.upRing (off / 16)) = .uncorrectable then 0 else rdStore i.ring i.upRing off

/-- A byte of context c's XS as committed. -/
def xsByte (s : State) (c a : Nat) : Byte :=
  let own := (ctxOf s c).stores
  match windowAt s c a with
  | none => rdStore own.xs own.upXs a
  | some (.glint, off) => glintByte s off
  | some (.cci n, off) => rd (cciOf s n).window off
  | some (.ring p, off) => ringByte s p off
  | some (.island, off) =>
    if off < 688000 then (if s.island.open_ then audioByte s.island off else 0) else rd s.island.shown (off - 688000)
  | some (.relay _, _) => rdStore own.xs own.upXs a
  | some (.shared w, _) => rdStore (ctxOf s w).stores.xs (ctxOf s w).stores.upXs a
  | some (.outbox _, _) => 0

/-- A byte of a space as the running command reads it: its own staged writes first (R101). -/
def ldByte (r : Run) (sp a : Nat) : Byte :=
  let x := (ctxOf r.s r.slot).stores
  if sp = 0 then rdStore x.es x.upEs (esKey r.i a)
  else if sp = 1 then rdStore x.cs x.upCs (csKey r.i a)
  else
    let k := pubKey sp a
    match r.i.staged.find? fun e => e.1 = k with
    | some e => delivered r.i.stagedUp k e.2
    | none => if sp = 3 then rdStore x.ds x.upDs a else xsByte r.s r.slot a

def ldBytes (r : Run) (sp a : Nat) : Nat → List Byte
  | 0 => []
  | n + 1 => ldByte r sp a :: ldBytes r sp (a + 1) n

/-- A little-endian field of a space. -/
def ldLe (r : Run) (sp a n : Nat) : Nat := leValue (ldBytes r sp a n)

/-- Mark bytes as read by the command from state that existed before it (R101). -/
def noteReads (r : Run) (sp : Nat) (addrs : List Nat) : Run :=
  if sp < 2 then r
  else
    let set := addrs.foldl (fun t a =>
      let k := pubKey sp a
      if tget false r.i.wroteSet k then t else tset false t k true) r.i.readSet
    { r with i := { r.i with readSet := set } }

/-- Bytes of the descriptor table and the scale banks (R101). -/
def tableByte (s : State) (c a : Nat) : Bool :=
  let m := moduleOf s c
  (m.descKib * 1024 ≤ a && a < m.descKib * 1024 + 65536) || (m.scaleKib * 1024 ≤ a && a < m.scaleKib * 1024 + 2 ^ 20)

/-- A published write goes to the commit buffer (R101): a shared window, the descriptor table or a scale bank, a byte the
command read before writing it, or a byte already staged. -/
def stages (r : Run) (sp a : Nat) : Bool :=
  let k := pubKey sp a
  tget false r.i.readSet k || r.i.staged.any (fun e => e.1 = k) ||
  (sp = 2 && (tableByte r.s r.slot a || (windowAt r.s r.slot a).isSome))

/-- A staged byte keeps its value even where it is 0: the buffer is keyed by byte and lists what it holds. -/
def stageByte (t : Memory) (k : Nat) (b : Byte) : Memory :=
  (t.filter fun e => e.1 < k) ++ (k, b) :: (t.filter fun e => k < e.1)

/-- The bytes of a word of the commit buffer with an upset are stored as a read delivers them, its check bits afresh (R512). -/
def settleStaged (i : Inst) (w : Nat) : Inst :=
  if tget 0 i.stagedUp w = 0 then i
  else { i with staged := i.staged.map (fun e => (e.1, if e.1 / 16 = w then delivered i.stagedUp e.1 e.2 else e.2)),
                stagedUp := tset 0 i.stagedUp w 0 }

/-- The outboxes written, with the one that holds a byte (R108). -/
def noteOutbox (r : Run) (k : Nat) : List Nat :=
  match windowAt r.s r.slot k with
  | some (.outbox n, _) => if r.i.outs.contains n then r.i.outs else r.i.outs ++ [n]
  | _ => r.i.outs

/-- Stage a byte. -/
def stageOne (r : Run) (k : Nat) (b : Byte) : Run :=
  let i := settleStaged r.i (k / 16)
  { r with i := { i with staged := stageByte i.staged k b, outs := noteOutbox r k } }

/-- Store a byte of a space. -/
def stByte (r : Run) (sp a : Nat) (b : Byte) : Run :=
  let c := r.slot
  let x := ctxOf r.s c
  if sp = 0 then
    let (m, u) := wrStore x.stores.es x.stores.upEs (esKey r.i a) b
    { r with s := setCtx r.s c { x with stores := { x.stores with es := m, upEs := u } } }
  else if sp = 1 then
    let (m, u) := wrStore x.stores.cs x.stores.upCs (csKey r.i a) b
    { r with s := setCtx r.s c { x with stores := { x.stores with cs := m, upCs := u } } }
  else if stages r sp a then stageOne r (pubKey sp a) b
  else
    let i := { r.i with wroteSet := tset false r.i.wroteSet (pubKey sp a) true }
    if sp = 3 then
      let (m, u) := wrStore x.stores.ds x.stores.upDs a b
      { s := setCtx r.s c { x with stores := { x.stores with ds := m, upDs := u } }, i := i }
    else
      let (m, u) := wrStore x.stores.xs x.stores.upXs a b
      { s := setCtx r.s c { x with stores := { x.stores with xs := m, upXs := u } }, i := i }

def stBytes (r : Run) (sp a : Nat) : List Byte → Run
  | [] => r
  | b :: l => stBytes (stByte r sp a b) sp (a + 1) l

/-- Stage a byte whatever it is (a record the part keeps under R101). -/
def stageAt (r : Run) (sp a : Nat) (l : List Byte) : Run :=
  l.zipIdx.foldl (fun q e => stageOne q (pubKey sp (a + e.2)) e.1) r

/-- Distinct 16-byte words of the commit buffer (S of R125). -/
def stagedWords (t : Memory) : Nat := ((t.map fun e => e.1 / 16).eraseDups).length

/-- The commit buffer holds what is staged (R101). -/
def bufferFits (r : Run) : Bool := 32 * stagedWords r.i.staged ≤ (moduleOf r.s r.slot).commitKib * 1024

/-! ### Access checks -/

/-- Declared size of a space, bytes (R83). -/
def spaceSize (s : State) (c sp : Nat) : Nat :=
  let m := moduleOf s c
  if sp = 0 then m.esKib * 1024 else if sp = 1 then m.csKib * 1024 else if sp = 2 then m.xsKib * 1024 else m.dsMib * 2 ^ 20

/-- The checks of an access to bytes lo to hi (R84, R101, R230, R330, R392, R514). -/
def checkSpan (r : Run) (write : Bool) (sp lo hi : Nat) : Except Nat Unit :=
  if spaceSize r.s r.slot sp ≤ hi then .error stLength
  else if sp ≠ 2 then .ok ()
  else match classify r.s r.slot lo hi with
    | .error e => .error e
    | .ok none => .ok ()
    | .ok (some .glint) => .ok ()
    | .ok (some (.cci _)) => .ok ()
    | .ok (some (.outbox _)) => .ok ()
    | .ok (some (.ring _)) => if write then .error stFault else .ok ()
    | .ok (some .island) =>
      if write && (windowAt r.s r.slot lo).any (fun w => w.2 < 688000) then .error stFault else .ok ()
    | .ok (some (.relay _)) => .error stHeld
    | .ok (some (.shared w)) => if write && w ≠ r.slot then .error stHeld else .ok ()

/-- The line-ring test of R233 on the lines that bytes of a ring window lie in, for an instruction of the given count. -/
def ringOk (s : State) (p count : Nat) (offs : List Nat) : Bool :=
  let r := (portCfg s p).ringLines
  let pitch := max 1 (linePitch s p)
  let m := 4 * count / (5 * max 1 s.facet.timing.interval) + 1
  match (portOf s p).newest with
  | none => offs.isEmpty
  | some n =>
    (offs.map fun o => o / pitch).eraseDups.all fun k =>
      let l := lineOfSlot r n.toNat k
      let x := tget { line := 0, bytes := [] } (portOf s p).ring (l % (r : Int)).toNat
      x.bytes ≠ [] && (x.line.toNat : Int) = l && (n.toNat : Int) + 2 + m - r ≤ l

/-- The island-ring test of R331 on the frames that bytes of the ring lie in. A slot's frame is read from its record; an
unwritten slot stands for the latest frame of its number up to the one the last close discarded. -/
def islandOk (s : State) (offs : List Nat) : Bool :=
  match s.island.newest with
  | none => offs.isEmpty
  | some n =>
    (offs.map fun o => o / 688).eraseDups.all fun k =>
      if tget false s.island.written k then
        let f := rdLe s.island.ring (688 * k) 6
        f % 1000 = k && (n : Int) - 998 ≤ f
      else match s.island.closedFrame with
        | some d => (n : Int) - ((n : Int) - k) % 1000 ≤ d && (n : Int) - 998 ≤ (n : Int) - ((n : Int) - k) % 1000
        | none => false

/-- Offsets in its window of the bytes that lie in one kind of window. -/
def offsetsIn (s : State) (c : Nat) (addrs : List Nat) (w : Win) : List Nat :=
  addrs.filterMap fun x => match windowAt s c x with
    | some (v, off) => if v = w then some off else none
    | none => none

/-- Read checks that depend on the issue edge: line rings (R233) and the island ring, not its control block (R331). -/
def checkArrival (r : Run) (sp count : Nat) (addrs : List Nat) : Except Nat Unit :=
  if sp ≠ 2 then .ok ()
  else match addrs.head?.bind (windowAt r.s r.slot) with
    | some (.ring p, _) => if ringOk r.s p count (offsetsIn r.s r.slot addrs (.ring p)) then .ok () else .error stLength
    | some (.island, _) =>
      if islandOk r.s ((offsetsIn r.s r.slot addrs .island).filter fun o => o < 688000) then .ok () else .error stLength
    | _ => .ok ()

/-! ### Words with upsets -/

/-- Code of a space's store in MEM_ECC_LAST_HI (R480). -/
def storeCode (sp : Nat) : Nat := if sp = 0 then 0 else if sp = 1 then 2 else if sp = 2 then 3 else 4

/-- Who answers for a word (R218): a context, or a store of the part. -/
inductive Holder where
  | ctx (c : Nat)
  | lineBuffer
  /-- The audio ring, whose bad word is silence. -/
  | ring
  /-- The island's other SRAM. -/
  | island
deriving DecidableEq, Repr

/-- The pattern of the word behind a byte of an instruction's space, its store and who answers for it: the commit buffer first, the
windows, then the context's own share. -/
def upsetOf (r : Run) (sp a : Nat) : Holder × Nat × BitVec 144 :=
  let x := (ctxOf r.s r.slot).stores
  if sp = 0 then (.ctx r.slot, 0, tget 0 x.upEs (esKey r.i a / 16))
  else if sp = 1 then (.ctx r.slot, 2, tget 0 x.upCs (csKey r.i a / 16))
  else if tget 0 r.i.stagedUp (pubKey sp a / 16) ≠ 0 then (.ctx r.slot, 3, tget 0 r.i.stagedUp (pubKey sp a / 16))
  else if sp = 3 then (.ctx r.slot, 4, tget 0 x.upDs (a / 16))
  else match windowAt r.s r.slot a with
    | some (.shared w, _) => (.ctx w, 3, tget 0 (ctxOf r.s w).stores.upXs (a / 16))
    | none | some (.relay _, _) => (.ctx r.slot, 3, tget 0 x.upXs (a / 16))
    | some (.cci _, _) | some (.outbox _, _) => (.ctx r.slot, 3, 0)
    | some (.glint, off) => (.ctx r.slot, 3, tget 0 r.s.glint.upWindow (off / 16))
    | some (.ring p, off) =>
      (.lineBuffer, 5, tget 0 (portOf r.s p).upRing (off % ((portCfg r.s p).ringLines * max 1 (linePitch r.s p)) / 16))
    | some (.island, off) =>
      if off < 688000 then (.ring, 6, tget 0 r.s.island.upRing (off / 16)) else (.island, 6, tget 0 r.s.mem.upIsland ((off - 688000) / 16))

/-- A word that no read delivers. -/
def wordLost (r : Run) (sp w : Nat) : Bool := decide (eccDecode (upsetOf r sp (16 * w)).2.2 = .uncorrectable)

/-- What a read makes of the word behind a byte; a bad word of the audio ring, and one of the island's own SRAM, stops no reader (R218). -/
def wordFails (r : Run) (sp w : Nat) : Bool :=
  wordLost r sp w && match (upsetOf r sp (16 * w)).1 with
    | .ctx _ | .lineBuffer => true
    | .ring | .island => false

/-- A word that a read corrects. -/
def wordCorrected (r : Run) (sp w : Nat) : Bool :=
  match eccDecode (upsetOf r sp (16 * w)).2.2 with
  | .corrected _ => true
  | _ => false

/-- A bad word that stops no reader is reported. -/
def reportWord (r : Run) (sp w : Nat) : Run := { r with s := partWord r.s (upsetOf r sp (16 * w)).2.1 w }

/-- A list without its immediate repeats. -/
def collapse : List Nat → List Nat
  | a :: b :: l => if a = b then collapse (b :: l) else a :: collapse (b :: l)
  | l => l

/-- A list whose entries rise, in which none occurs twice. -/
def rises : List Nat → Bool
  | a :: b :: l => decide (a < b) && rises (b :: l)
  | _ => true

/-- The 128-bit words of a list of bytes, each once, in the order in which they are first met. -/
def wordsMet (addrs : List Nat) : List Nat :=
  let words := collapse (addrs.map fun a => a / 16)
  if rises words then words else words.eraseDups

/-- What an instruction meets in the words it reads: none, a corrected word (counted), or an uncorrectable one (R217, R218). -/
def scanWords (r : Run) (sp : Nat) (addrs : List Nat) : Except (Run × Nat) (Run × Bool) :=
  let words := wordsMet addrs
  match words.find? (wordFails r sp) with
  | some w =>
    let u := upsetOf r sp (16 * w)
    .error (match u.1 with
      | .ctx c => { r with s := ctxWord r.s c u.2.1 w (if sp < 2 then r.i.engine / 4 else 0) (if c = r.slot then some r.i.engine else none) }
      | _ => { r with s := partWord r.s u.2.1 w }, stUncorrectable)
  | none =>
    let fixed := words.filter (wordCorrected r sp)
    let s := fixed.foldl (fun t w => countCorrected t (upsetOf r sp (16 * w)).2.1 1) r.s
    .ok ((words.filter (wordLost r sp)).foldl (fun q w => reportWord q sp w) { r with s := s }, !fixed.isEmpty)

end Sys2Proof.Machine
end

