-- ==== Sys2Proof/Machine/Operands.lean ====
section
/-! DEFINITION. Operand slots (R92), tensor descriptors and views (R86 to R88), scale banks (R89, R170, R171), moves'
figures (R125, R138, R139), and the elements of a view read and written. -/

namespace Sys2Proof.Machine

open Sys2Proof

/-! ### Slots (R92) -/

/-- Scalar register n. -/
def sreg (i : Inst) (n : Nat) : Word := tget 0 i.regs n

/-- Write scalar register n. -/
def setReg (i : Inst) (n : Nat) (v : Word) : Inst := { i with regs := tset 0 i.regs n v }

/-- The register a scalar slot names. -/
def slotReg (w : Word) : Nat := w.toNat % 16

/-- Value of an immediate or scalar slot. -/
def slotValue (i : Inst) (k : Kind) (w : Word) : Word :=
  match k with
  | .scalar => sreg i (slotReg w)
  | _ => w

/-- Space and byte offset of a store-offset slot. -/
def storeSpace (w : Word) : Nat := w.toNat / 2 ^ 30

def storeByte (w : Word) : Nat := 16 * (w.toNat % 2 ^ 30)

/-- The instruction executes: its predicate is off or holds (R93). -/
def predicateHolds (i : Inst) (w : Insn) : Bool :=
  !w.predOn || (if w.predZero then sreg i w.predReg.toNat = 0 else sreg i w.predReg.toNat ≠ 0)

/-! ### Descriptors (R86) -/

/-- A descriptor from its 64 bytes. -/
def parseDesc (l : List Byte) : Desc :=
  let q := field l 0 8
  let f := field l 0x36 2
  { base := q % 2 ^ 40, nibble := bit q 40, space := bits q 43 42, format := bits q 46 44, rank := bits q 50 48,
    ext := (span 0 5).map fun k => field l (8 + 4 * k) 4,
    stride := (span 0 5).map fun k => signed 32 (field l (0x1C + 4 * k) 4),
    zero := signed 32 (field l 0x30 4), bank := field l 0x34 2, chdim := f % 8, perChannel := bit f 3, scaled := bit f 4,
    reserved := bit q 41 || bit q 47 || bits q 63 51 ≠ 0 || bits f 15 5 ≠ 0 || field l 0x38 8 ≠ 0 }

/-- The 64 bytes of a descriptor. -/
def descBytes (d : Desc) : List Byte :=
  bytesLe (d.base % 2 ^ 40 + 2 ^ 40 * b2n d.nibble + 2 ^ 42 * d.space + 2 ^ 44 * d.format + 2 ^ 48 * d.rank) 8 ++
  d.ext.flatMap (fun e => bytesLe e 4) ++ d.stride.flatMap (fun t => bytesLe (lowBits 32 t) 4) ++
  bytesLe (lowBits 32 d.zero) 4 ++ bytesLe d.bank 2 ++ bytesLe (d.chdim + 8 * b2n d.perChannel + 16 * b2n d.scaled) 2 ++
  bytesLe 0 8

/-- Width of a format, bits (R167). -/
def fmtBits (f : Nat) : Nat := if f = 0 then 4 else if f = 1 then 8 else if f = 2 then 16 else 32

/-- Saturate to a format. -/
def satFmt (f : Nat) (x : Int) : Int := satTo (fmtBits f) x

/-- The use checks of R88 on a descriptor's fields; extents above the rank are 1 (R86). -/
def descValid (d : Desc) : Bool :=
  !d.reserved && d.format < 4 && 1 ≤ d.rank && d.rank ≤ 5 && d.bank < 1024 && d.chdim < d.rank &&
  ((d.ext.drop d.rank).all fun e => e = 1) &&
  (!d.nibble || d.format = 0) && (d.format < 2 || d.base % (fmtBits d.format / 8) = 0) && satFmt d.format d.zero = d.zero

/-- A view an instruction uses: a descriptor after its scalar offset, or a dense run at a store offset. -/
structure View where
  space : Nat
  /-- Bit offset of element (0, …, 0). -/
  bit0 : Int
  format : Nat
  rank : Nat
  ext : List Nat
  stride : List Int
  zero : Int
  bank : Nat
  chdim : Nat
  perChannel : Bool
  scaled : Bool
  /-- Descriptor index, and the scalar offset along the outermost dimension. -/
  index : Option Nat
  outer : Int
deriving Repr

/-- Number of elements. -/
def View.count (v : View) : Nat := v.ext.foldl (· * ·) 1

/-- Extent of dimension k. -/
def View.extent (v : View) (k : Nat) : Nat := v.ext.getD k 1

/-- Stride of dimension k. -/
def View.step (v : View) (k : Nat) : Int := v.stride.getD k 0

/-- Lowest and highest byte the view can touch; none when it is empty (R88). -/
def View.span (v : View) : Option (Int × Int) :=
  if v.count = 0 then none
  else
    let w : Int := fmtBits v.format
    let part (k : Nat) : Int := ((v.extent k : Int) - 1) * v.step k
    let lo := ((Machine.span 0 5).map fun k => min 0 (part k)).foldl (· + ·) 0
    let hi := ((Machine.span 0 5).map fun k => max 0 (part k)).foldl (· + ·) 0
    some ((v.bit0 + w * lo) / 8, (v.bit0 + w * hi + w - 1) / 8)

/-- Bytes of a descriptor in the context's table, the command's own staged writes first (R101). -/
def descAt (r : Run) (d : Nat) : Desc := parseDesc (ldBytes r 2 ((moduleOf r.s r.slot).descKib * 1024 + 64 * d) 64)

/-- View of descriptor d, its base advanced by s elements of the outermost stride (R92). -/
def viewOfDesc (d : Desc) (k : Nat) (s : Int) : View :=
  { space := d.space,
    bit0 := 8 * (d.base : Int) + 4 * b2n d.nibble + fmtBits d.format * (s * d.stride.getD (d.rank - 1) 0),
    format := d.format, rank := d.rank, ext := d.ext, stride := d.stride, zero := d.zero, bank := d.bank, chdim := d.chdim,
    perChannel := d.perChannel, scaled := d.scaled, index := some k, outer := s }

/-- The checks of R88 and R84 on a view: its span lies in its space and crosses no window's edge. -/
def checkView (r : Run) (write : Bool) (v : View) : Except Nat Unit :=
  match v.span with
  | none => .ok ()
  | some (lo, hi) => if lo < 0 then .error stLength else checkSpan r write v.space lo.toNat hi.toNat

/-- The view of a descriptor by index, checked. -/
def viewAt (r : Run) (write : Bool) (d : Nat) (s : Int) : Except Nat View :=
  let x := descAt r d
  if !descValid x then .error stFault
  else
    let v := viewOfDesc x d s
    match checkView r write v with
    | .error e => .error e
    | .ok _ => .ok v

/-- The view a descriptor slot names. -/
def slotView (r : Run) (write : Bool) (k : Kind) (w : Word) : Except Nat View :=
  if k ≠ .descriptor then .error stFault
  else viewAt r write (w.toNat % 1024) (if bit w.toNat 15 then (sreg r.i (bits w.toNat 14 11)).toInt else 0)

/-- A view that must lie in ES (R129). -/
def esView (r : Run) (write : Bool) (k : Kind) (w : Word) : Except Nat View := do
  let v ← slotView r write k w
  if v.space ≠ 0 then .error stFault else .ok v

/-- A dense view at a store offset, in another view's format and extents (R140). -/
def denseView (w : Word) (o : View) : View :=
  let e (k : Nat) : Int := o.extent k
  { space := storeSpace w, bit0 := 8 * (storeByte w : Int), format := o.format, rank := o.rank, ext := o.ext,
    stride := [1, e 0, e 0 * e 1, e 0 * e 1 * e 2, e 0 * e 1 * e 2 * e 3], zero := 0, bank := 0, chdim := 0,
    perChannel := false, scaled := false, index := none, outer := 0 }

/-- n bytes at a store offset as an int8 view. -/
def bytesView (w : Word) (n : Nat) : View :=
  { space := storeSpace w, bit0 := 8 * (storeByte w : Int), format := 1, rank := 1, ext := [n, 1, 1, 1, 1],
    stride := [1, 0, 0, 0, 0], zero := 0, bank := 0, chdim := 0, perChannel := false, scaled := false, index := none,
    outer := 0 }

/-! ### Elements -/

/-- All index tuples of extents, dimension 0 fastest (R441). -/
def tuples : List Nat → List (List Nat)
  | [] => [[]]
  | e :: r => (tuples r).flatMap fun t => (span 0 e).map fun k => k :: t

/-- Index tuples of a view in canonical order. -/
def View.tuples (v : View) : List (List Nat) := Machine.tuples v.ext

/-- Bit offset of an element (R87). -/
def View.bitAt (v : View) (t : List Nat) : Int :=
  v.bit0 + fmtBits v.format * ((List.zipWith (fun (k : Nat) (s : Int) => (k : Int) * s) t v.stride).foldl (· + ·) 0)

/-- Byte addresses of an element. -/
def View.bytesOf (v : View) (t : List Nat) : List Nat :=
  Machine.span ((v.bitAt t).toNat / 8) (max 1 (fmtBits v.format / 8))

/-- Byte addresses the view touches, in canonical order. -/
def View.addrs (v : View) : List Nat := v.tuples.flatMap v.bytesOf

/-- Read an element as a signed integer. -/
def ldElem (r : Run) (v : View) (t : List Nat) : Int :=
  let b := (v.bitAt t).toNat
  if v.format = 0 then
    let x := (ldByte r v.space (b / 8)).toNat
    signed 4 (if b % 8 = 4 then x / 16 else x % 16)
  else signed (fmtBits v.format) (ldLe r v.space (b / 8) (fmtBits v.format / 8))

/-- Write an element's low bits. An int4 write keeps the other nibble (R87). -/
def stElem (r : Run) (v : View) (t : List Nat) (x : Int) : Run :=
  let b := (v.bitAt t).toNat
  if v.format = 0 then
    let old := (ldByte r v.space (b / 8)).toNat
    let n := lowBits 4 x
    stByte r v.space (b / 8) (BitVec.ofNat 8 (if b % 8 = 4 then 16 * n + old % 16 else 16 * (old / 16) + n))
  else stBytes r v.space (b / 8) (bytesLe (lowBits (fmtBits v.format) x) (fmtBits v.format / 8))

/-- All elements of a view, canonical order. -/
def ldView (r : Run) (v : View) : List Int := v.tuples.map (ldElem r v)

/-! ### Batches' padding (R317) -/

/-- The sealed batch a view is bound in, by its XS byte offset. -/
def boundBatch (r : Run) (v : View) : Option Nat :=
  match v.index with
  | none => none
  | some d =>
    ((ctxOf r.s r.slot).batches.map fun b => 16 * b.1).find? fun o =>
      ldLe r 2 o 1 = 1 && (span 0 4).any fun k => ldLe r 2 (o + 0x18 + 2 * k) 2 = d

/-- An element lies in a padding slot of a sealed batch. -/
def padded (r : Run) (v : View) (t : List Nat) : Bool :=
  match boundBatch r v with
  | none => false
  | some o =>
    let k := v.outer + (t.getD (v.rank - 1) 0 : Int)
    !(0 ≤ k && k < 64 && bit (ldLe r 2 (o + 8) 8) k.toNat)

/-- Write elements of a view, leaving out those in padding slots of XS and DS. -/
def stElems (r : Run) (v : View) (xs : List (List Nat × Int)) : Run :=
  xs.foldl (fun q e => if 2 ≤ v.space && padded r v e.1 then q else stElem q v e.1 e.2) r

/-- Reading a view: the words' errors first (R217, R218), then the mark of R101. Answers whether a word was corrected. -/
def readView (r : Run) (v : View) : Except (Run × Nat) (Run × Bool) :=
  match scanWords r v.space v.addrs with
  | .error e => .error e
  | .ok (q, c) => .ok (noteReads q v.space v.addrs, c)

/-- Bytes of a list in words that the list covers in part (R512). -/
def partialAddrs (addrs : List Nat) : List Nat :=
  addrs.filter fun a => !((span (16 * (a / 16)) 16).all fun b => addrs.contains b)

/-- Words that a run of n bytes from a byte covers in part, by their first bytes. -/
def edgeWords (a n : Nat) : List Nat :=
  if n = 0 then [] else ([16 * (a / 16), 16 * ((a + n - 1) / 16)].eraseDups).filter fun w => w < a || a + n < w + 16

/-- Bytes that writing elements of a view touches in words it covers in part (R512); at int4 a byte is covered by both its nibbles. -/
def View.partialBytes (v : View) (ts : List (List Nat)) : List Nat :=
  if v.format = 0 then
    let at_ := ts.map fun t => (v.bitAt t).toNat
    let addrs := ts.flatMap v.bytesOf
    addrs.filter fun a => !((Machine.span (16 * (a / 16)) 16).all fun b => at_.contains (8 * b) && at_.contains (8 * b + 4))
  else partialAddrs (ts.flatMap v.bytesOf)

/-! ### Digests (R440, R441) -/

/-- Elements as canonical bytes: most significant byte first, two int4 to a byte, the earlier above. -/
def elemBytes (f : Nat) : List Int → List Byte
  | [] => []
  | [x] => if f = 0 then [BitVec.ofNat 8 (16 * lowBits 4 x)] else bytesBe (lowBits (fmtBits f) x) (fmtBits f / 8)
  | x :: y :: r =>
    if f = 0 then BitVec.ofNat 8 (16 * lowBits 4 x + lowBits 4 y) :: elemBytes f r
    else bytesBe (lowBits (fmtBits f) x) (fmtBits f / 8) ++ elemBytes f (y :: r)

/-- The digest of a view, padding slots left out. -/
def viewDigest (r : Run) (v : View) : BitVec 64 :=
  crc64 (elemBytes v.format ((v.tuples.filter fun t => !padded r v t).map (ldElem r v)))

/-! ### Scale banks (R89, R170, R171) -/

/-- A scale-bank entry. -/
structure Entry16 where
  bias : Int
  colsum : Int
  shift : Int
  isConst : Bool
  override : Bool
deriving Repr

def Entry16.zero : Entry16 := { bias := 0, colsum := 0, shift := 0, isConst := false, override := false }

/-- XS byte offset of channel c's entry from first bank b. -/
def scaleAt (s : State) (slot b c : Nat) : Nat := (moduleOf s slot).scaleKib * 1024 + 1024 * (b + c / 64) + 16 * (c % 64)

/-- An entry from XS. -/
def entryAt (r : Run) (b c : Nat) : Entry16 :=
  let a := scaleAt r.s r.slot b c
  { bias := signed 32 (ldLe r 2 a 4), colsum := signed 32 (ldLe r 2 (a + 4) 4), shift := signed 6 (ldLe r 2 (a + 8) 1 % 64),
    isConst := bit (ldLe r 2 (a + 9) 1) 0, override := bit (ldLe r 2 (a + 9) 1) 1 }

/-- A channel's number in its banks: 0 for every channel of a tensor with one scale. -/
def View.channel (v : View) (c : Nat) : Nat := if v.perChannel then c else 0

/-- The entry channel c of a view reads (R171). -/
def scaleOf (r : Run) (v : View) (c : Nat) : Entry16 := if v.scaled then entryAt r v.bank (v.channel c) else Entry16.zero

/-- Channels of R125: extent of the channel dimension, or 1. -/
def View.channels (v : View) : Nat := if v.perChannel then v.extent v.chdim else 1

/-- No channel reaches past bank 1,023. -/
def scaleFits (v : View) : Bool := !v.scaled || v.bank + (v.channels - 1) / 64 < 1024

/-- Write shift, flag and bias of an entry; a scale-bank write is staged (R101). -/
def putScale (r : Run) (v : View) (c : Nat) (e : Entry16) : Run :=
  let a := scaleAt r.s r.slot v.bank (v.channel c)
  stageAt (stageAt r 2 a (bytesLe (word32 e.bias) 4)) 2 (a + 8)
    [BitVec.ofNat 8 (ldLe r 2 (a + 8) 1 / 64 * 64 + lowBits 6 e.shift),
     BitVec.ofNat 8 (ldLe r 2 (a + 9) 1 / 4 * 4 + b2n e.isConst + 2 * b2n e.override)]

/-- Write a column sum. -/
def putColsum (r : Run) (v : View) (c : Nat) (x : Int) : Run :=
  stageAt r 2 (scaleAt r.s r.slot v.bank (v.channel c) + 4) (bytesLe (word32 x) 4)

/-- The channel of an element. -/
def View.chanOf (v : View) (t : List Nat) : Nat := t.getD v.chdim 0

/-! ### Moves' figures (R125, R138, R139) -/

/-- U of a view. -/
def View.words (v : View) : Nat :=
  if v.step 0 = 1 then
    v.extent 1 * v.extent 2 * v.extent 3 * v.extent 4 * (ceilDiv (ceilDiv (v.extent 0 * fmtBits v.format) 8) 16 + 1)
  else 2 * v.count

/-- Lead latency and rate of a space (R138). -/
def leadOf (sp : Nat) : Nat := if sp = 0 then 3 else if sp = 1 then 12 else if sp = 2 then 40 else 160

def rateOf (sp : Nat) : Nat := if sp = 0 then 128 else if sp = 1 then 64 else 32

/-- Time to pass one DS block across the other side, whose rate is given (R139). -/
def blockTime (a b rate : Nat) : Nat := if a = 3 && b = 3 then 16 else 2048 / rate

/-- Occupancy and count of a move of u words from space a to space b (R139); the audio ring has figures of its own (R331). -/
def moveTime (ring : Bool) (u a b : Nat) : Nat × Nat :=
  let y := 16 * u
  let lead := if ring then 64 else leadOf a
  let rate := if ring then 16 else rateOf a
  if a = 3 || b = 3 then
    if y = 0 then (0, 160)
    else
      let k := ceilDiv y 2048
      let t := blockTime a b (if a = 3 then rateOf b else rate)
      (max 48 t * k, 160 + max 48 t * (k - 1) + t)
  else if y = 0 then (0, lead)
  else
    let o := ceilDiv y (min rate (rateOf b))
    (o, lead + o)

/-- Charge per word of a move whose costliest space is given (R130), pJ. -/
def moveRate (sp : Nat) : Nat := if sp = 0 then 10 else if sp = 1 then 30 else if sp = 2 then 60 else 150

/-- w of R125. -/
def lanesOf (n : Nat) : Nat := ceilDiv n 64

end Sys2Proof.Machine
end

