-- ==== Sys2Proof/Machine/ModuleBytes.lean ====
section
/-! DEFINITION. A module read from its bytes (R112): the header, the section table, the directory (R98), the initial tables, the words
(R90) and the constant data. Widths the spec does not give are the model's (log 99). -/

namespace Sys2Proof.Machine

open Sys2Proof

/-- Bytes a .. a + n - 1. -/
def bytesAt (l : List Byte) (a n : Nat) : List Byte := (l.drop a).take n

/-- The k-th record of n bytes. -/
def recordAt (l : List Byte) (n k : Nat) : List Byte := bytesAt l (n * k) n

/-- The records of n bytes of a section. -/
def recordsOf (l : List Byte) (n : Nat) : List (List Byte) := (span 0 (l.length / n)).map (recordAt l n)

/-- Sections of a module, in the order of the section table (R112). -/
structure Sections where
  groups : List Byte
  descs : List Byte
  scales : List Byte
  directory : List Byte
  maxima : List Byte
  code : List Byte
  consts : List Byte

/-- Offset and length of section k: two 4-byte fields of an entry (log 99). -/
def sectionPlace (l : List Byte) (k : Nat) : Nat × Nat := (field l (field l 0x34 4 + 8 * k) 4, field l (field l 0x34 4 + 8 * k + 4) 4)

/-- The bytes of section k. -/
def sectionBytes (l : List Byte) (k : Nat) : List Byte := bytesAt l (sectionPlace l k).1 (sectionPlace l k).2

/-- The seven sections. -/
def moduleSections (l : List Byte) : Sections :=
  { groups := sectionBytes l 0, descs := sectionBytes l 1, scales := sectionBytes l 2, directory := sectionBytes l 3,
    maxima := sectionBytes l 4, code := sectionBytes l 5, consts := sectionBytes l 6 }

/-- Every byte that header and section table declare was delivered (code 0x0A). -/
def allDelivered (l : List Byte) : Bool :=
  64 ≤ l.length && field l 0x34 4 + 56 ≤ l.length &&
  (span 0 7).all fun k => (sectionPlace l k).1 + (sectionPlace l k).2 ≤ l.length

/-- The trigger of a directory entry (R98). -/
def parseTrigger (l : List Byte) : Trigger :=
  match bits (field l 0x0B 1) 2 1 with
  | 0 => .start
  | 1 => .preds
  | 2 => .inbox (field l 0x14 4)
  | _ => .line (field l 0x14 4)

/-- A directory entry from its 32 bytes (R98); its bounds are the timing sheet's (R115). -/
def parseCommand (l : List Byte) : Command :=
  { first := field l 0 4, count := field l 4 4, ve := field l 8 2, prio := bits (field l 0x0A 1) 3 0,
    floating := bit (field l 0x0B 1) 0, trigger := parseTrigger l, anyEnd := bit (field l 0x0B 1) 3,
    preds := ((span 0 4).map fun k => field l (0x0C + 2 * k) 2).filter fun p => p ≠ 0xFFFF,
    sems := (span 0 64).filter fun k => bit (field l 0x18 8) k, cycleBound := 0, energyBound := 0 }

/-- A reserved bit of a directory entry is set (R98). -/
def commandReserved (l : List Byte) : Bool := 16 ≤ field l 0x0A 1 || 16 ≤ field l 0x0B 1

/-- A word from its 16 bytes, the least significant first (R86: multi-byte fields are little-endian). -/
def wordBits (l : List Byte) : BitVec 128 := BitVec.ofNat 128 (leValue l)

/-- A word that does not decode: no opcode of R126. -/
def CodeWord.bad : CodeWord :=
  { opcode := 0, insn := { kindA := .immediate, kindB := .immediate, kindC := .immediate, mark := false, predOn := false, predZero := false,
                           predReg := 0, waits := 0, a := 0, b := 0, c := 0 } }

/-- Constant data: records of a 16-byte head (space, reserved byte, index, length, offset) with the bytes after it (log 99); true where
the section's form holds. -/
def parseConsts : Nat → List Byte → List ConstData × Bool
  | 0, l => ([], l.isEmpty)
  | n + 1, l =>
    if l.isEmpty then ([], true)
    else
      let len := field l 4 4
      let d : ConstData := { space := field l 0 1, index := field l 2 2, offset := field l 8 8, bytes := bytesAt l 16 len }
      let r := parseConsts n (l.drop (16 + len))
      (d :: r.1, r.2 && 16 + len ≤ l.length && field l 1 1 = 0 && d.space < 4)

/-- A declared maximum from its 12 bytes, laid out as a variable record of R115: key 8 * index + kind. -/
def parseMaximum (l : List Byte) : Nat × Nat := (8 * field l 0 4 + field l 4 1, field l 8 4)

/-- A maximum names a kind of R115 and keeps its reserved bytes 0. -/
def maximumOk (l : List Byte) : Bool := 1 ≤ field l 4 1 && field l 4 1 ≤ 4 && field l 5 3 = 0

/-- Section lengths that fit the header's counts. -/
def lengthsOk (l : List Byte) (x : Sections) : Bool :=
  x.groups.length = 2 * field l 8 2 && x.descs.length % 64 = 0 && x.descs.length ≤ 65536 && x.scales.length % 1024 = 0 &&
  x.scales.length ≤ 2 ^ 20 && x.directory.length = 32 * field l 0x0C 4 && x.maxima.length % 12 = 0 && x.code.length = 16 * field l 0x10 4

/-- A module from its bytes (R112). `reservedSet` gathers what code 0x02 is for beside ranges and forms (R113, R119): a reserved bit of
header, directory or word, or a section whose length its counts do not give. -/
def parseModule (l : List Byte) : Module :=
  let x := moduleSections l
  let words := (recordsOf x.code 16).map fun b => decodeWord (wordBits b)
  let consts := parseConsts (x.consts.length / 16 + 1) x.consts
  { magicOk := l.take 4 = ascii "DRUK", major := field l 4 2, minor := field l 6 2, complete := allDelivered l,
    reservedSet := field l 0x38 8 ≠ 0 || !lengthsOk l x || (recordsOf x.directory 32).any commandReserved || words.any (·.isNone) ||
      !consts.2 || !(recordsOf x.maxima 12).all maximumOk,
    groups := (recordsOf x.groups 2).map fun b => leValue b, groupCount := field l 0x0A 2, esKib := field l 0x18 4,
    csKib := field l 0x1C 4, xsKib := field l 0x20 4, dsMib := field l 0x24 4, commitKib := field l 0x28 4, descKib := field l 0x2C 2,
    scaleKib := field l 0x2E 2, ringKib := field l 0x30 2, ringRecords := field l 0x32 2, subFirst := field l 0x14 4,
    commands := (recordsOf x.directory 32).map parseCommand,
    maxima := (recordsOf x.maxima 12).map parseMaximum,
    code := words.map fun w => w.getD CodeWord.bad,
    descs := ((recordsOf x.descs 64).map parseDesc).zipIdx.map fun d => (d.2, d.1), scales := x.scales, consts := consts.1 }

end Sys2Proof.Machine
end

