-- ==== Sys2Proof/Machine/Inst.lean ====
section
/-! DEFINITION. The life of an instance: how it becomes ready, what each end does (R96, R99, R103 to R110, R369), completion
records, and the application of a commit buffer. -/

namespace Sys2Proof.Machine

open Sys2Proof

/-! ### Replay (R450) and time-dependent writes (R79) -/

/-- The 32-byte records of a replay log, as lists of 8 words. -/
def logRecords : List Word → List (List Word)
  | a :: b :: c :: d :: e :: f :: g :: h :: r => [a, b, c, d, e, f, g, h] :: logRecords r
  | _ => []

/-- Kind of a log record. -/
def logKind (r : List Word) : Nat := (r.getD 0 0).toNat % 256

/-- A 64-bit field of a log record, at a word. -/
def logField (r : List Word) (k : Nat) : BitVec 64 := (r.getD (k + 1) 0) ++ (r.getD k 0)

/-- A divergence (R450): the registers, the event, and the stopped state. -/
def diverge (s : State) (c kind : Nat) (expect found : BitVec 64) : State :=
  let t := { s with digest := { s.digest with divKind := kind, divSlot := c, divStep := (ctxOf s c).step,
                                              divExpect := expect, divFound := found } }
  let t := postEvent t stOk c 0x10002C []
  modCtx t c fun x => { x with state := .stopped }

/-- The next log record of a kind. A log with no record left ends replay mode and posts an event; a log that holds other
records and none of the kind diverges. -/
def replayTake (s : State) (c kind : Nat) (found : BitVec 64) : Option (List Word) × State :=
  let x := ctxOf s c
  if !x.replay.on then (none, s)
  else
    let l := logRecords x.replay.words
    match l.find? fun r => logKind r = kind with
    | some r => (some r, setCtx s c { x with replay := { x.replay with words := (l.erase r).flatten } })
    | none =>
      if l = [] then (none, postEvent (setCtx s c { x with replay := { on := false, words := [] } }) stOk c 0x100024 [])
      else (none, diverge s c kind 0 found)

/-- Compare a value with its log record, where the slot replays. -/
def replayCompare (s : State) (c kind : Nat) (found : BitVec 64) : State :=
  match replayTake s c kind found with
  | (some r, t) => if logField r 6 = found then t else diverge t c kind (logField r 6) found
  | (none, t) => t

/-- Eight time-dependent bytes for a context's memory (R79): traced as kind 17, taken from the log in replay. -/
def timedValue (s : State) (c at_ : Nat) (l : List Byte) : List Byte × State :=
  let v : BitVec 64 := BitVec.ofNat 64 (leValue l)
  let (r, t) := replayTake s c 17 v
  let v := match r with
    | some q => logField q 6
    | none => v
  (bytesLe v.toNat 8, trace t 17 c 0 at_ v)

/-- The replay log's next time-dependent write is of these bytes. -/
def replaysWrite (s : State) (c at_ : Nat) : Bool :=
  let x := ctxOf s c
  x.replay.on && ((logRecords x.replay.words).find? fun r => logKind r = 17).any fun r => (r.getD 1 0).toNat = at_ % 2 ^ 32

/-- The part writes 8 time-dependent bytes into a context's own XS; a write that changes none of them, and that the log does not hold,
leaves no record (R79). -/
def timedWrite (s : State) (c at_ : Nat) (l : List Byte) : State :=
  if rdBytes (ctxOf s c).stores.xs at_ 8 = l && !replaysWrite s c at_ then s
  else
    let (b, t) := timedValue s c at_ l
    xsPut t c at_ b

/-! ### Ready instances -/

/-- Earlier commits of a command (s3). -/
def commitsOf (s : State) (c k : Nat) : Nat := tget 0 (ctxOf s c).progress.commits k

/-- A command gains an instance. -/
def addReady (s : State) (r : Ready) : State := { s with ready := s.ready ++ [r] }

/-- An instance is ready again, before every later one of its command (R96, R352). -/
def requeue (s : State) (r : Ready) : State :=
  let other (q : Ready) : Bool := !(q.slot = r.slot && q.cmd = r.cmd)
  { s with ready := s.ready.takeWhile other ++ r :: s.ready.dropWhile other }

/-- A ready instance with nothing but its command and edge. -/
def readyOf (c k edge : Nat) : Ready :=
  { slot := c, cmd := k, readyEdge := edge, line := 0, s2 := 0, inbox := none, deferral := .no, tokenBeats := 0,
    heatBeats := 0, isStart := false, skip := none }

/-- The commands of a slot with a test on their trigger, by index. -/
def commandsWhere (s : State) (c : Nat) (p : Command → Bool) : List Nat :=
  ((moduleOf s c).commands.zipIdx.filter fun x => p x.1).map (·.2)

/-- The context-start instances of a slot (R99, R351). -/
def startReady (s : State) (c : Nat) : State :=
  (commandsWhere s c fun k => k.trigger = .start).foldl
    (fun t k => addReady t { readyOf c k (s.now + 1) with isStart := true }) s

/-- Key of an unconsumed end. -/
def endKey (dep pred : Nat) : Nat := 2 ^ 16 * dep + pred

/-- A dependent takes one end of each listed predecessor, when each has one (R99); it is ready, or ends as skipped (R107). -/
def matchEnds (s : State) (c d : Nat) : State :=
  let k := commandOf s c d
  let u := (ctxOf s c).progress.unconsumed
  let ps := k.preds.eraseDups
  let heads := ps.map fun p => (tget [] u (endKey d p)).head?
  if ps = [] || heads.any (·.isNone) then s
  else
    let ends := heads.filterMap id
    let u := ps.foldl (fun t p => tset [] t (endKey d p) ((tget [] t (endKey d p)).drop 1)) u
    let s := modCtx s c fun x => { x with progress := { x.progress with unconsumed := u } }
    let bad := if k.anyEnd then none else ends.find? fun e => e.kind ≠ 0
    addReady s { readyOf c d (s.now + 1) with s2 := BitVec.ofNat 32 ((ends.head?.map (·.record)).getD 0), skip := bad.map (·.status) }

/-- An end of command k is offered to its dependents, in command order. -/
def offerEnd (s : State) (c k : Nat) (e : EndRec) : State :=
  (commandsWhere s c fun d => d.trigger = .preds && d.preds.contains k).foldl (fun t d =>
    matchEnds (modCtx t c fun x =>
      { x with progress := { x.progress with unconsumed :=
          (tmod [] x.progress.unconsumed (endKey d k) (· ++ [e])) } }) c d) s

/-! ### Completion records (R105, R106) -/

/-- XS byte offset of the record that the next end of command k writes. -/
def recordPlace (s : State) (c k : Nat) : Nat :=
  let m := moduleOf s c
  let d := m.ringRecords / max 1 m.commands.length
  m.ringKib * 1024 + 32 * (k * d + tget 0 (ctxOf s c).progress.ends k % max 1 d)

/-- The 32 bytes of a record. -/
def endRecord (s : State) (c k status kind instr cycles tokens : Nat) : List Byte :=
  bytesLe k 4 ++ bytesLe status 1 ++ bytesLe kind 1 ++ bytesLe instr 2 ++ bytesLe (lixField s).toNat 8 ++
  bytesLe (ctxOf s c).step.toNat 8 ++ bytesLe (min cycles 0xFFFFFFFF) 4 ++ bytesLe tokens 4

/-- The index field of a record: bits 15 to 0 of an index, or a free value where no instruction returned the status (log 14). -/
def recordIndex (s : State) : Option Nat → Nat × State
  | some n => (n % 65536, s)
  | none => let (w, t) := freshWord s; (w.toNat % 65536, t)

/-- Write a record, its time-dependent bytes under R79; the end counts. Answers the record's word offset. -/
def writeRecordEnd (s : State) (c k status kind : Nat) (at_ : Option Nat) (cycles tokens : Nat) : Nat × State :=
  let (instr, s) := recordIndex s at_
  let a := recordPlace s c k
  let b := endRecord s c k status kind instr cycles tokens
  let t := modCtx (xsPut (xsPut s c a (b.take 8)) c (a + 16) ((b.drop 16).take 8)) c fun x =>
    { x with progress := { x.progress with ends := tmod 0 x.progress.ends k (· + 1) } }
  let t := timedWrite t c (a + 8) ((b.drop 8).take 8)
  (a / 16, timedWrite t c (a + 24) (b.drop 24))

/-- The trace record of an end (R448 kind 2), stamped with an edge. -/
def traceEnd (s : State) (edge c k kind status cycles : Nat) (late : Bool) : State :=
  traceOn s edge 2 c k (commitsOf s c k) (BitVec.ofNat 64 (kind + 2 ^ 8 * status + 2 ^ 16 * b2n s.lix.overspeed + 2 ^ 17 * b2n late +
    2 ^ 24 * min cycles 0xFFFFFFFF))

/-- End one instance that never ran, as skipped (R107). -/
def skipOne (s : State) (r : Ready) (st : Nat) : State :=
  let t := { s with ready := s.ready.erase r }
  let t := traceEnd t t.now r.slot r.cmd 3 st 0 false
  let (w, t) := writeRecordEnd t r.slot r.cmd st 3 none 0 0
  offerEnd t r.slot r.cmd { record := w, kind := 3, status := st }

/-- A skipped instance whose earlier instances of the same command have all ended. -/
def skippable (s : State) (r : Ready) : Bool :=
  r.skip.isSome && !(tget false (ctxOf s r.slot).progress.running r.cmd) &&
  (s.ready.find? fun q => q.slot = r.slot && q.cmd = r.cmd) = some r

/-- End every skipped instance that may end now, and what its end skips in turn. -/
def settleSkips : Nat → State → State
  | 0, s => s
  | n + 1, s =>
    match s.ready.find? (skippable s) with
    | none => s
    | some r => settleSkips n (skipOne s r (r.skip.getD 0))

/-- Enough rounds for every skip of the ready list and their dependents. -/
def skipFuel (s : State) (c : Nat) : Nat := (s.ready.length + 1) * ((moduleOf s c).commands.length + 1)

/-! ### Ends -/

/-- Index of an instruction within its command (R105). -/
def instrIndex (s : State) (i : Inst) (pc : Nat) : Nat := (pc - (commandOf s i.origin.slot i.origin.cmd).first) % 2 ^ 32

/-- Status and instruction of the completion record: the first failing status, else the last informational one, else OK, which the
COMMIT or the HALT returned (log 14). -/
def endStatus (s : State) (i : Inst) : Nat × Nat :=
  match i.failed with
  | some x => x
  | none => i.info.getD (stOk, instrIndex s i i.pc)

/-- No instruction returned the status of the record: an end that is neither a commit nor a halt, and left no status. Its index is
a free value (log 14). -/
def indexOpen (i : Inst) (kind : Nat) : Bool :=
  (2 ≤ kind && i.failed.isNone && i.info.isNone) || i.failed.any fun x => 2 ^ 32 ≤ x.2

/-- Provisional holds go back to free (R103). -/
def dropHolds (s : State) (i : Inst) : State := i.holds.foldl (fun t h => semFree t h.1 h.2) s

/-- Held link credits go back to free (R369). -/
def dropCredits (s : State) (i : Inst) : State :=
  i.credits.foldl (fun t h =>
    let x := creditOf t i.origin.slot h.1
    setCredit t i.origin.slot h.1 { x with held := x.held - h.2, free := x.free + h.2 }) s

/-- Unreleased sends are discarded at the peers: a kind 3 flit each (R394). -/
def discardSends (s : State) (i : Inst) : State :=
  { s with relay := { s.relay with sent := s.relay.sent ++ i.sends.map fun m =>
      { peer := m.peer, kind := 3, slot := i.origin.slot, window := m.window, message := m.message, offset := m.offset,
        bytes := [], credits := m.credits } } }

/-- The waiter of an instance leaves the chip semaphores' queues. -/
def dropWaiter (s : State) (c k : Nat) : State :=
  { s with ledgers := { s.ledgers with sems :=
      (tmap Sem.unused (fun x => { x with waiters := x.waiters.filter fun w => !(w.slot = c && w.cmd = k) }) s.ledgers.sems) } }

/-- An inbox entry is given back (R349). -/
def freeInbox (s : State) (c : Nat) (e : Option (Nat × Nat)) : State :=
  match e with
  | none => s
  | some (n, k) =>
    modCtx s c fun x => { x with progress := { x.progress with entries := tset false x.progress.entries (4096 * n + k) false } }

/-- What every end and every kill undoes of an instance that has not committed. -/
def undo (s : State) (i : Inst) : State :=
  let t := dropWaiter (discardSends (dropCredits (dropHolds s i) i) i) i.origin.slot i.origin.cmd
  modCtx t i.origin.slot fun x =>
    { x with batchFlight := x.batchFlight - i.fills.length,
             batchHeld := i.reopened.foldl (fun n b => n + b.2) x.batchHeld }

/-- Take an instance off its engine; the engine is free from an edge on. -/
def leaveEngine (s : State) (i : Inst) (free : Nat) : State :=
  let gone (j : Inst) : Bool := j.origin.slot = i.origin.slot && j.origin.cmd = i.origin.cmd
  let t := modEng s i.engine fun x =>
    { x with run := if x.run.any gone then none else x.run, frozen := x.frozen.filter fun j => !gone j,
             draining := if x.run.any gone then none else x.draining,
             freeAt := if x.run.any gone then free else x.freeAt }
  modCtx t i.origin.slot fun x =>
    { x with progress := { x.progress with running := tset false x.progress.running i.origin.cmd false } }

/-- The end of an instance, its effects applied or undone already (R104 to R107, R374): it leaves its engine, is charged,
its record is written and traced, its inbox entry is freed, and its dependents are offered the end. Answers the record. -/
def finish (s : State) (i : Inst) (kind : Nat) : Nat × State :=
  let (st, ins) := endStatus s i
  let c := i.origin.slot
  let t := leaveEngine s i s.now
  let t := settleTokens t c i.reserved (chargeOf i)
  let t := freeInbox t c i.origin.inbox
  let t := if i.origin.isStart then modCtx t c fun x => { x with startOnly := false } else t
  let t := modCtx t c fun x =>
    { x with satEvents := if i.satEvent then bump x.satEvents 1 else x.satEvents }
  let t := traceEnd t t.now c i.origin.cmd kind st i.cycles i.late
  let (w, t) := writeRecordEnd t c i.origin.cmd st kind (if indexOpen i kind then none else some ins) i.cycles (chargeOf i)
  (w, t)

/-- An end that is not a commit and not a kill: halted 1, failed 2 or torn down 4. -/
def endUncommitted (s : State) (i : Inst) (kind : Nat) : State :=
  let (w, t) := finish (undo s i) i kind
  let c := i.origin.slot
  if kind = 4 then t
  else
    let t := offerEnd t c i.origin.cmd { record := w, kind := kind, status := (endStatus s i).1 }
    settleSkips (skipFuel t c) t

/-- Kill applied on an edge (R359): nothing published, the instance ready again with its start values; its engine is free three
edges on. -/
def kill (s : State) (i : Inst) (edge : Nat) : State :=
  let c := i.origin.slot
  let t := leaveEngine (undo s i) i (edge + 3)
  let t := { t with relay := { t.relay with windows := i.received.foldr (fun m ws => tmod [] ws m.1 (m.2 :: ·)) t.relay.windows } }
  let t := settleTokens t c i.reserved (chargeOf i)
  let t := traceEnd t edge c i.origin.cmd 5 (endStatus s i).1 i.cycles i.late
  requeue t { i.origin with deferral := .no }

/-! ### COMMIT's application of staged effects (R100, R101, R108) -/

/-- Bytes of a CCI window that the part writes (R295). -/
def cciPartByte (off : Nat) : Bool := off = 0x09 || off = 0x0A || (0x0C ≤ off && off < 0x10)

/-- Apply one staged byte. Swap control, list control and the island control block act afterwards, on the whole. Reserved bytes of the
Glint window below 0xFE0 keep what is written; those at or above it take nothing (DESIGN CHOICE, log 108). -/
def applyByte (s : State) (c k : Nat) (b : Byte) : State :=
  if 2 ^ 40 ≤ k then
    modCtx s c fun x =>
      let (m, u) := wrStore x.stores.ds x.stores.upDs (k - 2 ^ 40) b
      { x with stores := { x.stores with ds := m, upDs := u } }
  else match windowAt s c k with
    | some (.glint, off) =>
      if off < 0xFE0 then
        let (m, u) := wrStore s.glint.window s.glint.upWindow off b
        { s with glint := { s.glint with window := m, upWindow := u } }
      else if off < 0xFE4 then
        let d := 8 * (off - 0xFE0)
        { s with glint := { s.glint with flags :=
            ((s.glint.flags &&& ~~~((0xFF : Word) <<< d)) ||| ((b.zeroExtend 32) <<< d)) } }
      else s
    | some (.cci n, off) => if cciPartByte off then s else
        let v := if off = 7 then (b &&& 0xBF) ||| (rd (cciOf s n).window 7 &&& 0x40) else b
        setCci s n { cciOf s n with window := wr (cciOf s n).window off v }
    | some (.ring _, _) | some (.island, _) | some (.outbox _, _) => s
    | some (.shared w, _) => modCtx s w fun x =>
        let (m, u) := wrStore x.stores.xs x.stores.upXs k b
        { x with stores := { x.stores with xs := m, upXs := u } }
    | _ => modCtx s c fun x =>
        let (m, u) := wrStore x.stores.xs x.stores.upXs k b
        { x with stores := { x.stores with xs := m, upXs := u } }

/-- The staged bytes that lie in a window, by their offset in it. -/
def stagedIn (s : State) (c : Nat) (w : Win) (m : Memory) : Memory :=
  m.filterMap fun e =>
    if 2 ^ 40 ≤ e.1 then none
    else match windowAt s c e.1 with
      | some (v, off) => if v = w then some (off, e.2) else none
      | none => none

/-- Bytes of a field as committed, with what the commit wrote over it. -/
def merged (old : Nat → Byte) (m : Memory) (off n : Nat) : List Byte :=
  (span off n).map fun a => match m.find? fun e => e.1 = a with
    | some e => e.2
    | none => old a

/-- A commit wrote a byte of a field. -/
def touched (m : Memory) (off n : Nat) : Bool := m.any fun e => off ≤ e.1 && e.1 < off + n

/-- The swap control (R72). -/
def applySwap (s : State) (m : Memory) : State :=
  if !(touched m 0xFF0 8) then s
  else
    let v := leValue (merged (glintByte s) m 0xFF0 8)
    if bit v 63 then
      let t : Line := BitVec.ofNat 48 v
      let late := targetReached s t 0
      { s with glint := { s.glint with armed := true, target := t, late := if late then bump s.glint.late 1 else s.glint.late } }
    else { s with glint := { s.glint with armed := false, target := BitVec.ofNat 48 v } }

/-- The arm bit of a CCI list (R296). -/
def applyList (s : State) (n : Nat) (m : Memory) : State :=
  if !(touched m 0 8) then s
  else
    let x := cciOf s n
    let v := rdLe x.window 0 8
    let t : Line := BitVec.ofNat 48 v
    if bit v 63 then
      let u := setCci s n { x with armed := true, target := t }
      if targetReached s t 0 then { u with media := { u.media with cciLate := bump u.media.cciLate 1 } } else u
    else setCci s n { x with armed := false, target := t }

/-- The owner's writes to the island control block, on their way through the bridge (R338). -/
def applyIsland (s : State) (m : Memory) : State :=
  let base := 688000
  let old (a : Nat) : Byte := rd s.island.shown (a - base)
  let req := if touched m base 1 then leValue (merged old m base 1) else 0
  let t := { s with island := { s.island with
    endBit := s.island.endBit || bit req 0, extendBit := s.island.extendBit || (bit req 1 && !(bit req 0)) } }
  (span 0 4).foldl (fun t e =>
    let a := base + 0x40 + 16 * e
    if touched m (a + 9) 1 && leValue (merged old m (a + 9) 1) = 1 &&
        [0, 3, 4].contains (tget Play.empty s.island.plays e).state then
      let p : Play := { offset := leValue (merged old m a 4), frames := leValue (merged old m (a + 4) 4),
                        mask := BitVec.ofNat 8 (leValue (merged old m (a + 8) 1)), state := 1, played := 0, arrived := 0 }
      { t with island := { t.island with bridge := tset Play.empty t.island.bridge e p } }
    else t) t

/-- Apply a commit buffer. -/
def applyStaged (s : State) (c : Nat) (m : Memory) : State :=
  let g := stagedIn s c .glint m
  let isl := stagedIn s c .island m
  let t := if g = [] then s else applySwap s g
  let t := m.foldl (fun t e => applyByte t c e.1 e.2) t
  let t := (span 0 8).foldl (fun t n => applyList t n (stagedIn s c (.cci n) m)) t
  if isl = [] then t else applyIsland t isl

/-- Holds become final and posts are published on one chip semaphore (R103, R135, R364, R369). -/
def commitSem (s : State) (c k hold post : Nat) : State :=
  let x := semOf s k
  let own := min hold post
  let t := modCtx s c fun y =>
    { y with held := tmod 0 y.held k fun h => (if x.isUnit then h else h + (hold - own)) - (post - own) }
  setSem t k { (if post = 0 then x else semPost x post s.now) with unitHeld := if x.isUnit then x.unitHeld + (hold - own) else x.unitHeld }

/-- The semaphores of a COMMIT. -/
def commitSems (s : State) (i : Inst) : State :=
  ((i.holds.map (·.1)) ++ (i.posts.map (·.1))).eraseDups.foldl
    (fun t k => commitSem t i.origin.slot k (tget 0 i.holds k) (tget 0 i.posts k)) s

/-- The releases of a COMMIT's sends (R108, R394). -/
def releaseSends (s : State) (i : Inst) : State :=
  { s with relay := { s.relay with sent := s.relay.sent ++ i.sends.map fun m =>
      { peer := m.peer, kind := 2, slot := i.origin.slot, window := m.window, message := m.message, offset := m.offset,
        bytes := [], credits := m.credits } } }

/-- What the COMMIT takes from the commit buffer: words it corrects count, those it cannot correct stay out and tear the context down
(R217, R218). -/
def readBuffer (s : State) (i : Inst) : State × Memory :=
  let words := (i.staged.map fun e => e.1 / 16).eraseDups
  let t := words.foldl (fun t w =>
    match eccDecode (tget 0 i.stagedUp w) with
    | .good => t
    | .corrected _ => countCorrected t 3 1
    | .uncorrectable => ctxWord t i.origin.slot 3 w 0 none) s
  (t, (i.staged.filter fun e => eccDecode (tget 0 i.stagedUp (e.1 / 16)) ≠ .uncorrectable).map fun e => (e.1, delivered i.stagedUp e.1 e.2))

/-- The message of an outbox: its bytes up to the last one written (log 107). -/
def outMessage (l : Memory) : List Byte := merged (fun _ => 0) l 0 ((l.map fun e => e.1 + 1).foldl max 0)

/-- Outbox postings leave after the edge, in the order the command issued them (R108, R348). -/
def releasePosts (s : State) (i : Inst) : State :=
  i.outs.foldl (fun t n =>
    match s.facet.outboxes[n]? with
    | none => t
    | some w => (arrive t w.target w.inbox 5 i.origin.slot (outMessage (stagedIn s i.origin.slot (.outbox n) i.staged))).2) s

/-- Bits set in a mask of n bits. -/
def ones (x n : Nat) : Nat := ((span 0 n).filter fun k => bit x k).length

/-- A stream of a context. -/
def streamOf (s : State) (c k : Nat) : Stream := tget Stream.idle (ctxOf s c).streams k

def setStream (s : State) (c k : Nat) (x : Stream) : State :=
  modCtx s c fun y => { y with streams := tset Stream.idle y.streams k x }

/-- A reopened batch frees the deferred entries bound into it (R316). -/
def reopenBatch (s : State) (c b : Nat) : State :=
  let mine := (ctxOf s c).fetched.filter fun e => e.1 / 64 = b
  let t := mine.foldl (fun t e =>
    let x := streamOf t c e.2.2.1
    setStream t c e.2.2.1 { x with bound := x.bound.filter fun n => n ≠ e.2.2.2 }) s
  modCtx t c fun y => { y with fetched := y.fetched.filter fun e => e.1 / 64 ≠ b }

/-- The media state of a COMMIT: reopened batches, slots to held, deferred samples queued, fetched samples bound,
reference states (R310, R313, R316, R318). -/
def commitMedia (s : State) (i : Inst) : State :=
  let c := i.origin.slot
  let t := i.reopened.foldl (fun t b => reopenBatch t c b.1) s
  let t := modCtx t c fun y => { y with batchFlight := y.batchFlight - i.fills.length,
                                        batchHeld := y.batchHeld + i.fills.length + i.deferred.length }
  let t := i.deferred.foldl (fun t d => setStream t c d.1 { streamOf t c d.1 with record := d.2.record, queue := (streamOf t c d.1).queue ++ [d.2] }) t
  let t := i.fetched.foldl (fun t f =>
    let x := streamOf t c f.2.2.1
    let t := setStream t c f.2.2.1 { x with queue := x.queue.filter (fun q => q.entry ≠ f.2.2.2), bound := x.bound ++ [f.2.2.2] }
    modCtx t c fun y => { y with fetched := tset (0, 0, 0) y.fetched f.1 f.2 }) t
  i.references.foldl (fun t r =>
    let x := streamOf t c r.1
    setStream t c r.1 { x with record := r.2.1, reference := r.2.2, samplesDue := x.samplesDue + 1 }) t

/-- The fields of a stream's record that the part writes, at a COMMIT of the context (R309): samples queued or decoded and not fetched
(0x0F), access units written (0x40), samples decoded (0x48). -/
def publishStream (s : State) (c : Nat) (e : Nat × Stream) : State :=
  let at_ := 16 * e.2.record
  let xs := (ctxOf s c).stores.xs
  let t := timedWrite s c (at_ + 8) (rdBytes xs (at_ + 8) 7 ++ bytesLe e.2.queue.length 1)
  let t := if e.2.unitsDue = 0 then t else xsPut t c (at_ + 0x40) (bytesLe (rdLe xs (at_ + 0x40) 4 + e.2.unitsDue) 4)
  let t := if e.2.samplesDue = 0 then t else timedWrite t c (at_ + 0x48) (bytesLe (rdLe xs (at_ + 0x48) 8 + e.2.samplesDue) 8)
  setStream t c e.1 { e.2 with unitsDue := 0, samplesDue := 0 }

/-- The stream records' counts after a COMMIT. -/
def commitStreams (s : State) (i : Inst) : State :=
  (ctxOf s i.origin.slot).streams.foldl (fun t e => publishStream t i.origin.slot e) s

/-- A 64-bit value as digest bytes, most significant first (R444). -/
def word64 (x : BitVec 64) : List Byte := bytesBe x.toNat 8

/-- Instance digest (R443). -/
def instanceDigest (i : Inst) : BitVec 64 :=
  if i.digests = [] then 0 else crc64 (i.digests.flatMap fun d => bytesBe d.1 4 ++ word64 d.2)

/-- Chain and step after a COMMIT (R444). -/
def foldChain (x : Ctx) (cmd : Nat) (d : BitVec 64) : Ctx :=
  { x with step := x.step + 1, chain := crc64 (word64 x.chain ++ word64 (x.step + 1) ++ bytesBe cmd 4 ++ word64 d) }

/-- The committed end of an instance: everything staged is applied on this edge, the step counter rises, the chain folds. -/
def endCommitted (s : State) (i : Inst) : State :=
  let c := i.origin.slot
  let k := i.origin.cmd
  let (t, m) := readBuffer (commitMedia s i) i
  let t := commitStreams (applyStaged t c m) i
  let t := releasePosts (releaseSends (commitSems t i) i) i
  let d := instanceDigest i
  let t := modCtx t c fun x => { foldChain x k d with satCount := bump x.satCount i.saturated }
  let t := trace t 3 c k (commitsOf t c k) d
  let t := replayCompare t c 3 d
  let (w, t) := finish t i 0
  let t := modCtx t c fun x => { x with progress := { x.progress with commits := tmod 0 x.progress.commits k (· + 1) } }
  let t := offerEnd t c k { record := w, kind := 0, status := (endStatus s i).1 }
  settleSkips (skipFuel t c) t

end Sys2Proof.Machine
end

