-- ==== Sys2Proof/Machine/Shares.lean ====
section
/-! DEFINITION. What a granted record gives a module: ES and CS steps (R196), the binding of groups and virtual engines (R81), and the
part of an ES space that CS backs (R118). -/

namespace Sys2Proof.Machine

open Sys2Proof

/-! ### Shares (R196, R197) -/

/-- Engine e is in the record's mask; its ES steps. -/
def esStepsOf (g : CtxRecord) (e : Nat) : Nat := if g.engines.getLsbD e then bits g.esSteps.toNat (2 * e + 1) (2 * e) + 1 else 0

/-- CS steps on core k. -/
def csStepsOf (g : CtxRecord) (k : Nat) : Nat := bits g.csSteps.toNat (8 * k + 7) (8 * k)

/-- Engines of a grant. -/
def enginesOf (g : CtxRecord) : List Nat := (span 0 64).filter fun e => g.engines.getLsbD e

/-! ### Binding (R81; log 17) -/

/-- Cores on which a grant is resident. -/
def residentCores (g : CtxRecord) : List Nat := (span 0 16).filter fun k => (enginesOf g).any fun e => e / 4 = k

/-- Core of group n. -/
def bindGroup (g : CtxRecord) (n : Nat) : Option Nat :=
  let l := residentCores g
  if l = [] then none else l[n % l.length]?

/-- Engine of virtual engine v: those of one group take the engines of its core in turn. -/
def bindEngine (m : Module) (g : CtxRecord) (v : Nat) : Option Nat := do
  let n ← m.groups[v]?
  let k ← bindGroup g n
  let l := (enginesOf g).filter fun e => e / 4 = k
  let place := ((m.groups.take v).filter fun x => x = n).length
  if l = [] then none else l[place % l.length]?

/-- ES KiB that the virtual engines of engine e need beyond its partition. -/
def esExcess (m : Module) (g : CtxRecord) (e : Nat) : Nat :=
  ((span 0 m.groups.length).filter fun v => bindEngine m g v = some e).length * m.esKib - 128 * esStepsOf g e

/-! ### ES backed by CS (R118) -/

/-- Bytes of ES that an instruction holds at once at most. -/
def stepBytes : Nat := 65536

/-- Cycles and picojoules that the moves between CS and ES add to an instruction of an occupancy whose ES operands take n bytes, where CS
backs them: a fill for the first step, then what each fill takes beyond the step it overlaps. -/
def backingCost (n occ : Nat) : Nat × Nat :=
  if n = 0 then (0, 0)
  else
    let k := ceilDiv n stepBytes
    let u := ceilDiv (ceilDiv n k) 16 + 1
    let f := (moveTime false u 1 0).2
    (f + (k - 1) * (f - ceilDiv occ k), k * u * moveRate 1)

/-- Bytes of ES among footprints. -/
def esBytes (l : List (Nat × Nat × Nat)) : Nat := (l.filter fun x => x.1 = 0).foldl (fun n x => n + (x.2.2 + 1 - x.2.1)) 0

/-- CS backs a part of the ES spaces of an engine (R118). -/
def backed (m : Module) (g : CtxRecord) (e : Nat) : Bool := 0 < esExcess m g e

end Sys2Proof.Machine
end

