-- ==== Sys2Proof/Machine/ModuleForm.lean ====
section
/-! DEFINITION. What the loader reads in a module's words: where control goes (R97, R132, R201), the kinds and fields each slot
accepts (R92 and the slot tables of chapter 05), and reserved values of the initial tables (R119). -/

namespace Sys2Proof.Machine

open Sys2Proof

/-! ### Control flow (R97, R201) -/

/-- Word i of a module. -/
def wordAt (m : Module) (i : Nat) : Option CodeWord := m.code[i]?

/-- A position the loader follows: an instruction and the calls open there. -/
abbrev Place := Nat × List Nat

/-- Where a LOOP goes: into its body, past it, or either where its trip count is not in the word (R132). -/
def loopPlaces (w : Insn) (p : Place) : List Place :=
  let inside : Place := (p.1 + 1, p.2)
  let past : Place := (p.1 + 1 + w.b.toNat, p.2)
  if w.kindA = .scalar then [inside, past] else if w.a = 0 then [past] else [inside]

/-- Where control can go after a place; both sides of every condition. -/
def placesAfter (m : Module) (p : Place) : List Place :=
  match wordAt m p.1 with
  | none => []
  | some x =>
    let w := x.insn
    let next : List Place := [(p.1 + 1, p.2)]
    let other := if w.predOn then next else []
    match x.opcode.toNat with
    | 0x08 => (((p.1 : Int) + w.a.toInt).toNat, p.2) :: other
    | 0x09 => (w.a.toNat, (p.1 + 1) :: p.2) :: other
    | 0x0A => (match p.2 with
      | [] => []
      | r :: l => [(r, l)]) ++ other
    | 0x0B => loopPlaces w p ++ other
    | 0x0C | 0x14 => other
    | _ => next

/-- Every place control can reach, stopping after a place `stop` holds for. -/
def reach (m : Module) (stop : Place → Bool) : Nat → List Place → List Place → List Place
  | 0, seen, _ => seen
  | _, seen, [] => seen
  | n + 1, seen, p :: l =>
    if seen.contains p || 8 < p.2.length then reach m stop n seen l
    else reach m stop n (p :: seen) (if stop p then l else placesAfter m p ++ l)

/-- Enough rounds: a place is a word and at most 8 return indexes (R97), and each place adds at most two others. -/
def reachFuel (m : Module) : Nat := 3 * (m.code.length + 1) ^ 9 + 1

/-- The places of a command. -/
def placesOf (m : Module) (k : Command) : List Place := reach m (fun _ => false) (reachFuel m) [] [(k.first, [])]

/-- An index lies in the command's own words. -/
def ownIndex (k : Command) (i : Nat) : Bool := k.first ≤ i && i < k.first + k.count

/-- An index lies in the subroutine area. -/
def subIndex (m : Module) (i : Nat) : Bool := m.subFirst ≤ i && i < m.code.length

/-- An index lies in the command, or in the subroutine area. -/
def insideCommand (m : Module) (k : Command) (i : Nat) : Bool := ownIndex k i || subIndex m i

/-- Control that runs on from index i to index j passes neither the last word of the command nor that of the subroutine area (R97). -/
def runsOn (m : Module) (k : Command) (i j : Nat) : Bool :=
  (ownIndex k i && ownIndex k j) || (subIndex m i && !ownIndex k i && subIndex m j)

/-- What a word does to the flow of a place (R97): a branch stays inside, a call enters the subroutine area at most 8 deep, a return
goes back to words its call can run on to, and every other word is run on from. -/
def placeOk (m : Module) (k : Command) (p : Place) (x : CodeWord) : Bool :=
  let on := runsOn m k p.1 (p.1 + 1)
  (!x.insn.predOn || on) &&
  match x.opcode.toNat with
  | 0x08 => 0 ≤ (p.1 : Int) + x.insn.a.toInt && insideCommand m k ((p.1 : Int) + x.insn.a.toInt).toNat
  | 0x09 => subIndex m x.insn.a.toNat && p.2.length < 8
  | 0x0A => p.2.head?.all fun r => runsOn m k (r - 1) r
  | 0x0B => (loopPlaces x.insn p).all fun q => runsOn m k p.1 q.1
  | 0x0C | 0x14 => true
  | _ => on

/-- Every place control reaches holds a word, and control never passes the command's end (R97, code 0x05). -/
def flowOk (m : Module) (k : Command) : Bool :=
  (placesOf m k).all fun p => insideCommand m k p.1 && (wordAt m p.1).any (placeOk m k p)

/-- A command applies a clip test (R185): it holds a QSTAT or an OPTSTEP. -/
def clipTests (m : Module) (k : Command) : Bool :=
  (placesOf m k).any fun p => (wordAt m p.1).any fun x => x.opcode = 0x52 || x.opcode = 0x79

/-! ### Regions: commands and the subroutine area -/

/-- First and end index of every command and of the subroutine area. -/
def regionsOf (m : Module) : List (Nat × Nat) :=
  m.commands.map (fun k => (k.first, k.first + k.count)) ++ (if m.subFirst < m.code.length then [(m.subFirst, m.code.length)] else [])

/-- An index lies in a region or in the subroutine area. -/
def inRegion (m : Module) (lo hi : Nat) (i : Int) : Bool := ((lo : Int) ≤ i && i < hi) || ((m.subFirst : Int) ≤ i && i < m.code.length)

/-- One word of a region, with the ends of the loops it lies in, innermost first: branch and call targets, loops nested at most 4
deep, an inner body ending within the outer one, every body within the region (R97, R132). -/
def wordFlowOk (m : Module) (lo hi i : Nat) (ends : List Nat) (x : CodeWord) : Bool :=
  match x.opcode.toNat with
  | 0x08 => inRegion m lo hi ((i : Int) + x.insn.a.toInt)
  | 0x09 => m.subFirst ≤ x.insn.a.toNat && x.insn.a.toNat < m.code.length
  | 0x0B =>
    let e := i + 1 + x.insn.b.toNat
    1 ≤ x.insn.b.toNat && x.insn.b.toNat ≤ 65535 && e ≤ hi && ends.length < 4 && (ends.head?.all fun o => e ≤ o)
  | _ => true

/-- The loops still open at an index, after a word. -/
def openLoops (i : Nat) (ends : List Nat) (x : CodeWord) : List Nat :=
  (if x.opcode = 0x0B then (i + 1 + x.insn.b.toNat) :: ends else ends).dropWhile fun e => e ≤ i + 1

/-- The words of a region from index i. -/
def regionWords (m : Module) (lo hi : Nat) : Nat → List Nat → List CodeWord → Bool
  | _, _, [] => true
  | i, ends, x :: l => wordFlowOk m lo hi i ends x && regionWords m lo hi (i + 1) (openLoops i ends x) l

/-- The form rules of control flow in a region. -/
def regionOk (m : Module) (lo hi : Nat) : Bool := hi ≤ m.code.length && regionWords m lo hi lo [] ((m.code.drop lo).take (hi - lo))

/-! ### Slots (R92, chapter 05) -/

/-- What a slot accepts: a descriptor, an immediate with bits of a mask, a store offset, a scalar register, or nothing (—). -/
inductive SlotForm where
  | desc | imm (mask : Nat) | store | reg | dash
deriving DecidableEq, Repr

/-- A slot has a form. -/
def formHolds (f : SlotForm) (k : Kind) (w : Word) : Bool :=
  match f with
  | .desc => k = .descriptor
  | .imm mask => k = .immediate && (w.toNat &&& mask) = w.toNat
  | .store => k = .store
  | .reg => k = .scalar
  | .dash => k = .immediate && w = 0

/-- Any immediate. -/
def anyImm : SlotForm := .imm 0xFFFFFFFF

/-- Forms slots A, B and C accept, by opcode. -/
def slotForms (op : Nat) : List SlotForm × List SlotForm × List SlotForm :=
  let ir := [anyImm, SlotForm.reg]
  let none := [SlotForm.dash]
  match op with
  | 0x01 => (ir, ir, [.imm 1])
  | 0x02 => (ir, [.imm 0x7FFF, .reg], none)
  | 0x03 => (ir, none, none)
  | 0x08 | 0x09 => ([anyImm], none, none)
  | 0x0A | 0x0C | 0x13 | 0x14 => (none, none, none)
  | 0x0B => (ir, [anyImm], [.reg, .dash])
  | 0x10 => ([.imm 63], ir, [.reg, .dash])
  | 0x11 => ([.imm 63], ir, none)
  | 0x12 => ([anyImm], ir, none)
  | 0x20 => ([.desc, .store, .reg], [.desc, .store], [anyImm])
  | 0x21 | 0x22 => ([.desc, .store], [.desc, .store], [anyImm])
  | 0x23 => ([.desc], [.desc], [.desc])
  | 0x24 => ([.desc], [.desc], [anyImm])
  | 0x30 => ([.desc], [.desc], [.imm 1])
  | 0x31 | 0x32 | 0x33 => ([.desc], [.desc], [.store])
  | 0x40 | 0x41 | 0x42 | 0x43 => ([.desc, .reg], [.desc, anyImm, .reg], [.desc, anyImm, .reg])
  | 0x44 | 0x45 | 0x46 | 0x47 => ([.desc], [.desc], none)
  | 0x48 => ([.desc], [.desc], [anyImm])
  | 0x49 | 0x4A => ([.desc], [.desc], [.store])
  | 0x50 => ([.desc], [.desc], [.store, .dash])
  | 0x51 => ([.desc], [.desc, .dash], [.imm 3])
  | 0x52 => ([.desc], [.desc], [.store])
  | 0x58 => ([.store], [.desc], [.desc])
  | 0x59 => ([.desc], [.desc], [.store])
  | 0x5A => ([.store], ir, none)
  | 0x5B | 0x6A => ([.store], none, none)
  | 0x60 => ([.desc], [.desc, anyImm], [.reg])
  | 0x61 => ([.desc], [.desc], [.reg])
  | 0x62 => ([.desc], ir, [.store])
  | 0x63 => ([.store], [.desc], [.store])
  | 0x64 => ([.store], [.desc], [.reg])
  | 0x68 => ([.store], [.desc], [.imm 63])
  | 0x69 => ([.store], ir, [.imm 63])
  | 0x70 => ([.imm 0xFFF], [.desc], [anyImm])
  | 0x71 => ([.desc], [.imm 0xFFF], none)
  | 0x72 => ([.desc], [.desc], [.imm 0x1FF])
  | 0x78 => ([.desc], [.desc], none)
  | 0x79 => ([.desc], [.desc], [.store])
  | _ => ([], [], [])

/-- Forms that hold over several slots: a move's slot C beside no store offset is — (R139), a scalar load reads a store offset
(R140), the scalar form of the vector class names no descriptor (R148). -/
def slotsTogether (x : CodeWord) : Bool :=
  let w := x.insn
  match x.opcode.toNat with
  | 0x20 | 0x21 | 0x22 =>
    (w.kindA = .store || w.kindB = .store || w.c = 0) && (w.kindA ≠ .scalar || w.kindB = .store)
  | 0x40 | 0x41 | 0x42 | 0x43 => w.kindA ≠ .scalar || (w.kindB ≠ .descriptor && w.kindC ≠ .descriptor)
  | _ => true

/-- Every slot has a form its instruction accepts. -/
def formOk (x : CodeWord) : Bool :=
  let (a, b, c) := slotForms x.opcode.toNat
  a.any (fun f => formHolds f x.insn.kindA x.insn.a) && b.any (fun f => formHolds f x.insn.kindB x.insn.b) &&
  c.any (fun f => formHolds f x.insn.kindC x.insn.c) && slotsTogether x

/-- Every word has an assigned opcode, keeps its form and names accepted kinds (code 0x02). -/
def codeFormed (m : Module) : Bool := m.code.all fun x => (instrOfWord 0 x).any Instr.wellFormed && formOk x

/-- A scale-bank entry with its reserved bits 0 (R89). -/
def scaleFormed : List Byte → Bool
  | _ :: _ :: _ :: _ :: _ :: _ :: _ :: _ :: a :: b :: c :: d :: e :: f :: g :: h :: r =>
    a.toNat < 64 && b.toNat < 4 && [c, d, e, f, g, h].all (fun x => x = 0) && scaleFormed r
  | _ => true

/-- No reserved bit and no reserved encoding in the initial descriptors and scale banks (R86, R89, R119). -/
def tablesFormed (m : Module) : Bool :=
  (m.descs.all fun d => d.1 < 1024 && !d.2.reserved && d.2.format < 4 && 1 ≤ d.2.rank && d.2.rank ≤ 5) && scaleFormed m.scales

end Sys2Proof.Machine
end

