-- ==== Sys2Proof/Machine/ModuleSets.lean ====
section
/-! DEFINITION. The bytes that commands touch as far as the loader sees them (R82, R84, R88, R101, R102, R113, R129): operands of
store offsets and of initial descriptors that no instruction writes and no scalar offset moves. -/

namespace Sys2Proof.Machine

open Sys2Proof

/-- Declared size of a space of a module, bytes. -/
def moduleSpace (m : Module) (sp : Nat) : Nat :=
  if sp = 0 then m.esKib * 1024 else if sp = 1 then m.csKib * 1024 else if sp = 2 then m.xsKib * 1024 else m.dsMib * 2 ^ 20

/-! ### Static operands -/

/-- Initial descriptor d. -/
def initialDesc (m : Module) (d : Nat) : Option Desc := (m.descs.find? fun e => e.1 = d).map (·.2)

/-- A view can touch bytes lo to hi of a space. -/
def viewMeets (v : View) (sp lo hi : Nat) : Bool := v.space = sp && v.span.any fun p => decide (p.1 ≤ (hi : Int)) && decide ((lo : Int) ≤ p.2)

/-- An instruction whose slot A can name bytes of XS that it writes. -/
def writesXs (x : CodeWord) : Bool := [0x21, 0x22, 0x60, 0x61, 0x62, 0x71, 0x72].contains x.opcode.toNat

/-- An instruction may write the table's entry of descriptor d: its destination meets the entry, or the loader cannot tell. -/
def mayWriteDesc (m : Module) (d : Nat) (x : CodeWord) : Bool :=
  let lo := m.descKib * 1024 + 64 * d
  writesXs x &&
  match x.insn.kindA with
  | .store => viewMeets (bytesView x.insn.a (max 1 x.insn.c.toNat)) 2 lo (lo + 63)
  | .descriptor =>
    (match initialDesc m (x.insn.a.toNat % 1024) with
    | some y => bit x.insn.a.toNat 15 && y.space = 2 || viewMeets (viewOfDesc y 0 0) 2 lo (lo + 63)
    | none => true)
  | _ => false

/-- A static descriptor: initial, and written by no instruction of the module. -/
def staticDesc (m : Module) (d : Nat) : Option Desc := if m.code.any (mayWriteDesc m d) then none else initialDesc m d

/-- The view of a descriptor slot the loader knows. -/
def staticSlot (m : Module) (k : Kind) (w : Word) : Option View :=
  if k ≠ .descriptor || bit w.toNat 15 then none
  else match staticDesc m (w.toNat % 1024) with
    | some d => if descValid d then some (viewOfDesc d (w.toNat % 1024) 0) else none
    | none => none

/-- The descriptor view of a slot as the sets of R102 take it: the initial one, whatever moves it or may write it. -/
def setSlot (m : Module) (k : Kind) (w : Word) : Option View :=
  if k ≠ .descriptor then none
  else ((initialDesc m (w.toNat % 1024)).filter descValid).map fun d => viewOfDesc d (w.toNat % 1024) 0

/-- Views of a move, destination and source, with what gives the view of a descriptor slot. -/
def moveSlots (slot : Kind → Word → Option View) (w : Insn) : List (Bool × View) :=
  match w.kindA, w.kindB with
  | .scalar, _ => [(false, bytesView w.b 4)]
  | .store, .store => [(true, bytesView w.a w.c.toNat), (false, bytesView w.b w.c.toNat)]
  | .store, _ => (match slot w.kindB w.b with
    | some v => [(true, denseView w.a v), (false, v)]
    | none => [])
  | _, .store => (match slot w.kindA w.a with
    | some v => [(true, v), (false, denseView w.b v)]
    | none => [])
  | _, _ => (slot w.kindA w.a).toList.map (fun v => (true, v)) ++ (slot w.kindB w.b).toList.map fun v => (false, v)

/-- Slots an instruction reads and writes by view, and bytes behind slot C: (A, B, C), each true for a write; and the bytes. -/
def slotRoles (op : Nat) : List (Nat × Bool) × Nat :=
  match op with
  | 0x23 => ([(0, true), (1, false), (2, false)], 0)
  | 0x24 | 0x44 | 0x45 | 0x46 | 0x47 | 0x48 | 0x51 | 0x59 | 0x60 | 0x61 | 0x72 | 0x78 => ([(0, true), (1, false)], 0)
  | 0x30 => ([(0, false), (1, false)], 0)
  | 0x31 | 0x32 | 0x79 => ([(0, false), (1, false)], 32)
  | 0x33 => ([(0, true), (1, false)], 32)
  | 0x40 | 0x41 | 0x42 | 0x43 => ([(0, true), (1, false), (2, false)], 0)
  | 0x49 | 0x4A => ([(0, true), (1, false)], 16)
  | 0x50 | 0x52 | 0x63 | 0x64 | 0x68 | 0x70 => ([(1, false)], 0)
  | 0x58 => ([(1, false), (2, false)], 0)
  | 0x62 | 0x71 => ([(0, true)], 0)
  | _ => ([], 0)

/-- Slot n of a word. -/
def slotAt (w : Insn) (n : Nat) : Kind × Word := if n = 0 then (w.kindA, w.a) else if n = 1 then (w.kindB, w.b) else (w.kindC, w.c)

/-- The views of an instruction's slots and of the block behind slot C, true for a write. -/
def slotViews (slot : Kind → Word → Option View) (x : CodeWord) : List (Bool × View) :=
  let op := x.opcode.toNat
  if op = 0x20 || op = 0x21 || op = 0x22 then moveSlots slot x.insn
  else
    let (l, n) := slotRoles op
    (l.flatMap fun p => (slot (slotAt x.insn p.1).1 (slotAt x.insn p.1).2).toList.map fun v => (p.2, v)) ++
    (if n ≠ 0 && x.insn.kindC = .store then [(false, bytesView x.insn.c n)] else [])

/-- The views the loader knows an instruction touches, true for a write. -/
def staticViews (m : Module) (x : CodeWord) : List (Bool × View) := slotViews (staticSlot m) x

/-! ### Constant data the loader reads -/

/-- Byte a of a space of virtual engine or group n, where the module's constants give it. -/
def constByte (m : Module) (sp n a : Nat) : Option Byte :=
  (m.consts.find? fun d => d.space = sp && (2 ≤ sp || d.index = n) && d.offset ≤ a && a < d.offset + d.bytes.length).bind
    fun d => d.bytes[a - d.offset]?

/-- A little-endian field of constant data. -/
def constField (m : Module) (sp n a len : Nat) : Option Nat :=
  ((span a len).mapM (constByte m sp n)).map leValue


/-- A destination by descriptor that the loader does not know. -/
def writesUnknown (m : Module) (x : CodeWord) : Bool :=
  ((slotRoles x.opcode.toNat).1.contains (0, true) || x.opcode = 0x20 || x.opcode = 0x21 || x.opcode = 0x22) &&
  x.insn.kindA = .descriptor && (staticSlot m x.insn.kindA x.insn.a).isNone

/-! ### Banks carried in (R201) -/

/-- No instruction of the module can write bytes lo to hi of a space, as far as the loader sees. -/
def neverWritten (m : Module) (sp lo hi : Nat) : Bool :=
  m.code.all fun x => !(writesUnknown m x) && (staticViews m x).all fun e => !e.1 || !(viewMeets e.2 sp lo hi)

/-- The clear bit of a matrix instruction, where the loader can tell: that of MMA stands in its word, that of CONV and DWCONV in a
geometry block, which constant data that nothing writes fixes (R145, R201). -/
def clearBit (m : Module) (k : Command) (x : CodeWord) : Option Bool :=
  let at_ := storeByte x.insn.c
  let sp := storeSpace x.insn.c
  let n := if sp = 0 then k.ve else m.groups.getD k.ve 0
  if x.opcode = 0x30 then some (bit x.insn.c.toNat 0)
  else if neverWritten m sp at_ (at_ + 31) then (constField m sp n (at_ + 0x16) 1).map fun f => bit f 1
  else none

def isMatrix (x : CodeWord) : Bool := x.opcode = 0x30 || x.opcode = 0x31 || x.opcode = 0x32

/-- A matrix instruction that surely clears the bank. -/
def clearsBank (m : Module) (k : Command) (x : CodeWord) : Bool := isMatrix x && decide (clearBit m k x = some true) && !x.insn.predOn

/-- Uses bank contents that came before it; a clear bit the loader cannot tell counts as clear of none (log 17). -/
def usesBank (m : Module) (k : Command) (x : CodeWord) : Bool :=
  (isMatrix x && decide (clearBit m k x ≠ some true)) || (x.opcode = 0x51 && decide (x.insn.kindB ≠ .descriptor))

/-- The command carries in its bank (R201). -/
def carriesIn (m : Module) (k : Command) : Bool :=
  (reach m (fun p => (wordAt m p.1).any (clearsBank m k)) (reachFuel m) [] [(k.first, [])]).any fun p =>
    (wordAt m p.1).any (usesBank m k)

/-! ### Variables (R114, R115; code 0x05) -/

/-- A descriptor slot of a word names a descriptor some instruction can write. -/
def namesWritten (m : Module) (x : CodeWord) : Bool :=
  [0, 1, 2].any fun n =>
    let (k, w) := slotAt x.insn n
    decide (k = .descriptor) && m.code.any (mayWriteDesc m (w.toNat % 1024))

/-- A block or record behind a store-offset slot that some instruction can write. -/
def blockWritten (m : Module) (w : Word) (n : Nat) : Bool := !neverWritten m (storeSpace w) (storeByte w) (storeByte w + n - 1)

/-- A quantity of the word's count formula comes at issue from data that some command can write, or from a scalar register: a view, a
geometry block, a sequence record (which the key-value instructions write themselves), a register (R114, kind 4). -/
def runTimeSize (m : Module) (x : CodeWord) : Bool :=
  let op := x.opcode.toNat
  (namesWritten m x && !([0x60, 0x61, 0x64, 0x68].contains op)) ||
  ((op = 0x32 || op = 0x33) && blockWritten m x.insn.c 32) || (op = 0x49 && blockWritten m x.insn.c 16) ||
  [0x59, 0x5A, 0x5B].contains op || (op = 0x69 && decide (x.insn.kindB = .scalar))

/-- Kinds of the variables of an instruction, each of which needs a declared maximum (R97, R114): a scalar trip count; the outcomes of
a predicated instruction, the page takes of KVAPPEND (R154); a unit length; a size taken at issue. -/
def needsMaximum (m : Module) (x : CodeWord) : List Nat :=
  (if x.opcode = 0x0B && decide (x.insn.kindA = .scalar) then [1] else []) ++ (if x.insn.predOn || x.opcode = 0x58 then [2] else []) ++
  (if (x.opcode = 0x60 && decide (x.insn.kindB = .descriptor)) || x.opcode = 0x61 || x.opcode = 0x64 || x.opcode = 0x68 then [3] else []) ++
  (if runTimeSize m x then [4] else [])

/-- The declared maximum of a variable. -/
def maximumAt (m : Module) (i kind : Nat) : Option Nat := (m.maxima.find? fun e => e.1 = 8 * i + kind).map (·.2)

/-- Every variable a command's path can meet has a declared maximum. -/
def variablesBounded (m : Module) (k : Command) : Bool :=
  (placesOf m k).all fun p => (wordAt m p.1).all fun x => (needsMaximum m x).all fun kind => (maximumAt m p.1 kind).isSome

/-! ### Spaces and places (code 0x08) -/

/-- Spaces an instruction accepts for a slot (chapter 05, R129). -/
def slotSpaces (op n : Nat) : List Nat :=
  match op, n with
  | 0x20, 0 | 0x21, 1 | 0x23, 0 | 0x23, 2 | 0x24, 0 | 0x30, 0 | 0x30, 1 | 0x31, 0 | 0x31, 1 | 0x32, 0 | 0x32, 1 | 0x33, 0 | 0x33, 1 => [0]
  | 0x21, 0 => [1, 2, 3]
  | 0x50, 2 | 0x52, 2 | 0x58, 0 | 0x59, 2 | 0x5A, 0 | 0x5B, 0 | 0x62, 0 | 0x63, 1 | 0x64, 1 | 0x68, 0 | 0x69, 0 | 0x6A, 0 => [2]
  | 0x50, _ | 0x51, _ | 0x52, _ | 0x58, _ | 0x59, _ | 0x78, _ => [0]
  | 0x60, _ | 0x61, _ => [0, 2]
  | 0x68, 1 => [2, 3]
  | 0x70, 1 => [0, 1, 2]
  | 0x79, 0 | 0x79, 1 => [0]
  | op, n => if 0x40 ≤ op && op ≤ 0x4A && (n < 2 || op ≤ 0x43) then [0] else [0, 1, 2, 3]

/-- A slot's operand, where the loader knows it, names an accepted space and lies in it; a direct offset starts in its space. -/
def slotPlaced (m : Module) (x : CodeWord) (n : Nat) : Bool :=
  let (k, w) := slotAt x.insn n
  match k with
  | .descriptor => (staticDesc m (w.toNat % 1024)).all fun d => (slotSpaces x.opcode.toNat n).contains d.space
  | .store => (slotSpaces x.opcode.toNat n).contains (storeSpace w) && storeByte w < moduleSpace m (storeSpace w)
  | _ => true

/-- A view lies in its space. -/
def viewPlaced (m : Module) (v : View) : Bool := v.span.all fun p => decide (0 ≤ p.1) && decide (p.2 < (moduleSpace m v.space : Int))

/-- Every descriptor slot's view, and every known operand, lies in its space. -/
def wordPlaced (m : Module) (x : CodeWord) : Bool :=
  ([0, 1, 2].all fun n => slotPlaced m x n && (staticSlot m (slotAt x.insn n).1 (slotAt x.insn n).2).all (viewPlaced m)) &&
  (staticViews m x).all fun e => viewPlaced m e.2

/-- Initial tables, ring and constants lie in their spaces, and so does every operand the loader knows (code 0x08). -/
def staticOk (m : Module) : Bool :=
  (m.descs.all fun d => m.descKib * 1024 + 64 * (d.1 + 1) ≤ moduleSpace m 2) &&
  (m.scales = [] || m.scaleKib * 1024 + m.scales.length ≤ moduleSpace m 2) &&
  m.ringKib * 1024 + 32 * m.ringRecords ≤ moduleSpace m 2 &&
  (m.consts.all fun d => d.offset + d.bytes.length ≤ moduleSpace m d.space &&
    (d.space ≠ 0 || d.index < m.groups.length) && (d.space ≠ 1 || d.index < m.groupCount)) &&
  m.code.all (wordPlaced m)

/-! ### Sets of commands (R82, R102; code 0x06) -/

/-- What a command touches: true for a write, whose ES or CS it is, and the view. -/
abbrev Touch := Bool × Nat × View

/-- Instructions a command reaches. -/
def commandWords (m : Module) (k : Command) : List CodeWord := ((placesOf m k).map (·.1)).eraseDups.filterMap (wordAt m)

/-- Owner of a space's bytes for a command: its virtual engine, its group, or the context. -/
def touchOwner (m : Module) (k : Command) (sp : Nat) : Nat := if sp = 0 then k.ve else if sp = 1 then m.groups.getD k.ve 0 else 0

/-- The scale entries a slot's descriptor names, as bytes of XS. -/
def scaleSpan (m : Module) (v : View) : Option View :=
  if v.scaled && scaleFits v then
    some { bytesView 0 (16 * v.channels) with space := 2, bit0 := 8 * ((m.scaleKib * 1024 + 1024 * v.bank : Nat) : Int) }
  else none

/-- Scale entries an instruction reads, and those it writes, by its slots: the weights of an int16 product and the sums of its
correction, QCAL, QCVT, QSTAT, GRADQ and OPTSTEP (R89, R171, R177). -/
def scaleViews (m : Module) (x : CodeWord) : List (Bool × View) :=
  let op := x.opcode.toNat
  let at_ (n : Nat) : Option View := (setSlot m (slotAt x.insn n).1 (slotAt x.insn n).2).bind (scaleSpan m)
  let write := op = 0x50 || op = 0x78 || op = 0x79
  if [0x30, 0x31, 0x32, 0x50, 0x51, 0x52, 0x78, 0x79].contains op then
    (at_ 0).toList.flatMap (fun v => (false, v) :: (if write then [(true, v)] else [])) ++ (at_ 1).toList.map fun v => (false, v)
  else []

/-- Bytes of XS from a to b as a view. -/
def xsSpan (a n : Nat) : View := { bytesView 0 n with space := 2, bit0 := 8 * (a : Int) }

/-- n bytes of DS from a as a view. -/
def dsSpan (a n : Nat) : View := { xsSpan a n with space := 3 }

/-- A field of XS as constant data give it. -/
def xsField (m : Module) (a n : Nat) : Option Nat := constField m 2 0 a n

/-- The whole of the tables that the text record, the view of descriptor 1,023, names (R264, R265, R267, R269): the image with its string
area, the control map, and the split-class table up to the highest block its index names. -/
def textTables (m : Module) : List View :=
  match (initialDesc m 1023).map (viewOfDesc · 1023 0) with
  | some v =>
    let a := (v.bit0 / 8).toNat
    let f (o n : Nat) : Option Nat := xsField m (a + o) n
    [xsSpan a 64] ++
    (match f 0 4, f 4 4, f 8 8, f 0x10 4 with
      | some n, some k, some image, some control =>
        [dsSpan image (0x440 + 8 * n + 16 * k + (constField m 3 0 (image + 12) 4).getD 0), xsSpan (16 * control) (ceilDiv n 8)]
      | _, _, _, _ => []) ++
    (match f 0x14 4 with
      | some t =>
        let blocks := (span 0 4352).map fun i => (xsField m (16 * t + 2 * i) 2).getD 0
        [xsSpan (16 * t) (0x2220 + 128 * (blocks.foldl max 0 + 1))]
      | none => [])
  | none => []

/-- The whole of the tables that the automaton record at a names (R267, R274 to R277): the mask store up to the highest literal block
its directories name, the transition table with its exception lists, and the sequence list. -/
def automatonTables (m : Module) (a : Nat) : List View :=
  let f (o n : Nat) : Option Nat := xsField m (a + o) n
  let ds (b n : Nat) : Nat := (constField m 3 0 b n).getD 0
  xsSpan a 176 ::
  (match f 0 4, f 8 8, f 0x10 8 with
    | some q, some mask, some moves =>
      let q := min q 65536
      let literal (k : Nat) : Nat := let e := ds (mask + 4 * k) 4; if e % 4 = 2 then e / 4 + 1 else 0
      [dsSpan mask (256 * q + 512 * ((span 0 (64 * q)).map literal).foldl max 0), dsSpan moves (16 * q)] ++
      (span 0 q).map fun k => dsSpan (ds (moves + 16 * k + 8) 8) (8 * ds (moves + 16 * k + 4) 4)
    | _, _, _ => []) ++
  (match f 0x18 8, f 0x20 2 with
    | some s, some n => [dsSpan s (144 * n)]
    | _, _ => [])

/-- The tables a text instruction can reach (R267): those of the text record, and those of the automaton record that MASKGEN names, or
that SAMPLE's sampling record names with its mask (R279). -/
def tableViews (m : Module) (x : CodeWord) : List View :=
  let c := storeByte x.insn.c
  (if 0x60 ≤ x.opcode.toNat && x.opcode.toNat ≤ 0x64 then textTables m else []) ++
  (if x.opcode = 0x62 then automatonTables m c
   else if x.opcode = 0x63 then
    (match xsField m (c + 0x24) 4 with
      | some o => if o = 0xFFFFFFFF then [] else automatonTables m (16 * o)
      | none => [])
   else [])

/-- The time slots of the media unit a DECODE can use, as numbers of their own, written (R161, R299): those of the stream that constant
data name, where w gives the time slots of a video pipeline, and every one where they name none. -/
def pipeViews (m : Module) (w : Nat → Nat) (x : CodeWord) : List (Bool × View) :=
  if x.opcode ≠ 0x68 then []
  else
    let slot (a n : Nat) : Bool × View := (true, { xsSpan a n with space := 6 })
    match (xsField m (storeByte x.insn.a + 4) 4).bind fun r => (xsField m (16 * r) 1).bind fun f => (xsField m (16 * r + 1) 1).map fun p => (f, p) with
    | some (f, p) =>
      if f < 3 then [slot (16 * (p % 16) + p / 16 % max 1 (w (p % 16))) 1] else [slot (64 + p % 16) 1]
    | none => [slot 0 72]

/-- The stream record that a batch names and the buffer of the slot that a DECODE fills, where constant data give them (R309, R315). -/
def batchViews (m : Module) (x : CodeWord) : List (Bool × View) :=
  let b := storeByte x.insn.a
  let c := x.insn.c.toNat % 64
  ((xsField m (b + 4) 4).toList.map fun r => (false, xsSpan (16 * r) 96)) ++
  (match xsField m (b + 0x20) 4, xsField m (b + 0x40 + 16 * c) 8 with
    | some n, some p =>
      if x.opcode = 0x68 then [(true, { xsSpan (p % 2 ^ 40) (2048 * n) with space := p / 2 ^ 40 % 4 })] else []
    | _, _ => [])

/-- The record behind a store-offset slot: its bytes, and those that its fields name where constant data give them, true for a write. A
sequence record and its pool (R235, R236, R239) are read and written, the pool as a whole; a batch is read and written with its stream
and slot. -/
def recordViews (m : Module) (x : CodeWord) : List (Bool × View) :=
  let both (v : View) : List (Bool × View) := [(false, v), (true, v)]
  let xs (a n : Nat) : Option Nat := xsField m a n
  let pool (p : Nat) : List (Bool × View) :=
    both (xsSpan p 2880) ++
    match xs p 2, xs (p + 2) 2, xs (p + 8) 8, xs (p + 0x10) 8 with
    | some d, some n, some data, some table => both (dsSpan data (128 * d * n)) ++ both (dsSpan table (8 * n))
    | _, _, _, _ => []
  let seq (w : Word) : List (Bool × View) :=
    both (bytesView w 96) ++ ((xs (storeByte w + 4) 4).toList.flatMap fun p => pool (16 * p))
  match x.opcode.toNat with
  | 0x58 | 0x5A | 0x5B => seq x.insn.a
  | 0x59 => seq x.insn.c
  | 0x62 => [(false, bytesView x.insn.c 176)]
  | 0x63 =>
    (true, bytesView x.insn.a 8) :: both (bytesView x.insn.c 64) ++
    ((xs (storeByte x.insn.c + 0x24) 4).toList.filter fun o => o ≠ 0xFFFFFFFF).map fun o => (true, xsSpan (16 * o) 176)
  | 0x64 => both (bytesView x.insn.a 1120)
  | 0x50 => if x.insn.kindC = .store then both (bytesView x.insn.c 8) else []
  | 0x52 => both (bytesView x.insn.c 4)
  | 0x68 | 0x69 | 0x6A => both (bytesView x.insn.a 1088) ++ batchViews m x
  | _ => []

/-- The touches of a command (R102): its slots' whole descriptor views, the scale entries they name, the records, the tables a text
instruction can reach, and the time slots of the media unit. -/
def touchesOf (m : Module) (w : Nat → Nat) (k : Command) : List Touch :=
  (commandWords m k).flatMap fun x =>
    (slotViews (setSlot m) x ++ scaleViews m x ++ recordViews m x ++ ((tableViews m x).map fun v => (false, v)) ++ pipeViews m w x).map
      fun e => (e.1, touchOwner m k e.2.space, e.2)

/-- The view fills its span. -/
def fills (v : View) : Bool := v.span.any fun p => (v.count : Int) * fmtBits v.format = 8 * (p.2 - p.1 + 1)

/-- Two touches meet in a byte. -/
def touchesMeet (a b : Touch) : Bool :=
  a.2.1 = b.2.1 && a.2.2.space = b.2.2.space &&
  match a.2.2.span, b.2.2.span with
  | some p, some q =>
    p.1 ≤ q.2 && q.1 ≤ p.2 &&
      ((fills a.2.2 && fills b.2.2) || a.2.2.addrs.any fun n => b.2.2.addrs.contains n)
  | _, _ => false

/-- Every byte of a read is one the writes give. -/
def coveredBy (ws : List Touch) (r : Touch) : Bool :=
  let mine := ws.filter fun w => w.2.1 = r.2.1 && w.2.2.space = r.2.2.space
  (match r.2.2.span with
    | none => true
    | some q => mine.any fun w => fills w.2.2 && w.2.2.span.any fun p => p.1 ≤ q.1 && q.2 ≤ p.2) ||
  r.2.2.addrs.all fun n => mine.any fun w => w.2.2.addrs.contains n

/-- Semaphores a command posts (0x11) or takes (0x10). -/
def semsUsed (m : Module) (op : BitVec 8) (k : Command) : List Nat :=
  ((commandWords m k).filter fun x => x.opcode = op).map fun x => x.insn.a.toNat

/-- Commands right before command b: its predecessors, and those that post a semaphore it takes. -/
def rightBefore (m : Module) (b : Command) : List Nat :=
  (if b.trigger = .preds then b.preds else []) ++
  ((m.commands.zipIdx.filter fun a => (semsUsed m 0x11 a.1).any fun n => (semsUsed m 0x10 b).contains n).map (·.2))

/-- Everything before a list of commands. -/
def allBefore (m : Module) : Nat → List Nat → List Nat → List Nat
  | 0, seen, _ => seen
  | _, seen, [] => seen
  | n + 1, seen, a :: l =>
    if seen.contains a then allBefore m n seen l
    else allBefore m n (a :: seen) (((m.commands[a]?).map (rightBefore m)).getD [] ++ l)

/-- Commands whose COMMIT comes before command b starts. -/
def beforeOf (m : Module) (b : Command) : List Nat :=
  allBefore m ((m.commands.length + 1) * (m.commands.length + 1)) [] (rightBefore m b)

/-- A write the command makes in place, as far as the loader sees: not in a table, and not on bytes it reads (R101). -/
def inPlace (m : Module) (ts : List Touch) (w : Touch) : Bool :=
  w.1 && w.2.2.space < 4 && (w.2.2.space < 2 ||
    (!(viewMeets w.2.2 2 (m.descKib * 1024) (m.descKib * 1024 + 65535) || viewMeets w.2.2 2 (m.scaleKib * 1024) (m.scaleKib * 1024 + 2 ^ 20 - 1)) &&
     !(ts.any fun r => !r.1 && touchesMeet r w)))

/-- One command reads what another writes in place and is not ordered after it, or two unordered commands write the same bytes (R102)
or can use one time slot of the media unit (R161). -/
def unordered (m : Module) (w : Nat → Nat) : Bool :=
  let l := m.commands.zipIdx.map fun k => (k.2, touchesOf m w k.1, beforeOf m k.1)
  l.any fun a => l.any fun b =>
    a.1 ≠ b.1 && !(b.2.2.contains a.1) &&
    ((a.2.1.any fun w => inPlace m a.2.1 w && b.2.1.any fun r => !r.1 && touchesMeet w r) ||
     (!(a.2.2.contains b.1) && a.2.1.any fun w => w.1 && b.2.1.any fun v => v.1 && touchesMeet w v))

/-- A floating command reads ES or CS bytes it has not written, or leaves some that another command reads (R82). -/
def floatingState (m : Module) : Bool :=
  m.commands.zipIdx.any fun k =>
    k.1.floating &&
    let ts := touchesOf m (fun _ => 1) k.1
    let ws := ts.filter fun t => t.1 && t.2.2.space < 2
    (ts.any fun t => !t.1 && t.2.2.space < 2 && !coveredBy ws t) ||
    m.commands.zipIdx.any fun b =>
      b.2 ≠ k.2 &&
      let us := touchesOf m (fun _ => 1) b.1
      us.any fun t => !t.1 && t.2.2.space < 2 && (ws.any fun w => touchesMeet w t) && !coveredBy (us.filter fun u => u.1) t

/-! ### The commit buffer (code 0x07) -/

/-- Words of an instruction's known destination that are staged whatever the command does: in the descriptor table, the scale banks
or a shared window (R101). -/
def alwaysStaged (m : Module) (shared : List (Nat × Nat)) (x : CodeWord) : List Nat :=
  let zones := [(m.descKib * 1024, m.descKib * 1024 + 65535), (m.scaleKib * 1024, m.scaleKib * 1024 + 2 ^ 20 - 1)] ++ shared
  let vs := (staticViews m x).filter fun e => e.1 && zones.any fun z => viewMeets e.2 2 z.1 z.2
  (((vs.flatMap fun e => e.2.addrs).filter fun a => zones.any fun z => z.1 ≤ a && a ≤ z.2).map (· / 16)).eraseDups

/-- The one path of a command: no word of it is predicated, and no loop's trips are open. -/
def onePath (m : Module) (k : Command) : Bool :=
  (commandWords m k).all fun x => !x.insn.predOn && !(x.opcode = 0x0B && decide (x.insn.kindA = .scalar))

/-- Some instruction of a command, or all of a command with one path, stage more than the commit buffer holds. -/
def neverFits (m : Module) (shared : List (Nat × Nat)) : Bool :=
  let tooMany (l : List Nat) : Bool := 32 * l.eraseDups.length > 1024 * m.commitKib
  m.commands.any fun k =>
    ((commandWords m k).any fun x => !x.insn.predOn && tooMany (alwaysStaged m shared x)) ||
    (onePath m k && tooMany ((commandWords m k).flatMap (alwaysStaged m shared)))

end Sys2Proof.Machine
end

