-- ==== Sys2Proof/Machine/Sheet.lean ====
section
/-! DEFINITION. The timing sheet (R111, R114 to R118, R130): each command's variables, terms and bounds, from the count and charge of its
words at their views and declared maxima. Instructions are counted one after another (log 51). -/

namespace Sys2Proof.Machine

open Sys2Proof

/-- A variable record (R115). -/
structure Variable where
  index : Nat
  kind : Nat
  maximum : Nat
deriving DecidableEq, Repr

/-- A term record (R115): cycles and nanojoules of one unit, and the variables it is multiplied by. -/
structure Term where
  cycles : Nat
  nanojoules : Nat
  a : Option Nat
  b : Option Nat
deriving DecidableEq, Repr

/-- A timing-sheet entry (R115). -/
structure Sheet where
  command : Nat
  segments : Nat
  vars : List Variable
  terms : List Term
  cycleBound : Nat
  energyBound : Nat
deriving DecidableEq, Repr

/-! ### Counts and charges of one word at load -/

/-- The initial view of a slot. -/
def sheetView (m : Module) (x : CodeWord) (n : Nat) : Option View := setSlot m (slotAt x.insn n).1 (slotAt x.insn n).2

/-- Elements of a slot's view. -/
def sheetCount (m : Module) (x : CodeWord) (n : Nat) : Nat := ((sheetView m x n).map View.count).getD 0

/-- Extent of a slot's view. -/
def sheetExtent (m : Module) (x : CodeWord) (n k : Nat) : Nat := ((sheetView m x n).map fun v => v.extent k).getD 0

/-- Format of a slot's view. -/
def sheetFormat (m : Module) (x : CodeWord) (n : Nat) : Nat := ((sheetView m x n).map (·.format)).getD 1

/-- Channels of a slot's view (c of R125). -/
def sheetChannels (m : Module) (x : CodeWord) (n : Nat) : Nat := ((sheetView m x n).map View.channels).getD 1

/-- A figure at its declared maximum, where the quantity is a variable of kind 3 or 4. -/
def atMaximum (m : Module) (i n : Nat) : Nat := ((maximumAt m i 3).orElse fun _ => maximumAt m i 4).getD n

/-- Words a move passes, and its spaces, destination first (R125, R139). -/
def sheetMove (m : Module) (x : CodeWord) : Nat × Nat × Nat :=
  let vs := moveSlots (setSlot m) x.insn
  let words (k : Kind) (v : View) : Nat := if k = .store then x.insn.c.toNat / 16 else v.words
  match vs with
  | (_, d) :: (_, v) :: _ => (max (words x.insn.kindA d) (words x.insn.kindB v), d.space, v.space)
  | _ => (0, 0, storeSpace x.insn.b)

/-- Charge of a move of u words. -/
def moveCharge (u sa sb : Nat) : Nat := u * moveRate (max sa sb)

/-- Tokens of the largest vocabulary (R158). -/
def largestVocabulary : Nat := 262144

/-- Cycles and picojoules of a KVEVICT of e positions from a sequence of l positions (R154). -/
def evictCost (l e : Nat) : Nat × Nat := (60 + ceilDiv l 32 + 24 * e, 2 * e * moveRate 3)

/-- Occupancy, count and charge beside class C of a word, at its initial views and declared maxima (chapter 05). The waits of R111 are
in no count, and a COMMIT's staged words are those the commit buffer holds at most. -/
def wordCost (m : Module) (i : Nat) (x : CodeWord) : Nat × Nat × Nat :=
  let one (n : Nat) : Nat × Nat × Nat := (n, n, 0)
  let vec (occ more rate : Nat) : Nat × Nat × Nat := (occ, occ + more, rate * occ)
  let f := sheetFormat m x 0
  let k := sheetExtent m x 0 0
  let dense (n : Nat) : Nat := ceilDiv (sheetCount m x n * fmtBits (sheetFormat m x n)) 8
  match x.opcode.toNat with
  | 0x08 | 0x09 | 0x0A => one 3
  | 0x0B | 0x10 | 0x12 => one 2
  | 0x14 => let s := 32 * m.commitKib
    (16 + ceilDiv s 2, 16 + ceilDiv s 2, 60 * s)
  | 0x20 | 0x21 | 0x22 =>
    let (u, sd, sv) := sheetMove m x
    if x.insn.kindA = .scalar then (1, leadOf sv + 1, moveRate sv)
    else
      let u := atMaximum m i u
      let t := moveTime false u sv sd
      (t.1, t.2, moveCharge u sd sv)
  | 0x23 =>
    let rows := atMaximum m i (sheetCount m x 2)
    let sp := ((sheetView m x 1).map (·.space)).getD 0
    let r := ceilDiv (sheetCount m x 1 / max 1 (sheetExtent m x 1 (((sheetView m x 1).map (·.rank)).getD 1 - 1)) * fmtBits (sheetFormat m x 1)) 8
    let y := 16 * (ceilDiv r 16 + 1)
    let head := 4 + ceilDiv rows 64
    let n := if sp = 3 then head + 160 + 48 * (rows * ceilDiv y 2048 - 1) + 16
      else head + leadOf sp + rows * ceilDiv y (min 128 (rateOf sp))
    (n, n, (rows * (ceilDiv r 16 + 1) + ceilDiv rows 4) * moveRate sp)
  | 0x24 =>
    let h := x.insn.c.toNat / 65536
    let part (n : Nat) : Nat := ((sheetView m x n).map fun v => { v with ext := v.ext.set 1 h }.words).getD 0
    let u := atMaximum m i (max (part 0) (part 1))
    let sp := ((sheetView m x 1).map (·.space)).getD 0
    let t := (moveTime false u sp 0).2 + ceilDiv (16 * part 0) 128
    (t, t, u * moveRate sp + 10 * part 0)
  | 0x30 =>
    let k := atMaximum m i k
    let occ := if f = 0 then ceilDiv k 2 else if f = 2 then 4 * k else k
    (occ, (if f = 2 then 4 * k else k) + 72, (if f = 0 then 1000 else if f = 2 then 400 else 550) * occ)
  | 0x31 =>
    let f := sheetFormat m x 1
    let k := atMaximum m i (sheetExtent m x 1 0 * sheetExtent m x 1 1 * sheetExtent m x 1 2)
    let occ := if f = 0 then ceilDiv k 2 else if f = 2 then 4 * k else k
    (occ, (if f = 2 then 4 * k else k) + 72, (if f = 0 then 1000 else if f = 2 then 400 else 550) * occ)
  | 0x32 =>
    let f := sheetFormat m x 1
    let taps := sheetExtent m x 1 0 * sheetExtent m x 1 1 * (if 3 < ((sheetView m x 1).map (·.rank)).getD 3 then sheetExtent m x 1 2 else 1)
    let p := (constField m (storeSpace x.insn.c) 0 (storeByte x.insn.c + 0x0E) 2).getD 64
    let occ := (if f = 2 then 4 else 1) * ceilDiv p (max 1 (64 / max 1 taps))
    (occ, occ + 72, (if f = 0 then 1000 else if f = 2 then 400 else 550) * occ)
  | 0x33 =>
    let at_ (o n : Nat) : Option Nat := constField m (storeSpace x.insn.c) 0 (storeByte x.insn.c + o) n
    let p := (at_ 0x0E 2).getD 64
    let t := atMaximum m i ((at_ 0x14 1).getD 16 * (at_ 0x15 1).getD 16)
    let occ := if t ≤ 64 then ceilDiv p (64 / max 1 t) else p * ceilDiv t 64
    (occ, occ + 72, 550 * occ)
  | 0x40 | 0x41 | 0x42 | 0x43 => if x.insn.kindA = .scalar then (1, 1, 60) else vec (lanesOf (atMaximum m i (sheetCount m x 0))) 3 60
  | 0x44 => vec (lanesOf (atMaximum m i (sheetCount m x 1))) 9 60
  | 0x45 | 0x46 | 0x47 => vec (lanesOf (atMaximum m i (sheetCount m x 0))) 11 90
  | 0x48 => vec (3 * (sheetCount m x 1 / max 1 (sheetExtent m x 1 0)) * lanesOf (atMaximum m i (sheetExtent m x 1 0))) 36 90
  | 0x49 => vec (3 * (sheetCount m x 1 / max 1 (sheetExtent m x 1 0)) * lanesOf (atMaximum m i (sheetExtent m x 1 0))) 42 90
  | 0x4A => vec (ceilDiv (atMaximum m i (sheetCount m x 0)) 16) 40 90
  | 0x50 => vec (lanesOf (atMaximum m i (sheetCount m x 1)) + 2 * ceilDiv (sheetChannels m x 0) 64) 12 60
  | 0x51 => vec (lanesOf (atMaximum m i (sheetCount m x 0))) 5 60
  | 0x52 => vec (lanesOf (atMaximum m i (sheetCount m x 1)) + 2 * ceilDiv (sheetChannels m x 0) 64) 8 60
  | 0x58 =>
    let n := sheetCount m x 1
    let g := (maximumAt m i 2).getD 0
    let e := evictCost 131072 1
    let c := 200 + ceilDiv n 16 + 48 * ceilDiv n 1024 + 40 * g + g * e.1 + g * (40 + 4 * 2048)
    (c, c, 90 * ceilDiv n 16 + ceilDiv n 8 * moveRate 3)
  | 0x59 =>
    let p := atMaximum m i 2048
    let d := sheetExtent m x 0 0
    let n := sheetCount m x 0
    let c := 240 + ceilDiv n 16 + 3 * d * p
    (c, c, 550 * (2 * d * p) + 8 * d * p * moveRate 3 + 90 * ceilDiv n 16)
  | 0x5A =>
    let e := if x.insn.kindB = .immediate then x.insn.b.toNat else atMaximum m i 131072
    let c := evictCost 131072 e
    (c.1, c.1, c.2)
  | 0x5B => let c := 40 + 4 * atMaximum m i 2048
    (c, c, 0)
  | 0x60 => let c := 24 + (if x.insn.kindB = .descriptor then atMaximum m i (sheetCount m x 1) else 0)
    (c, c, 50 * c)
  | 0x61 => let c := 24 + sheetCount m x 1 + atMaximum m i (sheetCount m x 0)
    (c, c, 50 * c)
  | 0x62 => let c := ceilDiv (atMaximum m i (min largestVocabulary (8 * sheetCount m x 0))) 4096
    (c, c, 50 * c)
  | 0x63 => let c := 32 + ceilDiv (atMaximum m i (sheetCount m x 1)) 4096
    (c, c, 50 * c)
  | 0x64 => let c := 8 + sheetCount m x 1 + atMaximum m i 63
    (c, c, 50 * c)
  | 0x68 => let c := atMaximum m i 0
    (c, c, 250 * c)
  | 0x69 => let c := 24 + 8 * (if x.insn.kindB = .immediate then x.insn.b.toNat else atMaximum m i 64)
    (c, c, 250 * c)
  | 0x6A => (80, 80, 250 * 80)
  | 0x70 => let c := 310 + ceilDiv (dense 1) 50
    (c, c, 400 * ceilDiv (dense 1) 16)
  | 0x71 => let c := 40 + ceilDiv (dense 0) 32
    (c, c, ceilDiv (dense 0) 16 * moveRate 2)
  | 0x72 =>
    let y := dense 1
    let c := 620 + 2 * ceilDiv y 400 + ceilDiv (y + 144) 256 + 8
    (c, c, 400 * (2 * ceilDiv (y + 144) 16) + 60 * ceilDiv (y + 144) 256)
  | 0x78 => vec (2 * lanesOf (atMaximum m i (sheetCount m x 0)) + 2 * ceilDiv (sheetChannels m x 0) 64) 16 60
  | 0x79 => vec (4 * lanesOf (atMaximum m i (sheetCount m x 0))) 24 60
  | _ => one 1

/-- Bytes of ES an instruction's views take. -/
def sheetEs (m : Module) (x : CodeWord) : Nat :=
  ((slotViews (setSlot m) x).filter fun e => e.2.space = 0).foldl (fun n e => n + (e.2.span.map fun p => (p.2 - p.1 + 1).toNat).getD 0) 0

/-- A word's count and charge with class C, and with the moves between CS and ES where CS backs its engine's ES (R118). -/
def sheetCost (m : Module) (g : CtxRecord) (k : Command) (i : Nat) (x : CodeWord) : Nat × Nat :=
  let c := wordCost m i x
  let more := if ((bindEngine m g k.ve).map (backed m g)).getD false then backingCost (sheetEs m x) c.1 else (0, 0)
  (c.2.1 + more.1, 20 + c.2.2 + more.2)

/-! ### Terms -/

/-- The LOOPs whose body holds index i, outermost first. -/
def loopsAt (m : Module) (i : Nat) : List Nat :=
  (span 0 m.code.length).filter fun j =>
    (wordAt m j).any fun x => x.opcode = 0x0B && decide (j < i) && decide (i ≤ j + x.insn.b.toNat) && (subIndex m i = subIndex m j)

/-- Conditional branches back over index i, whose outcome count bounds its repetitions. -/
def backsAt (m : Module) (i : Nat) : List Nat :=
  (span 0 m.code.length).filter fun j =>
    (wordAt m j).any fun x => x.opcode = 0x08 && x.insn.predOn && decide ((j : Int) + x.insn.a.toInt ≤ i) && decide (i ≤ j)

/-- What an instruction is multiplied by at a place: the variables, with what each adds to its count of times, and the constant factor of
the immediate loops. -/
def factorsAt (m : Module) (p : Place) : List (Nat × Nat × Nat) × Nat :=
  let loops := (p.1 :: p.2.map (· - 1)).flatMap (loopsAt m)
  let backs := (p.1 :: p.2.map (· - 1)).flatMap (backsAt m)
  let open_ := loops.filter fun j => (wordAt m j).any fun x => decide (x.insn.kindA = .scalar)
  (open_.map (fun j => (j, 1, 0)) ++ backs.map (fun j => (j, 2, 1)),
   (loops.filter fun j => !open_.contains j).foldl (fun n j => n * ((wordAt m j).map fun x => x.insn.a.toNat).getD 1) 1)

/-- Times a factor counts at its declared maximum. -/
def factorBound (m : Module) (f : Nat × Nat × Nat) : Nat := (maximumAt m f.1 f.2.1).getD 0 + f.2.2

/-- Variables of a command (R115), in the order of their words. -/
def variablesOf (m : Module) (k : Command) : List Variable :=
  (((placesOf m k).map (·.1)).eraseDups.flatMap fun i =>
    ((wordAt m i).map (needsMaximum m)).getD [] |>.map fun kind => ({ index := i, kind := kind, maximum := (maximumAt m i kind).getD 0 } : Variable)).eraseDups

/-- Index of a variable among a command's. -/
def variableIndex (l : List Variable) (f : Nat × Nat × Nat) : Option Nat := l.findIdx? fun v => v.index = f.1 && v.kind = f.2.1

/-- The terms of a command: instructions multiplied alike are summed, the sum of their picojoules rounded up once (R130). Beyond two
variables the others stand at their maxima in the coefficients, as does a repeated word's first pass. -/
def termsOf (m : Module) (g : CtxRecord) (k : Command) : List (Term × Nat) :=
  let vars := variablesOf m k
  let items := (placesOf m k).map fun p =>
    let (fs, n) := factorsAt m p
    let c := ((wordAt m p.1).map (sheetCost m g k p.1)).getD (0, 0)
    let rest := (fs.drop 2).foldl (fun x f => x * factorBound m f) n
    (fs.take 2, rest * c.1, rest * c.2)
  let keys := (items.map (·.1)).eraseDups
  keys.map fun key =>
    let mine := items.filter fun x => decide (x.1 = key)
    ({ cycles := mine.foldl (fun n x => n + x.2.1) 0, nanojoules := ceilDiv (mine.foldl (fun n x => n + x.2.2) 0) 1000,
       a := key.head?.bind (variableIndex vars), b := (key.drop 1).head?.bind (variableIndex vars) },
     key.foldl (fun n f => n * factorBound m f) 1)

/-- Instructions that wait on something outside the command (R111). -/
def waitsOutside (x : CodeWord) : Bool :=
  [0x01, 0x02, 0x03, 0x71, 0x72].contains x.opcode.toNat || x.opcode = 0x12 || (x.opcode = 0x10 && decide (x.insn.kindC ≠ .scalar))

/-- The timing sheet of command n (R114, R115, R117): a function of the module and the granted record alone. -/
def sheetOf (m : Module) (g : CtxRecord) (n : Nat) (k : Command) : Sheet :=
  let ts := termsOf m g k
  { command := n, segments := 1 + ((commandWords m k).filter waitsOutside).length, vars := variablesOf m k, terms := ts.map (·.1),
    cycleBound := ts.foldl (fun x t => x + t.1.cycles * t.2) 0, energyBound := ts.foldl (fun x t => x + t.1.nanojoules * t.2) 0 }

/-- Index byte of a term's variable; 0xFF for the constant 1. -/
def indexByte : Option Nat → List Byte
  | some n => bytesLe n 1
  | none => [0xFF]

/-- A timing-sheet entry as bytes (R115). -/
def sheetBytes (x : Sheet) : List Byte :=
  bytesLe x.command 4 ++ bytesLe x.terms.length 2 ++ bytesLe x.vars.length 1 ++ bytesLe x.segments 1 ++ bytesLe x.cycleBound 8 ++
  bytesLe x.energyBound 8 ++ bytesLe (ceilDiv x.energyBound 1000) 4 ++ bytesLe 32 4 ++
  x.vars.flatMap (fun v => bytesLe v.index 4 ++ bytesLe v.kind 1 ++ bytesLe 0 3 ++ bytesLe v.maximum 4) ++
  x.terms.flatMap fun t => bytesLe t.cycles 4 ++ bytesLe t.nanojoules 4 ++ indexByte t.a ++ indexByte t.b ++ bytesLe 0 6

/-- A module with the bounds of its timing sheets in its directory (R115, R116). -/
def withSheets (m : Module) (g : CtxRecord) : Module :=
  { m with commands := m.commands.zipIdx.map fun k =>
      let x := sheetOf m g k.2 k.1
      { k.1 with cycleBound := x.cycleBound, energyBound := x.energyBound } }

end Sys2Proof.Machine
end

