-- ==== Sys2Proof/Machine/Loader.lean ====
section
/-! DEFINITION. The loader (R81, R112 to R114, R201): its checks, the binding of groups and virtual engines, the grant of a
context's shares (R196, R197, R344), and the data it writes. -/

namespace Sys2Proof.Machine

open Sys2Proof

/-! ### Shares (R196, R197) -/

/-- The lowest run of n contiguous free steps among an engine's four (R197). -/
def freeRun (t : Table Owner) (e n : Nat) : Option Nat :=
  (span 0 (5 - n)).find? fun k => (span k n).all fun j => tget .free t (4 * e + j) = .free

/-- The first n free keys of lo .. lo + size - 1. -/
def freeKeys (t : Table Owner) (lo size n : Nat) : List Nat := ((span lo size).filter fun k => tget .free t k = .free).take n

/-- Give keys to an owner. -/
def giveKeys (t : Table Owner) (o : Owner) (l : List Nat) : Table Owner := l.foldl (fun t k => tset .free t k o) t

/-- Take n of the keys lo .. lo + size - 1 for a context; none where too few are free. -/
def takeKeys (t : Table Owner) (c lo size n : Nat) : Option (Table Owner) :=
  let l := freeKeys t lo size n
  if l.length = n then some (giveKeys t (.held c) l) else none

/-- ES partitions and banks of a grant, engine by engine. -/
def takeEngines (c : Nat) (g : CtxRecord) : List Nat → Table Owner × Table Owner → Option (Table Owner × Table Owner)
  | [], t => some t
  | e :: l, t =>
    match freeRun t.1 e (esStepsOf g e), takeKeys t.2 c (4 * e) 4 1 with
    | some k, some b => takeEngines c g l (giveKeys t.1 (.held c) (span (4 * e + k) (esStepsOf g e)), b)
    | _, _ => none

/-- CS steps of a grant, core by core. -/
def takeCores (c : Nat) (g : CtxRecord) : List Nat → Table Owner → Option (Table Owner)
  | [], t => some t
  | k :: l, t =>
    match takeKeys t c (32 * k) 32 (csStepsOf g k) with
    | some u => takeCores c g l u
    | none => none

/-- Initial holdings of slot c: chip semaphore and count. -/
def initialHoldings (s : State) (c : Nat) : List (Nat × Nat) :=
  (span 0 64).filterMap fun k =>
    let b := bindingOf s c k
    if b.bound && 0 < b.initial then some (b.chip, b.initial) else none

/-- Take initial holdings from the free counts; none where a semaphore has too few. -/
def takeHoldings (s : State) (c : Nat) : List (Nat × Nat) → Option State
  | [] => some s
  | (k, n) :: l =>
    if (semOf s k).free < n then none
    else takeHoldings (modCtx (semTake s k n) c fun x => { x with held := tmod 0 x.held k (· + n) }) c l

/-- Batch slots granted to every other slot. -/
def batchGranted (s : State) (c : Nat) : Nat := (s.ctxs.filter fun x => x.1 ≠ c && decide (x.2.state ≠ .empty)).foldl (fun n x => n + x.2.granted.batch) 0

/-- Credits toward the peers at a grant: the grant is free, but for what is still in flight. -/
def grantCredits (s : State) (c : Nat) : Table Credit :=
  (grantPeers s c).foldl (fun t p =>
    let old := creditOf s c p
    let n := grantTo s c p
    let fl := min old.flight n
    tset Credit.none t p { grant := n, free := n - fl, held := 0, flight := fl, message := old.message }) []

/-- Grant a record's shares to slot c (R344); none where a ledger would be overdrawn. -/
def grantShares (s : State) (c : Nat) (g : CtxRecord) : Option State := do
  let l := s.ledgers
  let (es, banks) ← takeEngines c g (enginesOf g) (l.es, l.banks)
  let cs ← takeCores c g (span 0 16) l.cs
  let xs ← takeKeys l.xs c 0 124 g.xs
  let ds ← takeKeys l.ds c 0 16320 g.ds
  if batchGranted s c + g.batch ≤ 2048 && g.allotment ≤ s.iris.capacity then
    let t := { s with ledgers := { l with es := es, banks := banks, cs := cs, xs := xs, ds := ds } }
    let t ← takeHoldings t c (initialHoldings t c)
    some (modCtx t c fun x => { x with granted := g, state := .loading, credits := grantCredits t c })
  else none

/-- The CS share of core k holds its groups' CS spaces and the ES it backs. -/
def csFits (m : Module) (g : CtxRecord) (k : Nat) : Bool :=
  ((span 0 m.groupCount).filter fun n => bindGroup g n = some k).length * m.csKib +
    ((enginesOf g).filter fun e => e / 4 = k).foldl (fun n e => n + esExcess m g e) 0 ≤ 64 * csStepsOf g k

/-! ### The checks (R113) -/

/-- Ranges and steps of header and directory (code 0x02). -/
def headerRanged (m : Module) : Bool :=
  1 ≤ m.groups.length && m.groups.length ≤ 256 && 1 ≤ m.groupCount && m.groupCount ≤ 64 && m.groups.all (fun g => g < m.groupCount) &&
  m.esKib % 4 = 0 && 128 ≤ m.esKib && m.esKib ≤ 2 ^ 20 && m.csKib % 4 = 0 && m.csKib ≤ 2 ^ 20 && m.xsKib % 4 = 0 && m.xsKib ≤ 2 ^ 20 &&
  m.dsMib % 2 = 0 && m.dsMib ≤ 32768 && m.commitKib % 4 = 0 && m.commitKib ≤ 256 && 1 ≤ m.commands.length &&
  m.commands.length ≤ 65535 && 1 ≤ m.ringRecords && m.ringRecords ≤ 65535 &&
  m.commands.all fun k =>
    1 ≤ k.count && k.count ≤ 16777216 && k.ve < m.groups.length && k.prio ≤ 15 && k.sems.all (fun n => n < 64) &&
    k.preds.length ≤ 4 && k.preds.all (fun p => p < m.commands.length) &&
    match k.trigger with
    | .inbox n => n < 8
    | .line n => 1 ≤ n && n < 2 ^ 32
    | _ => true

/-- Semaphores a command uses are in its mask and bound (code 0x09). -/
def semsDeclared (s : State) (c : Nat) (m : Module) (k : Command) : Bool :=
  (placesOf m k).all fun p =>
    match wordAt m p.1 with
    | some x => !(x.opcode = 0x10 || x.opcode = 0x11) || (k.sems.contains x.insn.a.toNat && (bindingOf s c x.insn.a.toNat).bound)
    | none => true

/-- Instructions that need level 4 (R345). -/
def needsRelay (x : CodeWord) : Bool := [0x70, 0x71, 0x72, 0x78, 0x79].contains x.opcode

/-- Inboxes of slot c that no command names (R99). -/
def inboxUnnamed (s : State) (c : Nat) (m : Module) : Bool :=
  (span 0 8).any fun n => (inboxOf s c n).count ≠ 0 && !(m.commands.any fun k => decide (k.trigger = .inbox n))

/-- Tokens a command reserves (R115). -/
def reservation (k : Command) : Nat := ceilDiv k.energyBound 1000

/-- Bytes of the windows of slot c that do not count against its XS share (R230, R330, R430). -/
def uncounted (s : State) (c : Nat) : Nat :=
  (windowsOf s c).foldl (fun n w => n + match w.1 with
    | .ring _ | .island => w.2.2
    | .shared x => if x = c then 0 else w.2.2
    | _ => 0) 0

/-- Declared sizes within the shares (R83, R371; code 0x03). -/
def sizesFit (s : State) (c : Nat) (g : CtxRecord) (m : Module) : Bool :=
  1024 * (m.xsKib + m.commitKib) ≤ 65536 * g.xs + uncounted s c && m.dsMib ≤ 2 * g.ds && (residentCores g).all (csFits m g) &&
  (withSheets m g).commands.all fun k => reservation k ≤ s.iris.capacity && reservation k ≤ g.allotment

/-- Byte spans of the shared windows of slot c, whose writes are always staged (R101). -/
def windowSpans (s : State) (c : Nat) : List (Nat × Nat) :=
  (windowsOf s c).filterMap fun w => match w.1 with
    | .shared _ | .outbox _ => some (w.2.1, w.2.1 + w.2.2 - 1)
    | _ => none

/-- Words name only windows that are the context's: no operand the loader knows reads or writes a receive window or writes another's
shared window, and RSEND and RRECV name a receive window opened to them (R101, R392, code 0x09). -/
def windowsDeclared (s : State) (c : Nat) (m : Module) : Bool :=
  m.code.all fun x =>
    ((staticViews m x).all fun e =>
      e.2.space ≠ 2 || !((windowsOf s c).any fun w => viewMeets e.2 2 w.2.1 (w.2.1 + w.2.2 - 1) && match w.1 with
        | .relay _ => true
        | .shared o => e.1 && o ≠ c
        | _ => false)) &&
    match x.opcode.toNat with
    | 0x70 => s.facet.windows.any fun w =>
        w.part = bits x.insn.a.toNat 3 0 && w.number = bits x.insn.a.toNat 11 4 && w.fromPart = s.facet.partIndex && w.fromSlot = c
    | 0x71 => s.facet.windows.any fun w =>
        w.part = s.facet.partIndex && w.owner = c && w.number = bits x.insn.b.toNat 11 4 && w.fromPart = bits x.insn.b.toNat 3 0
    | _ => true

/-- The loader's code for a module bound into slot c with a granted record (R113). -/
def loaderCode (s : State) (c : Nat) (g : CtxRecord) (m : Module) : Nat :=
  if !m.magicOk || m.major ≠ 1 || m.minor ≠ 0 then 0x01
  else if !m.complete then 0x0A
  else if m.reservedSet || !headerRanged m || !codeFormed m || !tablesFormed m then 0x02
  else if residentCores g = [] then 0x04
  else if !sizesFit s c g m then 0x03
  else if !(m.commands.all fun k => flowOk m k && variablesBounded m k) || !(regionsOf m).all (fun p => regionOk m p.1 p.2) then 0x05
  else if unordered m (fun p => (tget PipeCfg.none s.facet.videos p).slots) || floatingState m then 0x06
  else if neverFits m (windowSpans s c) then 0x07
  else if !staticOk m then 0x08
  else if !(m.commands.all (semsDeclared s c m)) || inboxUnnamed s c m || !windowsDeclared s c m || (g.level < 4 && m.code.any needsRelay) then 0x09
  else if m.ringRecords < m.commands.length then 0x0B
  else 0

/-! ### What a binding writes -/

/-- Constant data into a context's stores. -/
def putConst (x : Stores) (d : ConstData) : Stores :=
  if d.space = 0 then { x with es := wrBytes x.es (2 ^ 30 * d.index + d.offset) d.bytes }
  else if d.space = 1 then { x with cs := wrBytes x.cs (2 ^ 30 * d.index + d.offset) d.bytes }
  else if d.space = 2 then { x with xs := wrBytes x.xs d.offset d.bytes }
  else { x with ds := wrBytes x.ds d.offset d.bytes }

/-- A byte of a space as the loader has laid it out, of virtual engine or group n for ES and CS. -/
def loadedByte (x : Stores) (sp n a : Nat) : Byte :=
  if sp = 0 then rd x.es (2 ^ 30 * n + a) else if sp = 1 then rd x.cs (2 ^ 30 * n + a) else if sp = 2 then rd x.xs a else rd x.ds a

/-- An element of a view over loaded bytes. -/
def loadedElem (x : Stores) (n : Nat) (v : View) (t : List Nat) : Int :=
  let b := (v.bitAt t).toNat
  if v.format = 0 then
    let y := (loadedByte x v.space n (b / 8)).toNat
    signed 4 (if b % 8 = 4 then y / 16 else y % 16)
  else signed (fmtBits v.format) (leValue ((span (b / 8) (fmtBits v.format / 8)).map (loadedByte x v.space n)))

/-- The virtual engine or group whose constant data holds every byte of a view; none where the data are not constants. -/
def constIndex (m : Module) (v : View) : Option Nat :=
  ((m.consts.filter fun d => d.space = v.space).map (·.index)).eraseDups.find? fun n =>
    v.addrs.all fun a => m.consts.any fun d =>
      d.space = v.space && d.index = n && d.offset ≤ a && a < d.offset + d.bytes.length

/-- The column sums of an initial descriptor (R177): one for each channel, where scales are present, per channel, and its data
are the module's constants. -/
def putSums (m : Module) (x : Stores) (d : Desc) : Stores :=
  let v := viewOfDesc d 0 0
  if !descValid d || !d.scaled || !d.perChannel || v.count = 0 || v.span.any (fun p => p.1 < 0) || !scaleFits v then x
  else match constIndex m v with
    | none => x
    | some n =>
      (span 0 v.channels).foldl (fun (y : Stores) c =>
        let sum := (((v.tuples.filter fun t => v.chanOf t = c).map (loadedElem x n v)).foldl (· + ·) 0)
        { y with xs := wrBytes y.xs (m.scaleKib * 1024 + 1024 * (v.bank + c / 64) + 16 * (c % 64) + 4) (bytesLe (word32 sum) 4) }) x

/-- Initial descriptors, scale banks and constants (R112), and the column sums of R177. -/
def loadStores (m : Module) (x : Stores) : Stores :=
  let x := m.descs.foldl (fun (x : Stores) d => { x with xs := wrBytes x.xs (m.descKib * 1024 + 64 * d.1) (descBytes d.2) }) x
  let x := { x with xs := wrBytes x.xs (m.scaleKib * 1024) m.scales }
  let x := m.consts.foldl putConst x
  m.descs.foldl (fun x d => putSums m x d.2) x

/-- Stores of a slot as its module's binding leaves them: a restart into held shares keeps DS (R382). -/
def boundStores (m : Module) (x : Ctx) : Stores :=
  let y := loadStores m x.stores
  if x.restart.isSome then { y with ds := x.stores.ds, upDs := x.stores.upDs } else y

/-- Bind a module into slot c (R81, R112, R200): engines, cores, data, clear banks; it starts when it becomes active. -/
def bindModule (s : State) (c : Nat) (m : Module) : State :=
  modCtx s c fun x =>
    let vs := (span 0 m.groups.length).foldl (fun t v => tset 0 t v ((bindEngine m x.granted v).getD 0)) []
    let gs := (span 0 m.groupCount).foldl (fun t n => tset 0 t n ((bindGroup x.granted n).getD 0)) []
    { x with module := some (withSheets m x.granted), bindings := vs, cores := gs, stores := boundStores m x, banks := [], loadCode := 0,
             starting := true, progress := { x.progress with lines := 0 } }

/-- A bound slot becomes active, and its context-start instances are ready on the next edge (R99, R351). -/
def activate (s : State) (c : Nat) : State :=
  let x := ctxOf s c
  let t := setCtx s c { x with state := .active, starting := false }
  if x.starting then startReady t c else t

/-- Active where the level is reached, else parked (R346). -/
def settleSlot (s : State) (c : Nat) : State :=
  if (ctxOf s c).granted.level ≤ s.iris.stop then activate s c else modCtx s c fun x => { x with state := .parked }

end Sys2Proof.Machine
end

