-- ==== Sys2Proof/Machine/FacetBytes.lean ====
section
/-! DEFINITION. A facet in its 65,536 bytes (R421 to R431), and the checks of R432. -/

namespace Sys2Proof.Machine

open Sys2Proof

/-! ### Reading the parts -/

/-- An index byte, 0xFF for none. -/
def optByte (n : Nat) : Option Nat := if n = 0xFF then none else some n

/-- A table of n entries. -/
def tableOf {α : Type} [DecidableEq α] (d : α) (n : Nat) (f : Nat → α) : Table α := (span 0 n).foldl (fun t k => tset d t k (f k)) []

/-- Timing, power and cascade part at b (R422). -/
def timingAt (m : Memory) (b : Nat) : TimingCfg :=
  { source := rdLe m b 1, divider := rdLe m (b + 2) 2 + 1, refPeriod := rdLe m (b + 4) 4, interval := rdLe m (b + 8) 4,
    envelope := rdLe m (b + 0xC) 4, budgetFull := rdLe m (b + 0x10) 4, budgetReduced := rdLe m (b + 0x14) 4,
    budgetLow := rdLe m (b + 0x18) 4, budgetCritical := rdLe m (b + 0x1C) 4, capacity := rdLe m (b + 0x20) 4,
    ceiling := rdLe m (b + 0x24) 2, floor := rdLe m (b + 0x26) 1, encoderLevel := rdLe m (b + 0x27) 1,
    timerLevel := rdLe m (b + 0x28) 1, preview := optByte (rdLe m (b + 0x29) 1), encoderEdges := rdLe m (b + 0x2A) 2,
    hold1 := rdLe m (b + 0x2C) 2, hold2 := rdLe m (b + 0x2E) 2, hold3 := rdLe m (b + 0x30) 2, hold4 := rdLe m (b + 0x32) 2,
    wakeLine := BitVec.ofNat 48 (rdLe m (b + 0x34) 6), wakeOn := 128 ≤ rdLe m (b + 0x3B) 1 }

/-- Island part at b (R423). -/
def islandAt (m : Memory) (b : Nat) : IslandCfg :=
  { mic := rdLe m b 1, wakeN := bit (rdLe m (b + 1) 1) 0, tdm48 := bit (rdLe m (b + 1) 1) 1, owner := optByte (rdLe m (b + 2) 1),
    inbox := rdLe m (b + 3) 1, windowKib := rdLe m (b + 4) 4, frameSem := rdLe m (b + 8) 1,
    threshold := signed 16 (rdLe m (b + 0xA) 2), timeout := rdLe m (b + 0xC) 2,
    taps := (span 0 32).map fun k => signed 16 (rdLe m (b + 0x10 + 2 * k) 2) }

/-- Sensor-port record at b (R426). -/
def portAt (m : Memory) (b : Nat) : PortCfg :=
  { lanes := rdLe m b 1, dataType := rdLe m (b + 1) 1, channel := rdLe m (b + 2) 1, locked := bit (rdLe m (b + 3) 1) 0,
    bonded := bit (rdLe m (b + 3) 1) 1, rate := rdLe m (b + 4) 4, length := rdLe m (b + 8) 4, mclk := rdLe m (b + 0xC) 1,
    mclkDiv := rdLe m (b + 0xE) 2, share := rdLe m (b + 0x10) 1, ringOwner := rdLe m (b + 0x11) 1,
    ringLines := rdLe m (b + 0x14) 4, ringKib := rdLe m (b + 0x18) 4, logKib := rdLe m (b + 0x1C) 4 }

/-- CCI record at b (R427). -/
def cciAt (m : Memory) (b : Nat) : CciCfg :=
  { bus := rdLe m b 1 % 4, enabled := 128 ≤ rdLe m b 1, owner := rdLe m (b + 1) 1, windowKib := rdLe m (b + 4) 4,
    targets := (span 0 4).map fun k => rdLe m (b + 8 + 2 * k) 2 }

/-- Video pipeline at b (R428). -/
def pipeAt (m : Memory) (b : Nat) : PipeCfg :=
  { slots := rdLe m b 1, owners := (span 0 12).map fun k => rdLe m (b + 1 + k) 1 }

/-- Chip semaphore entry at b (R430). -/
def semAt (m : Memory) (b : Nat) : SemCfg := { total := rdLe m b 2, isUnit := bit (rdLe m (b + 2) 1) 0 }

/-- Semaphore binding at b (R430). -/
def bindingAt (m : Memory) (b : Nat) : Binding :=
  { chip := rdLe m b 2 % 1024, bound := bit (rdLe m b 2) 10, initial := rdLe m (b + 2) 2 }

/-- Inbox entry at b (R348, R430). -/
def inboxAt (m : Memory) (b : Nat) : InboxCfg :=
  { offset := rdLe m b 4, size := 16 * rdLe m (b + 4) 2, count := rdLe m (b + 6) 2 }

/-- Shared windows in use, from the table at b (R430). -/
def sharedAt (m : Memory) (b : Nat) : List SharedCfg :=
  (span 0 32).filterMap fun k =>
    let a := b + 16 * k
    if rdLe m a 1 = 0xFF then none
    else some { writer := rdLe m a 1, readers := BitVec.ofNat 32 (rdLe m (a + 4) 4), kib := rdLe m (a + 8) 4, sizeKib := rdLe m (a + 0xC) 4 }

/-- Receive windows present in the plan at b (R431). -/
def windowsAt (m : Memory) (b : Nat) : List WindowCfg :=
  (span 0 2304).filterMap fun k =>
    let a := b + 16 * k
    if !(bit (rdLe m (a + 0xD) 1) 0) then none
    else some { part := rdLe m a 1, owner := rdLe m (a + 1) 1, fromPart := rdLe m (a + 2) 1, fromSlot := rdLe m (a + 3) 1,
                offset := rdLe m (a + 4) 4, size := 256 * rdLe m (a + 8) 4, number := rdLe m (a + 0xC) 1 }

/-- The facet whose bytes start at b. -/
def facetAt (m : Memory) (b : Nat) : Facet :=
  { timing := timingAt m (b + 0x40), island := islandAt m (b + 0x80), balls := (span 0 80).map fun k => rdLe m (b + 0x100 + k) 1,
    widthCeiling := rdLe m (b + 0x1A0) 2, heightCeiling := rdLe m (b + 0x1A2) 2, pixelCeiling := rdLe m (b + 0x1A4) 4,
    glintPort := optByte (rdLe m (b + 0x1A8) 1), glintOwner := rdLe m (b + 0x1A9) 1, glintKib := rdLe m (b + 0x1AC) 4,
    setSize := rdLe m (b + 0x1B0) 1, partIndex := rdLe m (b + 0x1B1) 1, net0 := bit (rdLe m (b + 0x1B2) 1) 0,
    net1 := bit (rdLe m (b + 0x1B2) 1) 1, heat := (span 0 32).map fun k => rdLe m (b + 0x1C0 + k) 1,
    ports := tableOf PortCfg.none 8 fun p => portAt m (b + 0x200 + 64 * p),
    ccis := tableOf CciCfg.none 8 fun n => cciAt m (b + 0x400 + 16 * n),
    videos := tableOf PipeCfg.none 4 fun v => pipeAt m (b + 0x480 + 16 * v),
    pages := (span 0 8).map fun p => rdLe m (b + 0x4C0 + p) 1,
    contexts := tableOf CtxRecord.none 32 fun c => recordOf (rdBytes m (b + 0x600 + 64 * c) 64),
    sems := tableOf SemCfg.none 1024 fun k => semAt m (b + 0xE00 + 4 * k),
    inboxes := tableOf InboxCfg.none 2048 fun k => if k % 64 < 8 then inboxAt m (b + 0x1E00 + 64 * (k / 64) + 8 * (k % 64)) else InboxCfg.none,
    shared := sharedAt m (b + 0x2600), outboxes := [],
    bindings := tableOf Binding.none 2048 fun k => bindingAt m (b + 0x2800 + 4 * k),
    windows := windowsAt m (b + 0x6000),
    grants := tableOf 0 2304 fun k => rdLe m (b + 0xF000 + k) 1,
    relayDigest := BitVec.ofNat 64 (leValue ((sha256 (rdBytes m (b + 0x1B0) 1 ++ rdBytes m (b + 0x6000) 0xA000)).take 8)),
    digest := rdBytes m (b + 0x10) 32 }

/-! ### 0x01: the header -/

/-- Magic, format, length and digest (R421). -/
def headerOk (m : Memory) (b : Nat) : Bool :=
  rdBytes m b 4 = ascii "FCET" && rdLe m (b + 4) 2 = 1 && rdLe m (b + 8) 4 = 65536 &&
  sha256 (rdBytes m (b + 0x40) 65472) = rdBytes m (b + 0x10) 32

/-! ### 0x02: ranges and reserved fields -/

/-- Bytes that are reserved whole: offset and size. -/
def reservedSpans : List (Nat × Nat) :=
  [(0x07, 1), (0x41, 1), (0x7C, 4), (0x89, 1), (0x8E, 2), (0xD0, 48), (0x150, 80), (0x1AA, 2), (0x1B3, 13), (0x1E0, 32),
   (0x4C8, 56), (0x500, 256), (0x4800, 6144), (0xF900, 1792)] ++
  (span 0 8).flatMap (fun p => [(0x20D + 64 * p, 1), (0x212 + 64 * p, 2), (0x220 + 64 * p, 32), (0x402 + 16 * p, 2)]) ++
  (span 0 4).map (fun v => (0x48D + 16 * v, 3)) ++ (span 0 32).map (fun k => (0x2601 + 16 * k, 3)) ++
  (span 0 2304).map fun k => (0x600E + 16 * k, 2)

/-- Bytes with reserved bits: offset and the mask of those bits. -/
def reservedBits : List (Nat × Nat) :=
  [(0x7A, 0xFF), (0x7B, 0x7F), (0x81, 0xFC), (0x1B2, 0xFC)] ++
  (span 0 8).flatMap (fun p => [(0x203 + 64 * p, 0xFC), (0x400 + 16 * p, 0x7C)]) ++
  (span 0 32).map (fun k => (0x408 + 16 * (k / 4) + 4 * (k % 4) / 2, 0x80)) ++
  (span 0 1024).flatMap (fun k => [(0xE02 + 4 * k, 0xFE), (0xE03 + 4 * k, 0xFF)]) ++
  (span 0 2048).map (fun k => (0x2801 + 4 * k, 0xF8)) ++ (span 0 2304).map fun k => (0x600D + 16 * k, 0xFE)

/-- Every reserved field is zero. -/
def reservedZero (m : Memory) (b : Nat) : Bool :=
  reservedSpans.all (fun e => !(m.any fun x => b + e.1 ≤ x.1 && x.1 < b + e.1 + e.2)) &&
  reservedBits.all fun e => (rd m (b + e.1)).toNat &&& e.2 = 0

/-- Ranges of R422, with R28, R42, R371, R372 and R376. The reference period matters for source 0x0. -/
def timingRanged (t : TimingCfg) : Bool :=
  (t.source ≤ 5 || (8 ≤ t.source && t.source ≤ 15)) && (t.source ≠ 0 || 9 ≤ t.refPeriod) && t.interval % 4 = 0 && 200 ≤ t.interval &&
  [t.envelope, t.budgetFull, t.budgetReduced, t.budgetLow, t.budgetCritical].all (fun x => 1800 ≤ x && x ≤ 60000) &&
  100000 ≤ t.capacity && t.capacity ≤ 16777215 && 640 ≤ t.ceiling && t.ceiling ≤ 1664 && t.floor ≤ 4 &&
  1 ≤ t.encoderLevel && t.encoderLevel ≤ 4 && 1 ≤ t.timerLevel && t.timerLevel ≤ 4 && 1 ≤ t.encoderEdges

/-- Ranges of R423. -/
def islandRanged (i : IslandCfg) : Bool := i.mic ≤ 7 && i.inbox ≤ 7 && i.frameSem ≤ 63 && 1 ≤ i.timeout

/-- Ranges of R287, R288, R55 and R230 for a port with lanes. -/
def portRanged (p : PortCfg) : Bool :=
  p.lanes = 0 ||
  ((p.lanes = 1 || p.lanes = 2 || p.lanes = 4) && 0x2A ≤ p.dataType && p.dataType ≤ 0x2E && p.channel ≤ 15 && 80 ≤ p.rate && p.rate ≤ 4500 &&
   1 ≤ p.length && p.length ≤ 65536 && (!(p.dataType = 0x2B || p.dataType = 0x2D) || p.length % 4 = 0) &&
   (p.dataType ≠ 0x2C || p.length % 2 = 0) && p.mclk ≤ 3 && (!p.locked || (60 ≤ p.mclkDiv && p.mclkDiv ≤ 500)) && p.share ≤ 8 &&
   (p.share = 0 || p.lanes * p.rate ≤ 800 * p.share * typeBits p.dataType))

/-- The port records of a facet. -/
def portIn (f : Facet) (p : Nat) : PortCfg := tget PortCfg.none f.ports p

/-- Port p is the upper port of a pair of the facet. -/
def upperIn (f : Facet) (p : Nat) : Bool := p % 2 = 1 && (portIn f (p - 1)).bonded

/-- Port p captures under the facet. -/
def capturesIn (f : Facet) (p : Nat) : Bool := (portIn f p).lanes ≠ 0 && (portIn f p).share ≠ 0

/-- Bonding in pairs only, both halves alike (R292); the lower half of a pair that captures has a ring, as every port not bonded. -/
def bondOk (f : Facet) (p : Nat) : Bool :=
  let x := portIn f p
  let y := portIn f (p + 1)
  (!x.bonded || (p % 2 = 0 && x.lanes ≠ 0 && x.dataType = y.dataType && x.channel = y.channel && x.lanes = y.lanes && x.rate = y.rate &&
    x.locked = y.locked)) &&
  (!(capturesIn f p) || upperIn f p || (16 ≤ x.ringLines && x.ringLines ≤ 32768))

/-- Ports together: shares sum to 8 or less (R288), a preview port with lanes and not bonded (R23). -/
def portsRanged (f : Facet) : Bool :=
  (span 0 8).all (fun p => portRanged (portIn f p) && bondOk f p) &&
  ((span 0 8).filter fun p => (portIn f p).lanes ≠ 0).foldl (fun n p => n + (portIn f p).share) 0 ≤ 8 &&
  match f.timing.preview with
  | none => true
  | some p => p ≤ 7 && (portIn f p).lanes ≠ 0 && !(portIn f p).bonded && !(upperIn f p)

/-- Ranges of a present context record (R312, R344, R429). -/
def recordRanged (capacity : Nat) (r : CtxRecord) : Bool :=
  r.module ≤ 254 && 1 ≤ r.level && r.level ≤ 4 && r.ceiling ≤ 15 && (span 0 16).all (fun k => csStepsOf r k ≤ 32) && r.xs ≤ 124 &&
  r.ds ≤ 16320 && r.batch ≤ 2048 && r.sinks ≤ 1024 && 1 ≤ r.allotment && r.allotment ≤ capacity && 1 ≤ r.soft && r.soft ≤ 1024 &&
  r.soft ≤ r.hard && r.hard ≤ 1024

/-- Slots of a pipeline, and no owner at or beyond them (R299, R428). -/
def pipeRanged (p : PipeCfg) : Bool :=
  [1, 2, 3, 4, 6, 12].contains p.slots && (p.owners.drop p.slots).all (fun o => o = 0xFF)

/-- Ranges of an inbox (R348). -/
def inboxRanged (b : InboxCfg) : Bool := b.count = 0 || (32 ≤ b.size && b.size ≤ 65536 && b.count ≤ 4096)

/-- Code 0x02. -/
def rangesOk (m : Memory) (b : Nat) (f : Facet) : Bool :=
  reservedZero m b && timingRanged f.timing && islandRanged f.island && f.balls.all (fun x => x ≤ 0x43) && portsRanged f &&
  (match f.glintPort with
   | none => true
   | some p => p ≤ 7 && !(upperIn f p)) &&
  [1, 2, 3, 5, 9].contains f.setSize && (span 0 4).all (fun v => pipeRanged (tget PipeCfg.none f.videos v)) &&
  f.contexts.all (fun c => !c.2.reserved && (!c.2.present || recordRanged f.timing.capacity c.2)) && f.inboxes.all (fun b => inboxRanged b.2) &&
  f.windows.all fun w => w.size ≤ 16777216

/-! ### 0x03: balls -/

/-- A function code stands on a ball class where it is allowed (R424). -/
def ballAllowed (e : Nat × Nat) : Bool := e.1 = 0 || (if e.2 < 16 then e.1 < 0x10 else 0x10 ≤ e.1)

/-- Codes the enabled units need. -/
def neededBalls (f : Facet) : List Nat :=
  (if 1 ≤ f.timing.source && f.timing.source ≤ 3 then [0x01, 0x02] else if f.timing.source = 4 then [0x04] else []) ++
  (if f.island.owner.isSome then [0x08, 0x09 + f.island.mic / 2] else []) ++ (if f.island.wakeN then [0x07] else []) ++
  ((span 0 8).filter fun n => (tget CciCfg.none f.ccis n).enabled).flatMap (fun n => [0x30 + 2 * n, 0x31 + 2 * n]) ++
  ((span 0 8).filter fun p => (portIn f p).lanes ≠ 0 && (portIn f p).locked).map fun p => 0x40 + (portIn f p).mclk

/-- Code 0x03. -/
def ballsOk (f : Facet) : Bool :=
  let l := f.balls.filter fun x => x ≠ 0
  f.balls.zipIdx.all ballAllowed && l.all (fun x => (l.filter fun y => y = x).length = 1) && (neededBalls f).all f.balls.contains

/-! ### 0x04: timers -/

/-- Least IMAGE cycles of one decoded count of a source (R31, R42). -/
def countCycles (source : Nat) : Nat := if source = 1 then 400 else if source = 2 || source = 4 then 200 else if source = 3 then 100 else 0

/-- Code 0x04. -/
def timersOk (f : Facet) : Bool :=
  let l := (span 0 8).filter fun p => (portIn f p).lanes ≠ 0 && (portIn f p).locked
  l.all (fun p => l.all fun q => (portIn f p).mclk ≠ (portIn f q).mclk || (portIn f p).mclkDiv = (portIn f q).mclkDiv) &&
  (f.timing.source = 0 || f.timing.refPeriod = 0) && countCycles f.timing.source * f.timing.divider ≤ f.timing.interval

/-! ### 0x05: buffers -/

/-- Pixels of a ring's line, a pair's line in its lower port's ring (R231). -/
def lengthIn (f : Facet) (p : Nat) : Nat := (portIn f p).length + if (portIn f p).bonded then (portIn f (p + 1)).length else 0

/-- Line pitch of a port's ring. -/
def pitchIn (f : Facet) (p : Nat) : Nat := 16 * ceilDiv (lengthIn f p * if (portIn f p).dataType = 0x2A then 1 else 2) 16

/-- Ports with a ring. -/
def ringPorts (f : Facet) : List Nat := (span 0 8).filter fun p => capturesIn f p && !(upperIn f p)

/-- What the facet places in XS spaces: owning slot, first byte, size, by the spaces it lies in. -/
def placedIn (f : Facet) : List (Nat × List Nat × Nat × Nat) :=
  (ringPorts f).flatMap (fun p =>
    [((portIn f p).ringOwner, [(portIn f p).ringOwner], (portIn f p).ringKib * 1024, 2 * (portIn f p).ringLines * pitchIn f p),
     ((portIn f p).ringOwner, [(portIn f p).ringOwner], (portIn f p).logKib * 1024, 1024)] ++
    if (portIn f p).bonded then [((portIn f p).ringOwner, [(portIn f p).ringOwner], (portIn f (p + 1)).logKib * 1024, 1024)] else []) ++
  (match f.island.owner with
   | some c => [(c, [c], f.island.windowKib * 1024, 688128)]
   | none => []) ++
  (if f.glintPort.isSome then [(f.glintOwner, [f.glintOwner], f.glintKib * 1024, 4096)] else []) ++
  ((f.ccis.filter fun n => n.2.enabled).map fun n => (n.2.owner, [n.2.owner], n.2.windowKib * 1024, 1024)) ++
  ((f.inboxes.filter fun b => b.2.count ≠ 0).map fun b => (b.1 / 64, [b.1 / 64], 16 * b.2.offset, b.2.size * b.2.count)) ++
  (f.shared.map fun w => (w.writer, w.writer :: (span 0 32).filter (fun c => w.readers.getLsbD c && c ≠ w.writer), w.kib * 1024, w.sizeKib * 1024)) ++
  (f.outboxes.map fun w => (w.owner, [w.owner], w.kib * 1024, w.sizeKib * 1024)) ++
  ((f.windows.filter fun w => w.part = f.partIndex).map fun w => (w.owner, [w.owner], 16 * w.offset, w.size)) ++
  (f.contexts.filter fun c => c.2.present && c.2.reductionSize ≠ 0).map
    fun c => (c.1, [c.1], c.2.reductionKib * 1024, c.2.reductionSize * 1024)

/-- Two placed regions share a space and a byte. -/
def placesOverlap (a b : Nat × List Nat × Nat × Nat) : Bool :=
  a.2.1.any b.2.1.contains && a.2.2.1 < b.2.2.1 + b.2.2.2 && b.2.2.1 < a.2.2.1 + a.2.2.2

/-- Declared XS of a slot's module in bytes, where the boot image holds it (log 19). -/
def declaredXs (image : List ImageModule) (f : Facet) (c : Nat) : Option Nat :=
  let r := tget CtxRecord.none f.contexts c
  if r.present then (image.find? fun m => m.number = r.module).map fun m => 1024 * m.xsKib else none

/-- Every pair of a list, each with those after it. -/
def pairwise {α : Type} (p : α → α → Bool) : List α → Bool
  | [] => true
  | x :: l => l.all (p x) && pairwise p l

/-- Code 0x05. -/
def buffersOk (image : List ImageModule) (f : Facet) : Bool :=
  (ringPorts f).foldl (fun n p => n + (portIn f p).ringLines * pitchIn f p) 0 ≤ 4194304 &&
  (placedIn f).all (fun x => match declaredXs image f x.1 with
    | some n => x.2.2.1 + x.2.2.2 ≤ n
    | none => true) &&
  pairwise (fun a b => !(placesOverlap a b)) (placedIn f)

/-! ### 0x06: ledgers and cores -/

/-- Present records of the facet. -/
def presentIn (f : Facet) : List (Nat × CtxRecord) := f.contexts.filter fun c => c.2.present

/-- A sum over the present records. -/
def totalIn (f : Facet) (g : CtxRecord → Nat) : Nat := (presentIn f).foldl (fun n c => n + g c.2) 0

/-- Initial holdings of chip semaphore k over the present contexts. -/
def initialIn (f : Facet) (k : Nat) : Nat :=
  (f.bindings.filter fun b => b.2.bound && b.2.chip = k && (tget CtxRecord.none f.contexts (b.1 / 64)).present).foldl (fun n b => n + b.2.initial) 0

/-- A record's cores are powered at its level (R345). -/
def coresPowered (r : CtxRecord) : Bool :=
  (enginesOf r).all (fun e => coreLevel (e / 4) ≤ r.level) && (span 0 16).all fun k => csStepsOf r k = 0 || coreLevel k ≤ r.level

/-- Code 0x06; `lost` says which engines are lost (R454, R457). -/
def ledgersOk (lost : Nat → Bool) (f : Facet) : Bool :=
  (span 0 64).all (fun e => totalIn f (esStepsOf · e) ≤ 4 && (totalIn f (esStepsOf · e) = 0 || !(lost e))) &&
  (span 0 16).all (fun k => totalIn f (csStepsOf · k) ≤ 32) && totalIn f (·.xs) ≤ 124 && totalIn f (·.ds) ≤ 16320 &&
  totalIn f (·.batch) ≤ 2048 && f.bindings.all (fun b => initialIn f b.2.chip ≤ (tget SemCfg.none f.sems b.2.chip).total) &&
  (presentIn f).all fun c => coresPowered c.2

/-! ### 0x07: ownership -/

/-- A slot whose record is present. -/
def slotPresent (f : Facet) (c : Nat) : Bool := c < 32 && (tget CtxRecord.none f.contexts c).present

/-- Every owner the facet names. -/
def ownersIn (f : Facet) : List Nat :=
  (ringPorts f).map (fun p => (portIn f p).ringOwner) ++ f.island.owner.toList ++ (if f.glintPort.isSome then [f.glintOwner] else []) ++
  (f.ccis.filter fun n => n.2.enabled).map (fun n => n.2.owner) ++ (f.videos.flatMap fun v => v.2.owners.filter fun o => o ≠ 0xFF) ++
  (f.pages.filter fun o => o ≠ 0xFF) ++ f.shared.map (fun w => w.writer) ++
  (f.windows.filter fun w => w.part = f.partIndex).map fun w => w.owner

/-- Code 0x07. -/
def ownersOk (f : Facet) : Bool :=
  (ownersIn f).all (slotPresent f) && f.windows.all (fun w => w.owner < 32 && w.fromSlot < 32) && f.partIndex < f.setSize &&
  match f.island.owner with
  | some c => (tget Binding.none f.bindings (64 * c + f.island.frameSem)).bound
  | none => true

/-! ### 0x08: the Relay plan -/

/-- Word slots per round that a part's contexts are granted toward a peer number. -/
def grantedSlots (f : Facet) (part peer : Nat) : Nat := (span 0 32).foldl (fun n c => n + tget 0 f.grants (256 * part + 8 * c + peer)) 0

/-- Code 0x08 (R391, R392). -/
def planOk (f : Facet) : Bool :=
  f.windows.all (fun w => w.part < f.setSize && w.fromPart < f.setSize) &&
  (span 0 f.setSize).all fun i => (span 0 (f.setSize - 1)).all fun n => grantedSlots f i n ≤ 25 * portsPerPair f.setSize

/-! ### The check -/

/-- The first failing code of R432, 0 for an accepted facet: the bytes at b, the image's modules, the lost engines. -/
def facetCheck (image : List ImageModule) (lost : Nat → Bool) (m : Memory) (b : Nat) : Nat :=
  let f := facetAt m b
  if !(headerOk m b) then 0x01
  else if !(rangesOk m b f) then 0x02
  else if !(ballsOk f) then 0x03
  else if !(timersOk f) then 0x04
  else if !(buffersOk image f) then 0x05
  else if !(ledgersOk lost f) then 0x06
  else if !(ownersOk f) then 0x07
  else if !(planOk f) then 0x08
  else 0x00

/-- A logical engine of the part is lost. -/
def engineLost (s : State) (e : Nat) : Bool := (coreOf s (e / 4)).lost.getLsbD (e % 4)

/-- NVS offset of facet n (R411). -/
def facetPlace (n : Nat) : Nat := 0x10000 + 0x10000 * n

/-- The check of facet n of the NVS on this part. -/
def checkNvs (s : State) (n : Nat) : Nat := facetCheck s.sec.modules (engineLost s) s.sec.nvs (facetPlace n)

end Sys2Proof.Machine
end

