-- ==== Sys2Proof/Machine/Lix.lean ====
section
/-! DEFINITION. The Line Index and its sources, and collimation (R27 to R34, R42 to R51). -/

namespace Sys2Proof.Machine

open Sys2Proof

/-! ### Settings (R29, R45); the strobe that follows a change is taken with it (log 4) -/

/-- Change the source: the count stays, the phase holds until the new source's first edge, whose interval is not checked. -/
def selectSource (s : State) (v : Nat) : State :=
  { s with lix := { s.lix with source := v, hold := true, firstEdge := true, high := s.lix.position, origin := 0, pulses := 0, due := 0 } }

/-- Change the divider with no line edge added or removed. -/
def selectDivider (s : State) (d : Nat) : State :=
  { s with lix := { s.lix with divider := d, origin := s.lix.high, pulses := 0 } }

/-! ### Source edges -/

/-- The source raises a line edge, which the front end accepts at a strobe (R32, R33). -/
def raiseEdge (s : State) : State := { s with lix := { s.lix with due := s.lix.due + 1 } }

/-- Sensor port p's line-valid (R34). -/
def lineValid (s : State) (p : Nat) : State := if s.lix.source = 8 + p then raiseEdge s else s

/-- Count of a transition of ENC0 (A) or ENC1 (B), with the levels after it (R29). -/
def quadCount (source : Nat) (onA a b : Bool) : Int :=
  if source = 1 then (if onA && !b then (if a then 1 else -1) else 0)
  else if source = 2 then (if onA then (if a != b then 1 else -1) else 0)
  else if source = 3 then (if onA then (if a != b then 1 else -1) else (if a == b then 1 else -1))
  else 0

/-- A position of 64 bits, signed (R29). -/
def wrap64 (x : Int) : Int := signed 64 (lowBits 64 x)

/-- Move the quadrature position; a new highest position may complete a line (R29). -/
def moveBy (s : State) (k : Int) : State :=
  let x := s.lix
  let pos := wrap64 (x.position + k)
  let high := max x.high pos
  let t := { s with lix := { x with position := pos, high := high } }
  if (x.high - x.origin).fdiv x.divider < (high - x.origin).fdiv x.divider then raiseEdge t else t

/-- Count a rising edge of ENC3. -/
def countPulse (s : State) : State :=
  if s.lix.pulses + 1 < s.lix.divider then { s with lix := { s.lix with pulses := s.lix.pulses + 1 } }
  else raiseEdge { s with lix := { s.lix with pulses := 0 } }

/-- Ball function code of an encoder input (R424). -/
def encCode : EncBall → Nat
  | .enc0 => 0x01
  | .enc1 => 0x02
  | .enc3 => 0x04

/-- ENCODER_TRANSITION (R29). A level that is the present one is no transition. -/
def execEncoderTransition (ball : EncBall) (level : Bool) (s : State) : Host.Outcome State Fault Refusal :=
  let x := s.lix
  if !(s.facet.balls.contains (encCode ball)) then .next s
  else match ball with
    | .enc0 =>
      if x.encA = level then .next s
      else .next (moveBy { s with lix := { x with encA := level } } (quadCount x.source true level x.encB))
    | .enc1 =>
      if x.encB = level then .next s
      else .next (moveBy { s with lix := { x with encB := level } } (quadCount x.source false x.encA level))
    | .enc3 =>
      if x.enc3 = level then .next s
      else
        let t := { s with lix := { x with enc3 := level } }
        .next (if level && x.source = 4 then countPulse t else t)

/-- LIX_REF_TICK: the reference period expires (R28). -/
def execLixRefTick (s : State) : Host.Outcome State Fault Refusal :=
  .next (if s.lix.source = 0 then raiseEdge s else s)

/-- ENC_INDEX: a rising edge of ENC2 (R30). -/
def execEncIndex (s : State) : Host.Outcome State Fault Refusal :=
  if !(s.facet.balls.contains 0x03) then .next s
  else
    .next (chipEvent { s with lix := { s.lix with indexCount := s.lix.count, indexPhase := s.lix.phase } } stOk 0x1001C)

/-! ### The accepted edge -/

/-- A context whose line edges count: it has started, and no restart is due. -/
def countsLines (x : Ctx) : Bool :=
  (decide (x.state = .active) || decide (x.state = .parked) || decide (x.state = .stopped)) && !x.starting && x.restart.isNone &&
  x.module.isSome

/-- Line-triggered commands gain an instance at every Nth edge, the first at the context's first edge (R99, R351). -/
def lineInstances (s : State) (c : Nat) : State :=
  let n := (ctxOf s c).progress.lines
  let due (k : Command) : Bool := match k.trigger with
    | .line p => n % p = 0
    | _ => false
  let t := (commandsWhere s c due).foldl (fun t k => addReady t { readyOf c k s.now with line := s.lix.count }) s
  modCtx t c fun x => { x with progress := { x.progress with lines := n + 1 } }

/-- Lines of every context. -/
def allLines (s : State) : State := s.ctxs.foldl (fun t c => if countsLines (ctxOf t c.1) then lineInstances t c.1 else t) s

/-- The interval check of R42; at Stop 0 the island checks in whole ISLAND cycles (R46). -/
def intervalShort (s : State) (interval : Nat) : Bool :=
  if s.lix.islandOnly then
    !s.lix.firstEdge && interval * 16384 / 400000 < s.facet.timing.interval * 16384 / 400000
  else overspeedNow s interval

/-- Set the sticky bit and post the event (R42). -/
def overspeed (s : State) : State := chipEvent { s with lix := { s.lix with overspeed := true, suspended := true } } stOverspeed 0x1000C

/-- The first ARITH edge, not before this one, on which engines see a new count: two past an edge shared with IMAGE (R32, R35), of which beat
0 of a collimation is one. -/
def lineEdge (n : Nat) : Nat := n + (7 - n % 5) % 5

/-- The count advances by one and the phase, which counts ARITH edges and holds at Stop 0, clears, `interval` IMAGE cycles after
the previous edge (R27, R32, R35, R37, R43). The interval check is made two IMAGE cycles before that edge is shared with ARITH, so its
event shows the index five ARITH edges earlier (R35, R42). -/
def acceptEdge (s : State) (interval : Nat) : State :=
  let edge := lineEdge (max s.now (s.lix.edgeAt + interval / 4 * 5))
  let t := if intervalShort s interval then overspeed (advanceTo s (edge - 5)) else s
  { t with now := edge,
           lix := { t.lix with count := t.lix.count + 1, phase := if t.lix.islandOnly then t.lix.phase else 0,
                               hold := t.lix.islandOnly, firstEdge := false, due := t.lix.due - 1,
                               msEdges := t.lix.msEdges + 1, edgeAt := edge,
                               suspended := t.lix.suspended && t.lix.overspeed } }

/-- LIX_LINE_EDGE: the front end, or at Stop 0 the island, accepts an edge its source has raised. -/
def execLixLineEdge (interval : Nat) (s : State) : Host.Outcome State Fault Refusal :=
  if s.lix.due = 0 || !(s.clk.collimated || s.lix.islandOnly) then .next s
  else .next (allLines (acceptEdge s interval))

/-! ### Collimation (R49, R50) -/

/-- Beat 0 of a collimation falls on a multiple of 1,000 of the model's time (log 4). -/
def nextOrigin (n : Nat) : Nat := (n / 1000 + 1) * 1000

/-- A SENSOR_MCLK output is placed on a ball (R424). -/
def mclkPlaced (s : State) (k : Nat) : Bool := s.facet.balls.contains (0x40 + k)

/-- The outputs that run at the present level, whether or not their ports are powered (R506). -/
def mclkOutputs (s : State) : BitVec 4 :=
  if s.iris.stop = 0 then 0 else BitVec.ofNat 4 (((span 0 4).filter (mclkPlaced s)).foldl (fun n k => n + 2 ^ k) 0)

/-- The placed outputs run as the level says. -/
def driveMclk (s : State) : State := { s with clk := { s.clk with mclk := mclkOutputs s } }

/-- The VDD_CORE target that a collimation computes, in mV, written before the dividers are released (R500). -/
def coreTargetAt (edge : Nat) : Nat := 550 + 5 * (Config.coreSteps edge % 31)

/-- CLK_COLLIMATE: the warden gates, holds and releases the dividers once PLL A and PLL B are locked, with SENSOR_MCLK held low (R506) and
the VDD_CORE target of this collimation written (R500). -/
def execClkCollimate (s : State) : Host.Outcome State Fault Refusal :=
  if !(s.clk.lock.getLsbD 0 && s.clk.lock.getLsbD 1) || s.clk.collimated || s.clk.running || s.sys.halted then .next s
  else .next { s with clk := { s.clk with running := true, attempts := 1, mclk := 0, coreTarget := coreTargetAt s.now }, now := nextOrigin s.now }

/-- COLLIMATION_CHECK: the edge counts at beat 64 match, or the sequence is repeated, up to three attempts. -/
def execCollimationCheck (ok : Bool) (s : State) : Host.Outcome State Fault Refusal :=
  if !s.clk.running then .next s
  else if ok then
    .next (driveMclk { s with clk := { s.clk with running := false, collimated := true }, lix := { s.lix with islandOnly := false } })
  else if s.clk.attempts < 3 then
    .next { s with clk := { s.clk with fail := true, attempts := s.clk.attempts + 1 }, now := nextOrigin s.now }
  else
    .next { s with clk := { s.clk with fail := true, running := false }, sys := { s.sys with halted := true, cause := 1 } }

end Sys2Proof.Machine
end

