-- ==== Sys2Proof/Machine/Island.lean ====
section
/-! DEFINITION. The audio island: decimation and encoding, the ring, the shutter, wakes and messages, the control block and the
TDM output (chapter 12). -/

namespace Sys2Proof.Machine

open Sys2Proof

/-! ### Decimation (R321) -/

/-- One PDM bit through the integrators. -/
def cicBit (m : Mic) (b : Bool) : Mic :=
  let x : Int := if b then 1 else -1
  let i1 := m.i1 + x
  let i2 := m.i2 + i1
  let i3 := m.i3 + i2
  { m with i1 := i1, i2 := i2, i3 := i3, i4 := m.i4 + i3 }

/-- A finished y into the taps' line, newest first, and its PCM sample. -/
def firSample (taps : List Int) (m : Mic) (y : Int) : Mic × Int :=
  let l := (y :: m.y).take 32
  ({ m with y := l }, satTo 16 (shiftTz ((List.zipWith (· * ·) taps l).foldl (· + ·) 0) 14))

/-- 192 bits make one sample: the integrators, the combs, the taps. -/
def decimate (taps : List Int) (m : Mic) (bits : List Bool) : Mic × Int :=
  let m := bits.foldl cicBit m
  let d1 := m.i4 - m.c1
  let d2 := d1 - m.c2
  let d3 := d2 - m.c3
  let d4 := d3 - m.c4
  firSample taps { m with c1 := m.i4, c2 := d1, c3 := d2, c4 := d3 } (shiftTz d4 16)

/-! ### IMA ADPCM (R324; the two tables are PRESUMED from the IMA recommendation, log 7) -/

/-- The 89 steps. -/
def imaSteps : List Int :=
  [7, 8, 9, 10, 11, 12, 13, 14, 16, 17, 19, 21, 23, 25, 28, 31, 34, 37, 41, 45, 50, 55, 60, 66, 73, 80, 88, 97, 107, 118] ++
  [130, 143, 157, 173, 190, 209, 230, 253, 279, 307, 337, 371, 408, 449, 494, 544, 598, 658, 724, 796, 876, 963, 1060, 1166] ++
  [1282, 1411, 1552, 1707, 1878, 2066, 2272, 2499, 2749, 3024, 3327, 3660, 4026, 4428, 4871, 5358, 5894, 6484, 7132, 7845] ++
  [8630, 9493, 10442, 11487, 12635, 13899, 15289, 16818, 18500, 20350, 22385, 24623, 27086, 29794, 32767]

/-- Change of the step index by a code's low three bits. -/
def imaIndex : List Int := [-1, -1, -1, -1, 2, 4, 6, 8]

/-- The difference a code stands for. -/
def imaDelta (step : Int) (code : Nat) : Int :=
  let d := step / 8 + (if bit code 2 then step else 0) + (if bit code 1 then step / 2 else 0) + (if bit code 0 then step / 4 else 0)
  if bit code 3 then -d else d

/-- The code of a difference. -/
def imaCode (step diff : Int) : Nat :=
  let a : Int := diff.natAbs
  let c2 := step ≤ a
  let a := if c2 then a - step else a
  let c1 := step / 2 ≤ a
  let a := if c1 then a - step / 2 else a
  let c0 := step / 4 ≤ a
  (if diff < 0 then 8 else 0) + 4 * b2n c2 + 2 * b2n c1 + b2n c0

/-- Encode one sample. -/
def encodeSample (m : Mic) (pcm : Int) : Mic × Nat :=
  let step := nth imaSteps m.index 7
  let code := imaCode step (pcm - m.predictor)
  ({ m with predictor := satTo 16 (m.predictor + imaDelta step code), index := (clamp 0 88 (m.index + nth imaIndex (code % 8) 0)).toNat }, code)

/-- Decimate and encode n samples; short input reads as zeros. -/
def encodeSamples (taps : List Int) : Nat → Mic → List Bool → Mic × List Nat
  | 0, m, _ => (m, [])
  | n + 1, m, bits =>
    let here := (bits.take 192) ++ List.replicate (192 - bits.length) false
    let (m, pcm) := decimate taps m here
    let (m, code) := encodeSample m pcm
    let (m, l) := encodeSamples taps n m (bits.drop 192)
    (m, code :: l)

/-- Two codes a byte, the even sample low. -/
def packCodes : List Nat → List Byte
  | a :: b :: l => BitVec.ofNat 8 (a + 16 * b) :: packCodes l
  | [a] => [BitVec.ofNat 8 a]
  | [] => []

/-! ### The record of a frame (R320, R323) -/

/-- The bits of a data line on the rising edges of PDM_CLK, the first, third and so on of its edges. -/
def risingBits : List Bool → List Bool
  | a :: _ :: l => a :: risingBits l
  | l => l

/-- Channel c's bits: line c / 2 as read on every edge of PDM_CLK, from a rising one; an odd channel takes the falling edges (R320). -/
def channelBits (pdm : List (List Bool)) (c : Nat) : List Bool := risingBits ((pdm.getD (c / 2) []).drop (c % 2))

/-- Channel c captures over some of frame k, from this sample of it. -/
def capturesFrom (s : State) (c k : Nat) : Option Nat :=
  let m := tget Mic.idle s.island.mics c
  if m.capturing && m.start < 160 * (k + 1) then some (m.start - 160 * k) else none

/-- A channel's part of a frame: filter state after it, header, codes. -/
def channelFrame (s : State) (k c : Nat) (pdm : List Bool) : Mic × List Byte × List Byte :=
  let m := tget Mic.idle s.island.mics c
  match capturesFrom s c k with
  | none => (m, bytesLe 0 4, List.replicate 80 0)
  | some from_ =>
    let (n, codes) := encodeSamples s.island.fir (160 - from_) m (pdm.drop (192 * from_))
    let head := if from_ = 0 then bytesLe (lowBits 16 m.predictor) 2 ++ bytesLe m.index 1 ++ bytesLe 0 1 else bytesLe 0 4
    (n, head, packCodes (List.replicate from_ 0 ++ codes))

/-- The record of frame k and the microphones after it. -/
def frameRecord (s : State) (k : Nat) (pdm : List (List Bool)) (fired : Bool) : Table Mic × List Byte :=
  let i := s.island
  let l := (span 0 8).map fun c => (c, channelFrame s k c (channelBits pdm c))
  let mask := ((span 0 8).filter fun c => (capturesFrom s c k).isSome).foldl (fun n c => n + 2 ^ c) 0
  let marks := b2n fired + 2 * b2n i.frameWakeN + 4 * b2n i.frameHandOff
  (l.foldl (fun t x => tset Mic.idle t x.1 x.2.1) i.mics,
   bytesLe k 6 ++ bytesLe 0 2 ++ bytesLe mask 1 ++ bytesLe marks 1 ++ bytesLe i.lastScore.toNat 2 ++ bytesLe 0 4 ++
     (l.flatMap fun x => x.2.2.1) ++ (l.flatMap fun x => x.2.2.2))

/-! ### The control block (R338, R79) -/

/-- The part's fields of the control block reach the owner's window, 8 bytes at a time where they change. -/
def showIsland (s : State) : State :=
  match s.facet.island.owner with
  | none => s
  | some c =>
    let b := controlBlock s
    (span 0 16).foldl (fun t k =>
      let new := (b.drop (8 * k)).take 8
      if new = rdBytes s.island.shown (8 * k) 8 then t
      else
        let (v, t) := timedValue t c (s.facet.island.windowKib * 1024 + 688000 + 8 * k) new
        { t with island := { t.island with shown := wrBytes t.island.shown (8 * k) v } }) s

/-- TDM sample frames in a sample period (R339). -/
def tdmRate (s : State) : Nat := if s.facet.island.tdm48 then 3 else 1

/-- Sample frames of the playing entry so far. -/
def playedSoFar (s : State) (p : Play) : Nat := min p.frames (s.island.position * tdmRate s - s.island.playStart)

/-- The played count of the entry that plays, as the tick leaves it (R338; written once a tick: DESIGN CHOICE, log 18). -/
def showPlayed (s : State) : State :=
  match s.island.playing with
  | none => s
  | some e =>
    let p := tget Play.empty s.island.plays e
    showIsland { s with island := { s.island with plays := tset Play.empty s.island.plays e { p with played := playedSoFar s p } } }

/-! ### Messages (R334) -/

/-- The 32 bytes of a message. -/
def messageBytes (m : IslandMsg) : List Byte :=
  bytesLe m.kind 1 ++ bytesLe m.level 1 ++ bytesLe m.cause.toNat 1 ++ bytesLe 0 1 ++ bytesLe m.session 4 ++ bytesLe m.handOff 6 ++
  bytesLe 0 2 ++ bytesLe m.wakeAt 6 ++ bytesLe 0 2 ++ bytesLe m.score.toNat 2 ++ bytesLe 0 6

/-- The owner is active. -/
def ownerActive (s : State) : Bool :=
  match s.facet.island.owner with
  | some c => decide ((ctxOf s c).state = .active)
  | none => false

/-- Post a message into the owner's inbox. -/
def deliver (s : State) (m : IslandMsg) : State := (arrive s (s.facet.island.owner.getD 0) s.facet.island.inbox 3 0 (messageBytes m)).2

/-- Post the held messages, oldest first. -/
def deliverHeld (s : State) : State :=
  s.island.held.foldl deliver { s with island := { s.island with held := [] } }

/-- Hold a message; the oldest of nine is dropped with an event. -/
def holdMessage (s : State) (m : IslandMsg) : State :=
  let l := s.island.held ++ [m]
  let t := { s with island := { s.island with held := l.drop (l.length - 8) } }
  if 8 < l.length then postEvent t stLength (s.facet.island.owner.getD 0xFF) 0xA0004 [] else t

/-- A message falls due. -/
def postMessage (s : State) (m : IslandMsg) : State := if ownerActive s then deliver (deliverHeld s) m else holdMessage s m

/-- A message of the running session. -/
def sessionMessage (s : State) (kind level : Nat) (cause : BitVec 8) : IslandMsg :=
  { kind := kind, level := level, cause := cause, session := s.island.sessions % 2 ^ 32, handOff := s.island.position,
    wakeAt := s.island.wakeAt, score := s.island.wakeScore }

/-! ### Deciding a raise (R378) -/

/-- Levels of ready instances whose context is not stopped. -/
def readyLevel (s : State) : Nat :=
  (s.ready.filter fun r => decide ((ctxOf s r.slot).state ≠ .stopped)).foldl (fun n r => max n (ctxOf s r.slot).granted.level) 0

/-- The level the triggers ask for (R378). -/
def raiseAsked (s : State) : Nat :=
  max (if s.island.wakePending then 1 else 0) (max s.iris.asked (max (readyLevel s) s.facet.timing.floor))

/-- Decide a raise (R378, R381, R502): to what is asked, no higher than the limit allows, not while a transition runs, and from
Stop 0 not within 2 ms of the fall of MAIN_EN. -/
def decideRaise (s : State) : State :=
  let i := s.iris
  let target := min (raiseAsked s) (allowedStop s)
  if i.raising || i.lowering || target ≤ i.stop || (i.stop = 0 && !i.mainEn && i.mainOff < 2) then s
  else { s with iris := { i with raising := true, target := target, railsDue := i.stop = 0, mainEn := true } }

/-- A wake decides a raise on its own tick, once Iris governs (R333). -/
def raiseForWake (s : State) : State := if s.sys.ready && !s.sys.halted then decideRaise s else s

/-! ### Wake and hand-off (R322, R332 to R334, R329) -/

/-- The other channels start at the first hand-off position of the session (R322). -/
def startMics (s : State) : State :=
  let t := (span 0 8).foldl (fun t c =>
    if (tget Mic.idle t c).capturing then t else tset Mic.idle t c { Mic.idle with capturing := true, start := s.island.position })
    s.island.mics
  { s with island := { s.island with mics := t } }

/-- The tick ends a frame, and its RING_FRAME_END is still to come. -/
def frameEndDue (s : State) : Bool :=
  s.island.position % 160 = 0 && s.island.frames < s.island.position / 160 && s.sys.powerGood

/-- Mark the frame that a hand-off falls in: the one its position lies in (R323). -/
def markHandOff (s : State) : State :=
  { s with island := if frameEndDue s then { s.island with nextHandOff := true } else { s.island with frameHandOff := true } }

/-- Mark the frame that a press of WAKE_N falls in. -/
def markPress (s : State) : State :=
  { s with island := if frameEndDue s then { s.island with nextWakeN := true } else { s.island with frameWakeN := true } }

/-- The time-out is reloaded; a decrement of the same tick counts from what the reload found (R337). -/
def reloadTimeout (s : State) : State :=
  let i := s.island
  { s with island := { i with timeout := s.facet.island.timeout,
                              reloadFrom := if frameEndDue s then some (i.reloadFrom.getD i.timeout) else i.reloadFrom } }

/-- A hand-off: kind 1 is the wake's, later ones are kind 2. -/
def handOff (s : State) : State :=
  let kind := if s.island.handedOff then 2 else 1
  let t := postMessage s (sessionMessage s kind s.iris.stop s.island.wakeCause)
  let t := if s.island.handedOff then t else startMics t
  markHandOff { t with island := { t.island with handedOff := true, wakePending := false } }

/-- The shutter opens (R326): the time-out is loaded, the session counts, and the hand-off follows where the part is at Stop 1 and
is not going to Stop 0 (R334, R342). -/
def openShutter (s : State) (cause : BitVec 8) (score : BitVec 16) (at_ : Nat) : State :=
  let i := s.island
  let t := { s with island := { i with open_ := true, sessions := (i.sessions + 1) % 2 ^ 32, timeout := s.facet.island.timeout, closeEnd := false,
                                       closeOwner := false, closeFacet := false, closeTime := false, closing := false,
                                       wakeCause := cause, wakeAt := at_, wakeScore := score, wakePending := true,
                                       handedOff := false } }
  if 1 ≤ s.iris.stop && !(s.iris.lowering && s.iris.target = 0) then handOff t else t

/-- The tick closes the shutter unless a wake falls on it. -/
def closingTick (s : State) : Bool :=
  s.island.closing || (frameEndDue s && (s.island.closeEnd || s.island.closeOwner || s.island.closeFacet))

/-- A wake while the shutter is open reloads the time-out; on a closing tick it keeps the shutter open, but for the owner's close,
after which it opens a new session; an end request of the same tick is discarded (R26, R329, R342). -/
def wakeOpen (s : State) (cause : BitVec 8) (score : BitVec 16) : State :=
  let i := s.island
  let same := i.wakeAt = i.position
  let t := { s with island := { i with timeout := s.facet.island.timeout, wakeCause := if same then i.wakeCause ||| cause else i.wakeCause,
                                       closeEnd := i.closeEnd && i.endAt ≠ (s.now, i.position) } }
  if !(closingTick s) then t
  else if i.closeOwner then { t with island := { t.island with wakeNext := some (cause, score, i.position) } }
  else { t with island := { t.island with closing := false, closeEnd := false, closeFacet := false, closeTime := false } }

/-- A wake. -/
def wake (s : State) (cause : BitVec 8) (score : BitVec 16) : State :=
  let s := { s with island := { s.island with wokeAt := (s.now, s.island.position) } }
  if s.island.open_ then wakeOpen s cause score else openShutter s cause score s.island.position

/-- A wake of this tick is already put off to the next frame end (R329). -/
def wakePutOff (s : State) : Bool := s.island.wakeNext.any fun w => w.2.2 = s.island.position

/-- A press of WAKE_N is recognised on this tick (R333). -/
def pressHere (s : State) : Bool :=
  s.facet.island.wakeN && s.island.lowTicks = 2 && s.facet.island.owner.isSome && !s.sys.halted

/-- Such a press, while no wake has come on the tick yet. -/
def pressDue (s : State) : Bool := pressHere s && s.island.wokeAt.2 ≠ s.island.position

/-- WAKE_N_PRESS: recognised on the second of two ticks that read it low (R333); a firing of the detector for the frame that the tick
ends is the same wake (R26). -/
def execWakeNPress (s : State) : Host.Outcome State Fault Refusal :=
  if !(pressHere s) || wakePutOff s then .next s
  else
    let fired := if frameEndDue s then s.island.bestScore else none
    .next (showIsland (raiseForWake (wake (markPress s) (if fired.isSome then 3 else 2) (fired.getD 0))))

/-- KEYWORD_EVAL: the evaluation's slot ends and its score is taken (R332). -/
def execKeywordEval (score : BitVec 16) (s : State) : Host.Outcome State Fault Refusal :=
  let i := s.island
  if !i.detector || s.facet.island.owner.isNone || 10 ≤ i.evals then .next s
  else
    let best := if s.facet.island.threshold ≤ score.toInt then
        some (match i.bestScore with
          | some b => if b.toInt < score.toInt then score else b
          | none => score)
      else i.bestScore
    .next { s with island := { i with evals := i.evals + 1, lastScore := score, bestScore := best } }

/-! ### The end of a frame (R325, R326, R337) -/

/-- An entry is queued or plays. -/
def outputBusy (s : State) : Bool := s.island.plays.any fun e => e.2.state = 1 || e.2.state = 2

/-- WAKE_N is held: the facet gives it to the island and the last tick read it low (R333). -/
def wakeHeld (s : State) : Bool := s.facet.island.wakeN && 0 < s.island.lowTicks

/-- The time-out of an open session counts, before a reload of the same tick; a count that reaches 0 closes though the tick reloads it,
unless by a wake (R329, R337; DEDUCED, log 109). -/
def countDown (s : State) : State :=
  let i := s.island
  if !i.open_ || outputBusy s || wakeHeld s || i.wokeAt.2 = i.position then s
  else { s with island := { i with timeout := match i.reloadFrom with
      | none => i.timeout - 1
      | some n => if n ≤ 1 then 0 else i.timeout } }

/-- A close is due on this frame-end tick. -/
def closeDue (s : State) : Bool :=
  s.island.open_ && (s.island.closeEnd || s.island.closeOwner || s.island.closeFacet || s.island.timeout = 0)

/-- The wakes of a frame-end tick: the one an owner's close put off, and the tick's own, of the detector, of a press that is still to be
handled, or of both at once (R26, R329, R332, R333). -/
def frameWakes (s : State) (next : Option (BitVec 8 × BitVec 16 × Nat)) (fired : Option (BitVec 16)) : State :=
  let t := match next with
    | some w => if s.island.open_ then wakeOpen s w.1 w.2.1 else openShutter s w.1 w.2.1 w.2.2
    | none => s
  if fired.isSome || pressDue s then wake t (BitVec.ofNat 8 (b2n fired.isSome + 2 * b2n (pressDue s))) (fired.getD 0) else t

/-- What the tick that ends a frame leaves for the next: its marks, its scores, and a wake that this tick has put off. -/
def nextFrame (i : Island) (frames : Nat) : Island :=
  { i with frames := frames, evals := 0, bestScore := none, reloadFrom := none, frameWakeN := i.nextWakeN, nextWakeN := false,
           frameHandOff := i.nextHandOff, nextHandOff := false, wakeNext := i.wakeNext.filter fun w => w.2.2 = i.position }

/-- RING_FRAME_END: the tick that ends frame k starts its burst; the time-out counts, a wake takes effect, a due close is marked. -/
def execRingFrameEnd (pdm : List (List Bool)) (s : State) : Host.Outcome State Fault Refusal :=
  let i := s.island
  if !(frameEndDue s) then .next s
  else
    let k := i.position / 160 - 1
    let (mics, bytes) := frameRecord s k pdm i.bestScore.isSome
    let t := countDown s
    let t := { t with island := { nextFrame t.island (k + 1) with
      mics := mics, burst := if s.facet.island.owner.isSome then some (k, bytes) else none } }
    let t := { t with island := { t.island with closing := closeDue t, closeTime := t.island.open_ && t.island.timeout = 0 } }
    let t := raiseForWake (frameWakes t (i.wakeNext.filter fun w => w.2.2 ≠ i.position) i.bestScore)
    .next (showIsland (if t.lix.source = 5 then raiseEdge t else t))

/-- Words of the ring slot of frame k, which a burst writes whole. -/
def slotWord (k w : Nat) : Bool := 43 * (k % 1000) ≤ w && w < 43 * (k % 1000) + 43

/-- RING_FRAME_WRITE_DONE: the burst is in the ring and accepted; the frame semaphore is posted while the shutter is open (R336). -/
def execRingFrameWriteDone (s : State) : Host.Outcome State Fault Refusal :=
  let i := s.island
  match i.burst with
  | none => .next s
  | some (k, b) =>
    if i.closing || i.clearing then .next s
    else
      let t := { s with island := { i with burst := none, newest := some k, ring := wrBytes i.ring (688 * (k % 1000)) b,
                                           upRing := i.upRing.filter fun e => !(slotWord k e.1),
                                           written := tset false i.written (k % 1000) true } }
      match s.facet.island.owner with
      | some c => .next (if i.open_ then unitPostBound t c s.facet.island.frameSem else t)
      | none => .next t

/-! ### TDM (R339, R340) -/

/-- A set bit count below position n of a slot mask. -/
def slotPlace (p : Play) (n : Nat) : Nat := ones p.mask.toNat n

/-- First byte of sample frame k of an entry's PCM. -/
def framePlace (p : Play) (k : Nat) : Nat := 16 * p.offset + 2 * k * slotPlace p 8

/-- The 8 slot words of sample frame k of an entry: a sample in the upper half of each slot of its mask, 0 elsewhere. -/
def slotWords (s : State) (c : Nat) (p : Play) (k : Nat) : List Word :=
  (span 0 8).map fun n =>
    if p.mask.getLsbD n then
      let a := framePlace p k + 2 * slotPlace p n
      BitVec.ofNat 32 (65536 * ((xsByte s c a).toNat + 256 * (xsByte s c (a + 1)).toNat))
    else 0

/-- Sample frame that the playing entry gives TDM frame n. -/
def playedFrame (s : State) (n : Nat) : Option (Play × Nat) :=
  match s.island.playing with
  | none => none
  | some e =>
    let p := tget Play.empty s.island.plays e
    if s.island.playStart ≤ n && n - s.island.playStart < p.frames then some (p, n - s.island.playStart) else none

/-- The slot words of TDM frame n. -/
def tdmFrame (s : State) (n : Nat) : List Word :=
  match playedFrame s n, s.facet.island.owner with
  | some (p, k), some c => slotWords s c p k
  | _, _ => List.replicate 8 0

/-- Words of the owner's XS that the TDM frames of a list are read from. -/
def tdmReads (s : State) (l : List Nat) : List Nat :=
  (l.flatMap fun n =>
    match playedFrame s n with
    | some (p, k) => (span (framePlace p k) (2 * slotPlace p 8)).map fun a => a / 16
    | none => []).eraseDups

/-- The TDM output of the present millisecond from TDM frame `from_` on; earlier frames stay as they went out. -/
def driveTdm (s : State) (from_ : Nat) : State :=
  if s.iris.stop = 0 then { s with island := { s.island with tdm := [] } }
  else
    let first := s.island.position * tdmRate s
    let l := span first (16 * tdmRate s)
    let t := partReads s (s.facet.island.owner.getD 0) (tdmReads s (l.filter fun n => from_ ≤ n))
    { t with island := { t.island with tdm := l.map fun n =>
        if n < from_ then s.island.tdm.getD (n - first) (List.replicate 8 0) else tdmFrame s n } }

/-- TDM_FS and TDM_DOUT in BCLK period n of the present millisecond; none while the balls are held low (R339). -/
def tdmBalls (s : State) (n : Nat) : Option (Bool × Bool) :=
  if s.island.tdm = [] then none
  else some (decide (n % 256 = 255), ((s.island.tdm.getD (n / 256) []).getD (n / 32 % 8) 0).getLsbD (31 - n % 32))

/-! ### Closing (R327, R341) -/

/-- Queued and playing entries stop, done (R341). -/
def stopPlays (s : State) : State :=
  let t := (span 0 4).foldl (fun t e =>
    let p := tget Play.empty t e
    if p.state = 1 then tset Play.empty t e { p with state := 3 }
    else if p.state = 2 then tset Play.empty t e { p with state := 3, played := playedSoFar s p }
    else t) s.island.plays
  driveTdm { s with island := { s.island with plays := t, playing := none } } 0

/-- Causes of a close, as message bits. -/
def closeCause (i : Island) : BitVec 8 :=
  BitVec.ofNat 8 (4 * b2n i.closeTime + 8 * b2n i.closeEnd + 16 * b2n (i.closeOwner || i.closeFacet))

/-- The listening microphone runs on with the encoder's zero state; the others stop. -/
def quietMics (s : State) : Table Mic := tmod Mic.idle (onlyListening s) (listening s) fun m => { m with predictor := 0, index := 0 }

/-- Write zero into an element: space, bit address, width; space 5 is the register a scalar LOAD writes. -/
def zeroPiece (r : Run) (p : Nat × Nat × Nat) : Run :=
  let (sp, b, width) := p
  if sp = 5 then { r with i := setReg r.i b 0 }
  else if width = 4 then
    let old := (ldByte r sp (b / 8)).toNat
    stByte r sp (b / 8) (BitVec.ofNat 8 (if b % 8 = 4 then old % 16 else 16 * (old / 16)))
  else stBytes r sp (b / 8) (List.replicate (width / 8) 0)

/-- The elements with a word that an edge cuts off are zero (R331). -/
def cutPieces (r : Run) (m : RingMove) (cut : Nat) : Run :=
  ((m.pieces.filter fun p => cut ≤ p.1).map (·.2)).foldl zeroPiece r

/-- A close accepted on an edge cuts the ring moves in flight on an engine; a cut LOAD, COPY or GATHER fails with SHUTTER_DENIED
on its completion edge (R143, R331). -/
def cutEngine (cut : Nat) (s : State) (e : Nat) : State :=
  match (engOf s e).run with
  | none => s
  | some i =>
    match (i.queue.filter fun x => x.ring.any fun m => cut ≤ m.last) with
    | [] => s
    | x :: rest =>
      let r := (x :: rest).foldl (fun r y => match y.ring with
        | some m => cutPieces r m cut
        | none => r) { s := s, i := i }
      match ((x :: rest).find? fun y => y.ring.any fun m => m.fails) with
      | none => setInst r.s e r.i
      | some y =>
        let idx := (y.ring.map (·.idx)).getD 0
        let t := advanceTo r.s y.done
        let i := { r.i with queue := r.i.queue.filter fun z => y.done < z.done, failed := some (stShutter, idx) }
        if (ctxOf t i.origin.slot).tear.isSome then setInst t e i else endUncommitted t i 2

/-- The ring moves in flight are cut on the edge on which the close is accepted, 1 to 3 ARITH edges on: a free value (R331, R513). -/
def cutMoves (s : State) : State :=
  if s.engines.any fun x => x.2.run.any fun i => i.queue.any fun y => y.ring.isSome then
    let (w, t) := freshWord s
    (t.engines.map (·.1)).foldl (cutEngine (s.now + 1 + w.toNat % 3)) t
  else s

/-- The actions of a closing tick, in the order of R327. -/
def closeShutter (s : State) : State :=
  let t := stopPlays (cutMoves s)
  let i := t.island
  let m := sessionMessage t 3 0 (closeCause i)
  let t := { t with island := { i with open_ := false, burst := none, closedFrame := some (i.frames - 1), written := [], clearing := true,
                                       mics := quietMics t, closing := false, closeEnd := false, closeOwner := false, closeFacet := false,
                                       closeTime := false, wakePending := false, handedOff := false } }
  showIsland (postMessage t m)

/-- SESSION_TIMEOUT: the time-out has reached 0 on a frame-end tick (R337). -/
def execSessionTimeout (s : State) : Host.Outcome State Fault Refusal :=
  .next (if s.island.closing && s.island.closeTime then closeShutter s else s)

/-- SHUTTER_CLOSE: a closing tick (R327). -/
def execShutterClose (s : State) : Host.Outcome State Fault Refusal :=
  let i := s.island
  .next (if i.closing && (i.closeEnd || i.closeOwner || i.closeFacet) then closeShutter s else s)

/-- RING_CLEAR_DONE: every slot is zero (R327). -/
def execRingClearDone (s : State) : Host.Outcome State Fault Refusal :=
  .next (if s.island.clearing then { s with island := { s.island with clearing := false, ring := [], upRing := [] } } else s)

/-! ### Requests (R338) -/

/-- END_REQUEST: it closes the shutter at the next frame end, or is discarded where the shutter is closed or a wake falls on the same
tick (R342). -/
def execEndRequest (s : State) : Host.Outcome State Fault Refusal :=
  let i := s.island
  let here := (s.now, i.position)
  .next (if i.endBit then
      { s with island := { i with endBit := false, endAt := here, closeEnd := i.closeEnd || (i.open_ && i.wokeAt ≠ here) } }
    else s)

/-- EXTEND_REQUEST: it reloads the time-out of an open session. -/
def execExtendRequest (s : State) : Host.Outcome State Fault Refusal :=
  let i := s.island
  .next (if i.extendBit then
      let t := { s with island := { i with extendBit := false } }
      if i.open_ then reloadTimeout t else t
    else s)

/-- ISLAND_MESSAGE_POST: the held messages, once the owner is active (R334). -/
def execIslandMessagePost (s : State) : Host.Outcome State Fault Refusal :=
  .next (if ownerActive s && s.island.held ≠ [] then deliverHeld s else s)

/-! ### Output (R339 to R341) -/

/-- Bytes of an entry's PCM. -/
def playSize (p : Play) : Nat := 2 * p.frames * ones p.mask.toNat 8

/-- An entry the island can play (R340). -/
def playOk (s : State) (p : Play) : Bool :=
  match s.facet.island.owner with
  | some c => 1 ≤ p.frames && p.frames ≤ 16777216 && 16 * p.offset + playSize p ≤ (moduleOf s c).xsKib * 1024
  | none => false

/-- PLAY_ENTRY_QUEUED: an entry reaches the island; it is queued or rejected (R338, R340). -/
def execPlayEntryQueued (i : Nat) (s : State) : Host.Outcome State Fault Refusal :=
  let p := tget Play.empty s.island.bridge i
  let now := tget Play.empty s.island.plays i
  if p.state ≠ 1 then .next s
  else
    let t := { s with island := { s.island with bridge := tset Play.empty s.island.bridge i Play.empty } }
    if now.state = 1 || now.state = 2 then .next t
    else
      let put (x : Play) : State := { t with island := { t.island with plays := tset Play.empty t.island.plays i x } }
      if !s.island.open_ then .next (showIsland (put { p with state := 4 }))
      else if !(playOk s p) then .next (showIsland (postEvent (put { p with state := 4 }) stLength (s.facet.island.owner.getD 0xFF) 0xA0004 []))
      else .next (showIsland (put { p with arrived := s.island.position }))

/-- Entry e starts on a TDM frame; the next play entry is the one after it. -/
def startPlay (s : State) (e frame : Nat) : State :=
  let p := tget Play.empty s.island.plays e
  { s with island := { s.island with plays := tset Play.empty s.island.plays e { p with state := 2 }, playing := some e, playStart := frame,
                                     nextPlay := (e + 1) % 4 } }

/-- The queued entry that plays next: in index order from the next play entry, round again (R340). -/
def queuedNext (i : Island) : Option Nat :=
  firstWhere (fun e => (tget Play.empty i.plays e).state = 1) ((span 0 4).map fun d => (i.nextPlay + d) % 4)

/-- A frame-end tick has come since an entry arrived. -/
def playDue (i : Island) (e : Nat) : Bool := (tget Play.empty i.plays e).arrived < i.position / 160 * 160

/-- PLAY_ENTRY_START: the next queued entry starts on the TDM frame of a frame-end tick after its arrival (R340). -/
def execPlayEntryStart (s : State) : Host.Outcome State Fault Refusal :=
  let i := s.island
  match queuedNext i with
  | some e =>
    if i.playing.isSome || !(playDue i e) || s.iris.stop = 0 || i.position % 160 ≠ 0 then .next s
    else .next (showIsland (driveTdm (startPlay s e (i.position * tdmRate s)) (i.position * tdmRate s)))
  | none => .next s

/-- What follows the end of an entry: the next queued one on the TDM frame after its last, or, after the last, the time-out's reload
(R337, R340). -/
def afterPlay (s : State) (frame : Nat) : State :=
  match queuedNext s.island with
  | some e => if playDue s.island e then startPlay s e frame else s
  | none => if s.island.open_ then reloadTimeout s else s

/-- PLAY_ENTRY_END: the entry is done. -/
def execPlayEntryEnd (s : State) : Host.Outcome State Fault Refusal :=
  let i := s.island
  match i.playing with
  | none => .next s
  | some e =>
    let p := tget Play.empty i.plays e
    let t := { s with island := { i with plays := tset Play.empty i.plays e { p with state := 3, played := p.frames }, playing := none } }
    .next (showIsland (driveTdm (afterPlay t (i.playStart + p.frames)) (i.playStart + p.frames)))

end Sys2Proof.Machine
end

