-- ==== Sys2Proof/Machine/Issue.lean ====
section
/-! DEFINITION. Issue (R94, R95, R122 to R124, R130): when an instruction of an engine's instance issues, what it charges, how a
failing or an informational status is kept, marks (R445), and the position in the stream (R97, R132). -/

namespace Sys2Proof.Machine

open Sys2Proof

/-- A failing check: the state with nothing of the instruction moved, the status, the count where its formula is evaluated
(R128), and the charge beside class C. -/
structure Fail where
  r : Run
  status : Nat
  count : Option Nat
  pj : Nat

/-- What an instruction does: its data effects, status, queue (R122; 0 is the issue stage), occupancy, count, charge beside
class C, the bytes it reads and writes for the loader's waits (R95), its destination digests (R442, R445). -/
structure Act where
  r : Run
  status : Nat
  queue : Nat
  occ : Nat
  count : Nat
  pj : Nat
  reads : List (Nat × Nat × Nat)
  writes : List (Nat × Nat × Nat)
  digest : Option (BitVec 64)
  mark : Option (BitVec 64)
  /-- The quantity a declared maximum bounds, and the kinds of variable it is (R114). -/
  size : Nat
  sizeKinds : List Nat := [3, 4]
  /-- A move from the audio ring, its edges counted from the issue (R331). -/
  ring : Option RingMove := none

/-- The effect of a queued instruction. -/
abbrev Effect := Run → Except Fail Act

/-- A failing check with nothing evaluated. -/
def failed {α : Type} (r : Run) (st : Nat) : Except Fail α := .error { r := r, status := st, count := none, pj := 0 }

/-- A check before any data moves. -/
def check {α : Type} (r : Run) (x : Except Nat α) : Except Fail α :=
  match x with
  | .ok a => .ok a
  | .error st => failed r st

/-- A condition that must hold, or the status. -/
def need (r : Run) (p : Bool) (st : Nat) : Except Fail Unit := if p then .ok () else failed r st

/-- The reads of a view, with the words' errors. -/
def reading (r : Run) (v : View) : Except Fail (Run × Bool) :=
  match readView r v with
  | .ok x => .ok x
  | .error (q, st) => failed q st

/-- Words of a space are read: their errors. -/
def scanning (r : Run) (sp : Nat) (addrs : List Nat) : Except Fail (Run × Bool) :=
  match scanWords r sp addrs with
  | .ok x => .ok x
  | .error (q, st) => failed q st

/-- The reads of bytes of a space, with the words' errors and the mark of R101. -/
def readingBytes (r : Run) (sp : Nat) (addrs : List Nat) : Except Fail (Run × Bool) :=
  (scanning r sp addrs).map fun x => (noteReads x.1 sp addrs, x.2)

/-- Words that a write of elements covers in part are read first (R512). -/
def writing (r : Run) (v : View) (ts : List (List Nat)) : Except Fail (Run × Bool) := scanning r v.space (v.partialBytes ts)

/-- The scale entries of a view's channels are read. -/
def readingScales (r : Run) (v : View) : Except Fail (Run × Bool) :=
  if v.scaled && scaleFits v then scanning r 2 (span (scaleAt r.s r.slot v.bank 0) (16 * v.channels)) else .ok (r, false)

/-- The status of an act: its own, or ECC_CORRECTED where a word was corrected (R217). -/
def corrected (c : Bool) : Nat := if c then stCorrected else stOk

/-- Bytes of a view as a footprint. -/
def foot (v : View) : List (Nat × Nat × Nat) :=
  match v.span with
  | none => []
  | some (lo, hi) => [(v.space, lo.toNat, hi.toNat)]

/-- The scale entries of a view as a footprint. -/
def footScale (r : Run) (v : View) : List (Nat × Nat × Nat) :=
  if v.scaled then [(2, scaleAt r.s r.slot v.bank 0, scaleAt r.s r.slot v.bank (v.channels - 1) + 15)] else []

/-- Descriptor k as a footprint. -/
def footDesc (r : Run) (k : Nat) : List (Nat × Nat × Nat) :=
  let at_ := (moduleOf r.s r.slot).descKib * 1024 + 64 * k
  [(2, at_, at_ + 63)]

/-- The accumulator bank as a footprint. -/
def footBank : List (Nat × Nat × Nat) := [(4, 0, 0)]

/-- A scalar register as a footprint. -/
def footReg (n : Nat) : List (Nat × Nat × Nat) := [(5, n, n)]

/-! ### Position in the stream -/

/-- At the end of a loop's body: the next trip, or past the loop (R132). -/
def wrapLoops : Nat → Inst → Inst
  | 0, i => i
  | n + 1, i =>
    match i.loops with
    | [] => i
    | l :: rest =>
      if l.depth = i.calls.length && i.pc = l.last + 1 then
        if l.trip + 1 < l.trips then
          let j := { i with pc := l.first, loops := { l with trip := l.trip + 1 } :: rest }
          match l.reg with
          | some k => setReg j k (BitVec.ofNat 32 (l.trip + 1))
          | none => j
        else wrapLoops n { i with loops := rest }
      else i

/-- The next instruction in order. -/
def nextPc (i : Inst) : Inst := wrapLoops 5 { i with pc := i.pc + 1 }

/-- A branch: it leaves every active loop of this call whose body does not hold the target (R132). -/
def branchTo (i : Inst) (pc : Nat) : Inst :=
  { i with pc := pc, loops := i.loops.dropWhile fun l => l.depth = i.calls.length && !(l.first ≤ pc && pc ≤ l.last) }

/-! ### Edges -/

def overlaps (a b : Nat × Nat × Nat) : Bool := a.1 = b.1 && a.2.1 ≤ b.2.2 && b.2.1 ≤ a.2.2

/-- A later instruction waits for an entry (R95): it reads or writes what the entry writes, or writes what it reads. The bank
is waited for by its readers only (R223). -/
def dependsOn (e : Entry) (reads writes : List (Nat × Nat × Nat)) : Bool :=
  e.writes.any (fun x => reads.any (overlaps x)) ||
  e.writes.any (fun x => x.1 ≠ 4 && writes.any (overlaps x)) ||
  e.reads.any (fun x => x.1 < 4 && writes.any (overlaps x))

/-- The latest completion among entries, not before t. -/
def lastDone (l : List Entry) (t : Nat) : Nat := l.foldl (fun m e => max m e.done) t

/-- The wait bits (R94). -/
def waitEdge (i : Inst) (w : Insn) (t : Nat) : Nat :=
  lastDone (i.queue.filter fun e => e.queue ≠ 0 && w.waits.getLsbD (e.queue - 1)) t

/-- Capacity of a queue (R123). -/
def queueCap (q : Nat) : Nat := if q = 1 then 64 else 8

/-- A full queue: the edge on which its oldest entry completes (R123). -/
def fullEdge (i : Inst) (q t : Nat) : Nat :=
  let l := i.queue.filter fun e => e.queue = q && t < e.done
  if queueCap q ≤ l.length then (l.head?.map (·.done)).getD t else t

/-- The issue edge of a queued instruction. -/
def issueEdge (i : Inst) (w : Insn) (q : Nat) (reads writes : List (Nat × Nat × Nat)) : Nat :=
  let t := waitEdge i w i.nextIssue
  let t := lastDone (i.queue.filter fun e => dependsOn e reads writes) t
  fullEdge i q (max t (tget 0 i.queueFree q))

/-- Cycles of execution from an edge to an edge, what overlaps counted once. -/
def runTo (i : Inst) (x c : Nat) : Inst :=
  { i with cycles := i.cycles + (max i.front c - max i.front x), front := max i.front c }

/-! ### Marks (R445, R448) -/

/-- Scalar registers an instruction reads, as (position, register): `srcs` has bit 0, 1, 2 set for a slot it reads. -/
def scalarReads (w : Insn) (srcs : Nat) : List (Nat × Nat) :=
  let slot (p : Nat) (k : Kind) (x : Word) : List (Nat × Nat) :=
    match k with
    | .scalar => if bit srcs p then [(p, slotReg x)] else []
    | .descriptor => if bit x.toNat 15 then [(p, bits x.toNat 14 11)] else []
    | _ => []
  slot 0 w.kindA w.a ++ slot 1 w.kindB w.b ++ slot 2 w.kindC w.c ++ (if w.predOn then [(3, w.predReg.toNat)] else [])

/-- The instance under DIGEST_MARK (R451). -/
def markedInst (s : State) (i : Inst) : Bool :=
  s.digest.markOn && s.digest.markSlot = i.origin.slot && s.digest.markCmd = i.origin.cmd &&
  s.digest.markS3.toNat = commitsOf s i.origin.slot i.origin.cmd

def isMarked (s : State) (i : Inst) (w : Insn) : Bool := w.mark || markedInst s i

/-- Kind 5 records of a marked instruction. -/
def traceReads (s : State) (i : Inst) (w : Insn) (regs : List (Nat × Nat)) : State :=
  if isMarked s i w then
    regs.foldl (fun t p => trace t 5 i.origin.slot i.origin.cmd (instrIndex s i i.pc)
      (BitVec.ofNat 64 ((sreg i p.2).toNat + 2 ^ 32 * p.2 + 2 ^ 36 * p.1))) s
  else s

/-- Entries completed by an edge leave the queues; a marked one is traced (R448 kind 4). -/
def retire (s : State) (i : Inst) (edge : Nat) : State × Inst :=
  let out := i.queue.filter fun e => e.done ≤ edge
  let t := out.foldl (fun t e => match e.mark with
    | some (k, d) => trace t 4 i.origin.slot i.origin.cmd k d
    | none => t) s
  (t, { i with queue := i.queue.filter fun e => edge < e.done })

/-- The first issue after a freeze or a breakpoint (R361): the time since the edge on which the instruction would have issued is
frozen time, traced and in no count. -/
def thaw (s : State) (i : Inst) (natural : Inst → Nat) (edge : Nat) : State × Inst :=
  match i.held with
  | none => (s, i)
  | some (next, l) =>
    let n := edge - natural { i with nextIssue := next, queue := l }
    (traceOn s edge 6 i.origin.slot i.origin.cmd (commitsOf s i.origin.slot i.origin.cmd) (BitVec.ofNat 64 (min n 0xFFFFFFFF)),
     { i with held := none, front := i.front + n })

/-! ### Whether an instance may issue -/

/-- The breakpoint of R451 holds the instance before its next instruction. -/
def atBreak (s : State) (i : Inst) : Bool :=
  s.digest.breakArmed && markedInst s i && instrIndex s i i.pc = s.digest.breakInstr && !i.passed

/-- The instance on engine e may issue its next instruction. -/
def mayIssue (s : State) (e : Nat) (i : Inst) : Bool :=
  !s.sys.halted && decide (i.wait = .none) && !i.halted && i.failed.isNone && (engOf s e).draining.isNone &&
  (ctxOf s i.origin.slot).tear.isNone && !atBreak s i

/-- A value within the declared maxima of the instruction's variables of the given kinds, where it declares one (R97, R114). -/
def withinMax (s : State) (i : Inst) (kinds : List Nat) (v : Nat) : Bool :=
  (moduleOf s i.origin.slot).maxima.all fun e => !(e.1 / 8 = i.pc && kinds.contains (e.1 % 8)) || v ≤ e.2

/-- The outcome count of a predicated instruction, where it executes once more, is within its declared maximum (R114; log 51). -/
def outcomeFits (s : State) (i : Inst) (w : Insn) : Bool := !w.predOn || withinMax s i [2] (tget 0 i.outcomes i.pc + 1)

/-- A predicated instruction executes once more. -/
def countOutcome (i : Inst) (w : Insn) : Inst := { i with outcomes := if w.predOn then tmod 0 i.outcomes i.pc (· + 1) else i.outcomes }

/-- Charge of class C, pJ (R130). -/
def classC : Nat := 20

/-- An instruction whose predicate fails: 1 cycle of issue and class C (R94, R130). -/
def passOver (s : State) (e : Nat) (i : Inst) (regs : List (Nat × Nat × Nat)) (w : Insn) : State :=
  let edge := issueEdge i w 0 regs []
  let (s, i) := thaw s i (fun j => issueEdge j w 0 regs []) edge
  let (t, j) := retire (advanceTo s edge) i edge
  setInst t e { nextPc (runTo j edge (edge + 1)) with nextIssue := edge + 1, energy := i.energy + classC, passed := false }

/-- A failing status ends the instance (R104); CONTEXT_FAULT and an uncorrectable word of its own context tear it down on the
next edge (R365), and the instance stands until then. Where the count's formula was not evaluated, the cycles the failing
instruction adds are a free value (log 12). -/
def failInst (s : State) (e : Nat) (i : Inst) (f : Fail) (edge : Nat) : State :=
  let (t, i) := retire (advanceTo s (edge + f.count.getD 0)) i edge
  let i := { i with failed := some (f.status, instrIndex s i i.pc), energy := i.energy + classC + f.pj }
  let (i, t) := match f.count with
    | some n => (runTo i edge (edge + n), t)
    | none => let (w, t) := freshWord t; (runTo i edge (edge + w.toNat), t)
  let t := if f.status = stFault then markTear t i.origin.slot .contextFault (some e) else t
  if (ctxOf t i.origin.slot).tear.isSome then setInst t e i else endUncommitted t i 2

/-- Queue of an opcode (R122); 0 for the issue stage. -/
def opQueue (op : Nat) : Nat :=
  if 0x20 ≤ op && op ≤ 0x24 || op = 0x58 || op = 0x5A || op = 0x5B then 1
  else if 0x30 ≤ op && op ≤ 0x33 || op = 0x59 then 2
  else if 0x40 ≤ op && op ≤ 0x52 || op = 0x78 || op = 0x79 then 3
  else if 0x60 ≤ op && op ≤ 0x64 then 4
  else if 0x68 ≤ op && op ≤ 0x6A then 5
  else if 0x70 ≤ op && op ≤ 0x72 || op = 0x12 then 6
  else 0

/-- Queue of the instruction an instance has come to. -/
def nextQueue (s : State) (i : Inst) : Nat :=
  ((moduleOf s i.origin.slot).code[i.pc]?.map fun x => opQueue x.opcode.toNat).getD 0

/-- Bytes an instruction's descriptor slots read beside the elements: the descriptor, and the scale entries it names (R95). -/
def slotReads (r : Run) (w : Insn) : List (Nat × Nat × Nat) :=
  [(w.kindA, w.a), (w.kindB, w.b), (w.kindC, w.c)].flatMap fun p =>
    if p.1 ≠ .descriptor then []
    else
      let d := p.2.toNat % 1024
      footDesc r d ++ footScale r (viewOfDesc (descAt r d) d 0)

/-- The descriptors of an instruction's slots are read: the errors of their words (R214, R217, R218). -/
def scanSlots (r : Run) (w : Insn) : Except (Run × Nat) (Run × Bool) :=
  scanWords r 2 ([(w.kindA, w.a), (w.kindB, w.b), (w.kindC, w.c)].flatMap fun p =>
    if p.1 = .descriptor then span ((moduleOf r.s r.slot).descKib * 1024 + 64 * (p.2.toNat % 1024)) 64 else [])

/-- An effect after its descriptors' words: an uncorrectable one fails the instruction, a corrected one is its status where it has no
other. -/
def withSlots (w : Insn) (f : Effect) : Effect := fun r =>
  match scanSlots r w with
  | .error (q, st) => failed q st
  | .ok (q, c) => (f q).map fun a => { a with status := if c && a.status = stOk then stCorrected else a.status }

/-- An act with the moves between CS and ES that its ES operands ask for, where CS backs the engine's ES (R118). -/
def withBacking (i : Inst) (a : Act) : Act :=
  let more := if backed (moduleOf a.r.s i.origin.slot) (ctxOf a.r.s i.origin.slot).granted i.engine then
      backingCost (esBytes (a.reads ++ a.writes)) a.occ else (0, 0)
  { a with occ := a.occ + more.1, count := a.count + more.1, pj := a.pj + more.2 }

/-- A queued instruction of engine e. -/
def issue (s : State) (e : Nat) (w : Insn) (srcs : Nat) (f : Effect) : State :=
  match (engOf s e).run with
  | none => s
  | some i =>
    if !mayIssue s e i then s
    else
      let regs := (scalarReads w srcs).map fun p => ((5, p.2, p.2) : Nat × Nat × Nat)
      let more := regs ++ slotReads { s := s, i := i } w
      let s := traceReads s i w (scalarReads w srcs)
      if !predicateHolds i w then passOver s e i regs w
      else if !outcomeFits s i w then
        failInst s e i { r := { s := s, i := i }, status := stLength, count := none, pj := 0 } (issueEdge i w (nextQueue s i) more [])
      else match (withSlots w f { s := s, i := i }).map (withBacking i) with
        | .error x =>
          let edge := issueEdge i w (nextQueue s i) more []
          let (t, j) := thaw x.r.s i (fun j => issueEdge j w (nextQueue s i) more []) edge
          failInst t e j x edge
        | .ok a =>
          let edge := issueEdge i w a.queue (a.reads ++ more) a.writes
          if !bufferFits a.r || !withinMax s i a.sizeKinds a.size then failInst s e i { r := { s := s, i := i }, status := stLength, count := none, pj := 0 } edge
          else
            let (t, j) := thaw a.r.s a.r.i (fun j => issueEdge j w a.queue (a.reads ++ more) a.writes) edge
            let (t, j) := retire (advanceTo t edge) j edge
            let idx := instrIndex s i i.pc
            let entry : Entry :=
              { queue := a.queue, done := edge + a.count, reads := a.reads, writes := a.writes,
                mark := if isMarked s i w then a.mark.map fun d => (idx, d) else none,
                ring := a.ring.map fun m => { m with idx := idx, last := edge + m.last,
                                                     pieces := m.pieces.map fun p => (edge + p.1, p.2) } }
            let j := { j with queue := j.queue ++ [entry], queueFree := tset 0 j.queueFree a.queue (edge + a.occ),
                              nextIssue := edge + 1, energy := i.energy + classC + a.pj,
                              info := if a.status = stOk then i.info else some (a.status, idx),
                              digests := j.digests ++ (a.digest.map fun d => (idx, d)).toList, passed := false }
            setInst t e (nextPc (countOutcome (runTo j edge (edge + a.count)) w))

/-! ### The issue stage -/

/-- What comes of an issue-stage instruction: not now, its predicate failed, or it issues. -/
inductive Up where
  | no
  | passed (s : State)
  | go (s : State) (i : Inst) (edge : Nat)

/-- An instruction of the issue stage comes up: `all` when it waits for every earlier instruction (R124, R137); `more` are
registers it reads beside its slots. -/
def comeUp (s : State) (e : Nat) (w : Insn) (srcs : Nat) (all : Bool) (more : List (Nat × Nat)) : Up :=
  match (engOf s e).run with
  | none => .no
  | some i =>
    if !mayIssue s e i then .no
    else
      let regs := (scalarReads w srcs ++ more).map fun p => ((5, p.2, p.2) : Nat × Nat × Nat)
      let s := traceReads s i w (scalarReads w srcs ++ more)
      let edge := issueEdge i w 0 regs []
      if !predicateHolds i w then .passed (passOver s e i regs w)
      else if !outcomeFits s i w then
        .passed (failInst s e i { r := { s := s, i := i }, status := stLength, count := none, pj := 0 } edge)
      else
        let edge := if all then lastDone i.queue edge else edge
        let natural (j : Inst) : Nat :=
          let n := issueEdge j w 0 regs []
          if all then lastDone j.queue n else n
        let (t, j) := thaw s i natural edge
        let (t, j) := retire (advanceTo t edge) j edge
        .go t (countOutcome { j with energy := i.energy + classC, passed := false } w) edge

/-- The instruction completes `count` after an edge; no later one issues before that. -/
def stageDone (i : Inst) (edge count : Nat) : Inst := { runTo i edge (edge + count) with nextIssue := edge + count }

/-- An instruction of the link queue whose wait has ended (R122, R124): it occupies the queue to its completion, and the next instruction may
issue on the edge after it. -/
def linkDone (i : Inst) (edge count : Nat) (reads writes : List (Nat × Nat × Nat)) (mark : Option (Nat × BitVec 64)) : Inst :=
  { runTo i edge (edge + count) with
    nextIssue := edge + 1, queueFree := tset 0 i.queueFree 6 (edge + count),
    queue := i.queue ++ [{ queue := 6, done := edge + count, reads := reads, writes := writes, mark := mark, ring := none }] }

/-- A failing status of the issue stage. Class C is charged already. -/
def stageFail (s : State) (e : Nat) (i : Inst) (st edge : Nat) : State :=
  failInst s e { i with energy := i.energy - classC } { r := { s := s, i := i }, status := st, count := none, pj := 0 } edge

end Sys2Proof.Machine
end

