-- ==== Sys2Proof/Machine/Move.lean ====
section
/-! DEFINITION. The move class: LOAD, STORE, COPY, GATHER, HALO (R138 to R143, R230 to R234, R331, R512). -/

namespace Sys2Proof.Machine

open Sys2Proof

/-- A view over the source's extents of a destination. -/
def View.within (v : View) (ext : List Nat) : View := { v with ext := ext }

/-- Each extent of the destination is at least the source's. -/
def coversExt (d s : View) : Bool := (span 0 5).all fun k => s.extent k ≤ d.extent k

/-- Bytes of n elements of a format. -/
def packedBytes (f n : Nat) : Nat := ceilDiv (n * fmtBits f) 8

/-- A read's source is the ring part of the island window. -/
def fromRing (r : Run) (v : View) : Bool :=
  v.space = 2 &&
  match v.span with
  | some (lo, _) => (windowAt r.s r.slot lo.toNat).any fun w => decide (w.1 = .island) && decide (w.2 < 688000)
  | none => false

/-- The source is the audio ring window while the shutter is closed (R143). -/
def denied (r : Run) (v : View) : Bool := !r.s.island.open_ && fromRing r v

/-- The last word that holds an element's bytes, of a run that starts at a bit address and is word n of the move (R331). -/
def wordOf (n start bit width : Nat) : Nat := n + (bit + width - 1) / 128 - start / 128

/-- The word of the k-th element of a source view in canonical order: a run per row of dimension 0 where its elements adjoin, else
one per element (R125); a store offset is one run. -/
def sourceWord (v : View) (store : Bool) (k : Nat) (t : List Nat) : Nat :=
  let width := fmtBits v.format
  let at_ (x : List Nat) : Nat := (v.bitAt x).toNat
  if store then wordOf 0 v.bit0.toNat (at_ t) width
  else if v.step 0 = 1 then
    wordOf (k / v.extent 0 * (ceilDiv (ceilDiv (v.extent 0 * width) 8) 16 + 1)) (at_ (t.set 0 0)) (at_ t) width
  else wordOf (2 * k) (at_ t) (at_ t) width

/-- A ring move of u words after a head: the elements of the destination with their words' edges (R331). -/
def ringMove (head u : Nat) (fails : Bool) (d : View) (put : List (Nat × List Nat)) : RingMove :=
  { idx := 0, fails := fails, last := head + 64 + u,
    pieces := put.map fun p => (head + 64 + p.1 + 1, d.space, (d.bitAt p.2).toNat, fmtBits d.format) }

/-- A destination digest (R441, R442): a view by its elements, a store offset by its bytes in address order. -/
def destDigest (r : Run) (k : Kind) (v : View) : BitVec 64 :=
  match k with
  | .store => crc64 (ldBytes r v.space (v.bit0.toNat / 8) (packedBytes v.format v.count))
  | _ => viewDigest r v

/-- The digest is a destination digest where the destination is published. -/
def published (v : View) (d : BitVec 64) : Option (BitVec 64) := if 2 ≤ v.space then some d else none

/-- The two operands of a move: destination and source views, and the U of each (R125, R140). A byte count that is no multiple of 16
breaks the form of the entry (R127, R139). -/
def moveViews (r : Run) (w : Insn) : Except Fail (View × View × Nat × Nat) :=
  match w.kindA, w.kindB with
  | .store, .store => do
    need r (w.c.toNat % 16 = 0) stFault
    let d := bytesView w.a w.c.toNat
    let v := bytesView w.b w.c.toNat
    check r (checkView r true d)
    check r (checkView r false v)
    .ok (d, v, w.c.toNat / 16, w.c.toNat / 16)
  | .store, _ => do
    need r (w.c.toNat % 16 = 0) stFault
    let v ← check r (slotView r false w.kindB w.b)
    let d := denseView w.a v
    need r (packedBytes v.format v.count ≤ w.c.toNat) stLength
    check r (checkView r true d)
    .ok (d, v, w.c.toNat / 16, v.words)
  | _, .store => do
    need r (w.c.toNat % 16 = 0) stFault
    let d ← check r (slotView r true w.kindA w.a)
    let v := denseView w.b d
    need r (packedBytes d.format d.count ≤ w.c.toNat) stLength
    check r (checkView r false v)
    .ok (d, v, d.words, w.c.toNat / 16)
  | _, _ => do
    let d ← check r (slotView r true w.kindA w.a)
    let v ← check r (slotView r false w.kindB w.b)
    need r (d.format = v.format) stFault
    need r (coversExt d v) stLength
    .ok (d, v, d.words, v.words)

/-- Copy bytes in address order (R140). -/
def copyBytes (r : Run) (sa a sb b : Nat) : Nat → Run
  | 0 => r
  | n + 1 => copyBytes (stByte r sa a (ldByte r sb b)) sa (a + 1) sb (b + 1) n

/-- Write the source's elements to the destination (R140). -/
def copyElems (r : Run) (w : Insn) (d v : View) : Run :=
  if w.kindA = .store && w.kindB = .store then
    copyBytes r d.space (d.bit0.toNat / 8) v.space (v.bit0.toNat / 8) v.count
  else stElems r d (v.tuples.map fun t => (t, ldElem r v t))

/-- LOAD, STORE and COPY between views: the checks, the copy, the figures of R139. -/
def moveAct (r : Run) (w : Insn) (d v : View) (ud uv : Nat) (shutter : Bool) : Except Fail Act := do
  let u := max ud uv
  let ring := fromRing r v
  let (occ, count) := moveTime ring u v.space d.space
  let pj := u * moveRate (if ring then 2 else max d.space v.space)
  let dw := d.within v.ext
  check r (checkArrival r v.space count v.addrs)
  if shutter && denied r v then
    .error { r := stElems r d (v.tuples.map fun t => (t, 0)), status := stShutter, count := some count, pj := pj }
  else do
    let (r, c1) ← reading r v
    let (r, c2) ← writing r dw v.tuples
    let q := copyElems r w d v
    .ok { r := q, status := corrected (c1 || c2), queue := 1, occ := occ, count := count,
          pj := pj, reads := foot v, writes := foot dw,
          digest := published d (destDigest q w.kindA dw), mark := some (destDigest q w.kindA d), size := u,
          ring := if ring && 0 < u then
              some (ringMove 0 u true d (v.tuples.zipIdx.map fun p => (sourceWord v (decide (w.kindB = .store)) p.2 p.1, p.1)))
            else none }

/-- A LOAD into a scalar register: the 32-bit word at a store offset (R140). -/
def loadScalar (r : Run) (w : Insn) : Except Fail Act := do
  let v : View := bytesView w.b 4
  need r (w.kindB = .store && v.space < 3) stFault
  check r (checkView r false v)
  let ring := fromRing r v
  let count := (if ring then 64 else leadOf v.space) + 1
  check r (checkArrival r v.space count v.addrs)
  if denied r v then
    .error { r := { r with i := setReg r.i (slotReg w.a) 0 }, status := stShutter, count := some count, pj := moveRate v.space }
  else do
    let (r, c) ← reading r v
    .ok { r := { r with i := setReg r.i (slotReg w.a) (BitVec.ofNat 32 (ldLe r v.space (v.bit0.toNat / 8) 4)) },
          status := corrected c, queue := 1, occ := 1, count := count, pj := moveRate v.space, reads := foot v,
          writes := footReg (slotReg w.a), digest := none, mark := none, size := 1,
          ring := if ring then some { idx := 0, fails := true, last := count, pieces := [(count, 5, slotReg w.a, 32)] } else none }

/-- LOAD: the destination is in ES or a scalar register. -/
def loadEffect (w : Insn) (r : Run) : Except Fail Act :=
  if w.kindA = .scalar then loadScalar r w
  else do
    let (d, v, ud, uv) ← moveViews r w
    need r (d.space = 0) stFault
    moveAct r w d v ud uv true

/-- STORE: the source is in ES, the destination in CS, XS or DS. -/
def storeEffect (w : Insn) (r : Run) : Except Fail Act := do
  let (d, v, ud, uv) ← moveViews r w
  need r (v.space = 0 && d.space ≠ 0) stFault
  moveAct r w d v ud uv false

/-- COPY: any space to any space. -/
def copyEffect (w : Insn) (r : Run) : Except Fail Act := do
  let (d, v, ud, uv) ← moveViews r w
  moveAct r w d v ud uv true

/-- LOAD (R140). -/
def execLoad (e : Nat) (w : Insn) (s : State) : Host.Outcome State Fault Refusal := .next (issue s e w 2 (loadEffect w))

/-- STORE (R140). -/
def execStore (e : Nat) (w : Insn) (s : State) : Host.Outcome State Fault Refusal := .next (issue s e w 0 (storeEffect w))

/-- COPY (R140). -/
def execCopy (e : Nat) (w : Insn) (s : State) : Host.Outcome State Fault Refusal := .next (issue s e w 0 (copyEffect w))

/-! ### GATHER (R141) -/

/-- The view's tuples with its outermost index replaced. -/
def View.rowAt (v : View) (t : List Nat) (k : Nat) : List Nat := t.set (v.rank - 1) k

/-- Tuples of one row of the outermost dimension. -/
def View.rowTuples (v : View) : List (List Nat) := Machine.tuples (v.ext.set (v.rank - 1) 1)

/-- Count of a GATHER of m rows of r bytes from a space (R141), or from the audio ring (R331). -/
def gatherCount (ring : Bool) (m r sp : Nat) : Nat :=
  let y := 16 * (ceilDiv r 16 + 1)
  let head := 4 + ceilDiv m 64
  if sp = 3 then
    if m = 0 then head + 160 else head + 160 + 48 * (m * ceilDiv y 2048 - 1) + 16
  else head + (if ring then 64 else leadOf sp) + m * ceilDiv y (if ring then 16 else min 128 (rateOf sp))

/-- The word of the k-th element of row n of a GATHER (R141, R331). -/
def rowWord (v : View) (len n row k : Nat) : Nat :=
  let start := (v.bitAt (v.rowAt (v.ext.map fun _ => 0) row)).toNat
  wordOf (n * (ceilDiv len 16 + 1)) start (start + k * fmtBits v.format) (fmtBits v.format)

/-- GATHER. A destination of another rank or format than the table fails with CONTEXT_FAULT (log 100). -/
def gatherEffect (w : Insn) (r : Run) : Except Fail Act := do
  let d ← check r (esView r true w.kindA w.a)
  let v ← check r (slotView r false w.kindB w.b)
  let x ← check r (esView r false w.kindC w.c)
  need r (2 ≤ v.rank && x.format = 3 && x.rank = 1 && d.format = v.format && d.rank = v.rank) stFault
  let (r, c1) ← reading r x
  let idx := ldView r x
  let m := x.count
  let top := v.extent (v.rank - 1)
  need r (idx.all fun k => 0 ≤ k && k < top) stLength
  need r (coversExt d { v with ext := v.ext.set (v.rank - 1) m }) stLength
  let rows := idx.map Int.toNat
  let len := packedBytes v.format v.rowTuples.length
  let ring := fromRing r v
  let count := gatherCount ring m len v.space
  let words := m * (ceilDiv len 16 + 1) + ceilDiv m 4
  let put := rows.zipIdx.flatMap fun p => v.rowTuples.map fun t => (v.rowAt t p.1, d.rowAt t p.2)
  check r (checkArrival r v.space count v.addrs)
  if denied r v then
    .error { r := stElems r d (put.map fun p => (p.2, 0)), status := stShutter, count := some count, pj := words * moveRate v.space }
  else do
    let (r, c2) ← readingBytes r v.space (put.flatMap fun p => v.bytesOf p.1)
    let (r, c3) ← writing r d (put.map (·.2))
    let q := stElems r d (put.map fun p => (p.2, ldElem r v p.1))
    .ok { r := q, status := corrected (c1 || c2 || c3), queue := 1, occ := if m = 0 then 0 else count, count := count, pj := words * moveRate v.space,
          reads := foot v ++ foot x, writes := foot d, digest := none, mark := some (viewDigest q d), size := m,
          ring := if ring && 0 < m then
              some (ringMove (4 + ceilDiv m 64) (m * (ceilDiv len 16 + 1)) true d
                (rows.zipIdx.flatMap fun p => v.rowTuples.zipIdx.map fun t => (rowWord v len p.2 p.1 t.2, d.rowAt t.1 p.2)))
            else none }

/-- GATHER (R141). -/
def execGather (e : Nat) (w : Insn) (s : State) : Host.Outcome State Fault Refusal := .next (issue s e w 0 (gatherEffect w))

/-! ### HALO (R142) -/

def haloEffect (w : Insn) (r : Run) : Except Fail Act := do
  let d ← check r (esView r true w.kindA w.a)
  let v ← check r (slotView r false w.kindB w.b)
  need r (2 ≤ v.rank && d.format = v.format) stFault
  let y0 := signed 16 w.c.toNat
  let h := w.c.toNat / 65536
  let hv := v.extent 1
  need r (h ≤ d.extent 1 && coversExt { d with ext := d.ext.set 1 hv } v) stLength
  let inside (k : Nat) : Bool := 0 ≤ y0 + (k : Int) && y0 + (k : Int) < hv
  let hin := ((span 0 h).filter inside).length
  let at_ (n : Nat) (x : View) : Nat := { x with ext := v.ext.set 1 n }.words
  let u := if hin = 0 then 0 else max (at_ hin d) (at_ hin v)
  let fill := if h - hin = 0 then 0 else at_ (h - hin) d
  let ring := fromRing r v
  let count := (if hin = 0 then 0 else (moveTime ring u v.space 0).2) + ceilDiv (16 * fill) 128
  let ts := Machine.tuples (v.ext.set 1 h)
  let src (t : List Nat) : List Nat := t.set 1 (y0 + (t.getD 1 0 : Int)).toNat
  let moved := ts.filter fun t => inside (t.getD 1 0)
  check r (checkArrival r v.space count v.addrs)
  let (r, c1) ← readingBytes r v.space (moved.flatMap fun t => v.bytesOf (src t))
  let (r, c2) ← writing r d ts
  let q := stElems r d (ts.map fun t => (t, if inside (t.getD 1 0) then ldElem r v (src t) else v.zero))
  .ok { r := q, status := corrected (c1 || c2), queue := 1, occ := count, count := count,
        pj := u * moveRate v.space + 10 * fill, reads := foot v, writes := foot d, digest := none,
        mark := some (viewDigest q d), size := u,
        ring := if ring && 0 < u then
            some (ringMove 0 u false d (moved.zipIdx.map fun p => (sourceWord v false p.2 (src p.1), p.1)))
          else none }

/-- HALO (R142). -/
def execHalo (e : Nat) (w : Insn) (s : State) : Host.Outcome State Fault Refusal := .next (issue s e w 0 (haloEffect w))

end Sys2Proof.Machine
end

