-- ==== Sys2Proof/Machine/Sync.lean ====
section
/-! DEFINITION. The sync class: SEMWAIT, SEMPOST, CREDIT, BARRIER, COMMIT and the grants (R134 to R137, R363). -/

namespace Sys2Proof.Machine

open Sys2Proof

/-- Chip semaphore behind context semaphore k of the instance. -/
def chipOf (s : State) (i : Inst) (k : Nat) : Nat := (bindingOf s i.origin.slot k).chip

/-- Total of the chip semaphore bound to a context semaphore; 0 where none is bound. -/
def semTotal (s : State) (i : Inst) (k : Nat) : Nat :=
  if (bindingOf s i.origin.slot k).bound then (semOf s (chipOf s i k)).total else 0

/-- The instance takes counts provisionally (R103). -/
def takeHold (i : Inst) (k n : Nat) : Inst := { i with holds := tmod 0 i.holds k (· + n) }

/-- Take counts now and complete in 2 cycles. -/
def semTaken (s : State) (e : Nat) (i : Inst) (k n edge : Nat) (reg : Option Nat) : State :=
  let j := takeHold (stageDone { i with wait := .none } edge 2) k n
  setInst (semTake s k n) e (nextPc (match reg with
    | some r => setReg j r 1
    | none => j))

/-- A waiter is served before a SEMWAIT of a slot that comes up on an edge: it came up earlier, or on that edge from no higher
slot (R363). -/
def waiterAhead (slot edge : Nat) (w : Waiter) : Bool := w.edge < edge || (w.edge = edge && w.slot ≤ slot)

/-- A waiter joins the queue of R363. -/
def joinQueue (l : List Waiter) (w : Waiter) : List Waiter :=
  l.filter (waiterAhead w.slot w.edge) ++ w :: l.filter fun x => !waiterAhead w.slot w.edge x

/-- The wait form (R134, R363): at once where the counts are free and nobody waits ahead of it, else it joins the queue. -/
def semWaits (s : State) (e : Nat) (i : Inst) (k n edge : Nat) (reg : Option Nat) : State :=
  let x := semOf s k
  if n = 0 || (!(x.waiters.any (waiterAhead i.origin.slot edge)) && n ≤ semFreeAt x edge) then semTaken s e i k n edge reg
  else
    let me : Waiter := { slot := i.origin.slot, cmd := i.origin.cmd, count := n, edge := edge }
    let t := setSem s k { x with waiters := joinQueue x.waiters me }
    setInst t e { i with wait := .sem k n reg }

/-- The outcome of a test form goes to its register; with outcome 1 the counts are taken. -/
def semTested (s : State) (e : Nat) (i : Inst) (k n edge reg : Nat) (ok : Bool) : State :=
  let j := setReg (stageDone i edge 2) reg (if ok then 1 else 0)
  if ok then setInst (semTake s k n) e (nextPc (takeHold j k n)) else setInst s e (nextPc j)

/-- Trace record of a test form (R448 kind 9). -/
def traceTest (s : State) (i : Inst) (k : Nat) (ok : Bool) : State :=
  trace s 9 i.origin.slot i.origin.cmd (instrIndex s i i.pc) (BitVec.ofNat 64 (b2n ok + 256 * k))

/-- SEMWAIT (R134). In replay mode a test form takes its outcome from the log (R450). -/
def execSemwait (e : Nat) (w : Insn) (s : State) : Host.Outcome State Fault Refusal :=
  let test : Bool := w.kindC = .scalar
  match comeUp s e w 2 (!test) [] with
  | .no => .next s
  | .passed t => .next t
  | .go t i edge =>
    let k := w.a.toNat
    let n := (slotValue i w.kindB w.b).toNat
    let chip := chipOf t i k
    if semTotal t i k < n then .next (stageFail t e i stLength edge)
    else if !test then .next (semWaits t e i chip n edge none)
    else
      let x := semOf t chip
      let ok := !(x.waiters.any (waiterAhead i.origin.slot edge)) && n ≤ semFreeAt x edge
      if !(ctxOf t i.origin.slot).replay.on then .next (semTested (traceTest t i k ok) e i chip n edge (slotReg w.c) ok)
      else match replayTake t i.origin.slot 9 (BitVec.ofNat 64 (b2n ok + 256 * k)) with
        | (some r, u) =>
          if bit (logField r 6).toNat 0 then .next (semWaits (traceTest u i k true) e i chip n edge (some (slotReg w.c)))
          else .next (semTested (traceTest u i k false) e i chip n edge (slotReg w.c) false)
        | (none, u) => .next (semTested (traceTest u i k ok) e i chip n edge (slotReg w.c) ok)

/-- The engine whose running instance is a waiter. -/
def waiterEngine (s : State) (w : Waiter) : Option Nat :=
  (s.engines.find? fun e => e.2.run.any fun i => i.origin.slot = w.slot && i.origin.cmd = w.cmd).map (·.1)

/-- The edge on which counts of a semaphore can be taken: the present one, or the one after their post (R108). -/
def grantEdge (x : Sem) (n edge : Nat) : Nat := if n ≤ semFreeAt x edge then edge else max edge (x.freshEdge + 1)

/-- The first waiter of a chip semaphore takes its counts, when they are free (R363). -/
def execSemaphoreGrant (k : Nat) (s : State) : Host.Outcome State Fault Refusal :=
  let x := semOf s k
  match x.waiters with
  | [] => .next s
  | w :: r =>
    if s.sys.halted || x.free < w.count then .next s
    else match waiterEngine s w with
      | none => .next s
      | some e =>
        match (engOf s e).run with
        | none => .next s
        | some i =>
          if (engOf s e).draining.isSome then .next s
          else match i.wait with
          | .sem _ n reg => let edge := max (grantEdge x n s.now) i.nextIssue
            .next (semTaken (advanceTo (setSem s k { x with waiters := r }) edge) e i k n edge reg)
          | _ => .next s

/-- SEMPOST (R135): staged until COMMIT; more than the context holds fails. -/
def execSempost (e : Nat) (w : Insn) (s : State) : Host.Outcome State Fault Refusal :=
  match comeUp s e w 2 false [] with
  | .no => .next s
  | .passed t => .next t
  | .go t i edge =>
    let k := chipOf t i w.a.toNat
    let n := (slotValue i w.kindB w.b).toNat
    let holds := tget 0 (ctxOf t i.origin.slot).held k + tget 0 i.holds k
    if holds < tget 0 i.posts k + n then .next (stageFail t e i stLength edge)
    else .next (setInst t e (nextPc { stageDone i edge 1 with posts := tmod 0 i.posts k (· + n) }))

/-- A peer the part can name: another member of the set. -/
def isPeer (s : State) (p : Nat) : Bool := p < s.facet.setSize && p ≠ s.facet.partIndex

/-- The context takes credits toward a peer (R136). -/
def takeCredits (s : State) (e : Nat) (i : Inst) (p n edge : Nat) : State :=
  let x := creditOf s i.origin.slot p
  let t := setCredit s i.origin.slot p { x with free := x.free - n, held := x.held + n }
  setInst t e (nextPc { linkDone { i with wait := .none } edge 2 [] [] none with credits := tmod 0 i.credits p (· + n) })

/-- CREDIT (R136). One that names the part itself fails as one outside the set does (DESIGN CHOICE, log 115). -/
def execCredit (e : Nat) (w : Insn) (s : State) : Host.Outcome State Fault Refusal :=
  match comeUp s e w 2 true [] with
  | .no => .next s
  | .passed t => .next t
  | .go t i edge =>
    let p := w.a.toNat % 16
    let n := (slotValue i w.kindB w.b).toNat
    if !isPeer t p then .next (stageFail t e i stLength edge)
    else if !linkUp t p then .next (stageFail t e i stLinkDown edge)
    else if n ≤ (creditOf t i.origin.slot p).free then .next (takeCredits t e i p n edge)
    else .next (setInst t e { i with wait := .credit p n })

/-- The wait of a CREDIT ends when its credits are free. -/
def execCreditGrant (e : Nat) (s : State) : Host.Outcome State Fault Refusal :=
  match (engOf s e).run with
  | none => .next s
  | some i =>
    match i.wait with
    | .credit p n =>
      if !s.sys.halted && !i.halted && (engOf s e).draining.isNone && n ≤ (creditOf s i.origin.slot p).free then .next (takeCredits s e i p n (max s.now i.nextIssue)) else .next s
    | _ => .next s

/-- BARRIER (R137). -/
def execBarrier (e : Nat) (w : Insn) (s : State) : Host.Outcome State Fault Refusal :=
  match comeUp s e w 0 true [] with
  | .no => .next s
  | .passed t => .next t
  | .go t i edge => .next (setInst t e (nextPc (stageDone i edge 1)))

/-- Cycles of a COMMIT of n staged words (R137). -/
def commitCount (n : Nat) : Nat := 16 + ceilDiv n 2

/-- COMMIT (R108, R137): a BARRIER, then every staged effect on its completion edge, and the instance has committed. A broken
ledger identity halts the part (R370). -/
def execCommit (e : Nat) (w : Insn) (s : State) : Host.Outcome State Fault Refusal :=
  match comeUp s e w 0 true [] with
  | .no => .next s
  | .passed t => .next t
  | .go t i edge =>
    let n := stagedWords i.staged
    let c := commitCount n
    let (t, j) := retire (advanceTo t (edge + c)) (stageDone { i with energy := i.energy + 60 * n } edge c) (edge + c)
    .next (checkLedgers (endCommitted (setInst t e j) j))

end Sys2Proof.Machine
end

