-- ==== Sys2Proof/Machine/Collective.lean ====
section
/-! DEFINITION. The collective class: RSEND, RRECV and its message, ALLRED (R162 to R165, R391 to R397). -/

namespace Sys2Proof.Machine

open Sys2Proof

/-! ### Peers, windows, messages -/

/-- The peer of an instruction: the part's own index and a part outside the set fail (R162), a link that is down (R397). -/
def peerCheck (r : Run) (p : Nat) : Except Fail Unit := do
  need r (p ≠ r.s.facet.partIndex) stFault
  need r (p < r.s.facet.setSize) stLength
  need r (linkUp r.s p) stLinkDown

/-- Peer and window fields of an immediate. -/
def peerField (w : Word) : Nat := w.toNat % 16

def windowField (w : Word) : Nat := w.toNat / 16 % 256

/-- The window of a part by its number, open from a part's context. -/
def windowOpen (s : State) (part number fromPart fromSlot : Nat) : Option WindowCfg :=
  s.facet.windows.find? fun w => w.part = part && w.number = number && w.fromPart = fromPart && w.fromSlot = fromSlot

/-- The elements of a view as a dense run of bytes, the earlier of two int4 below (R87). -/
def denseBytes (f : Nat) : List Int → List Byte
  | [] => []
  | [x] => if f = 0 then [BitVec.ofNat 8 (lowBits 4 x)] else bytesLe (lowBits (fmtBits f) x) (fmtBits f / 8)
  | x :: y :: l =>
    if f = 0 then BitVec.ofNat 8 (lowBits 4 x + 16 * lowBits 4 y) :: denseBytes f l
    else bytesLe (lowBits (fmtBits f) x) (fmtBits f / 8) ++ denseBytes f (y :: l)

/-- Elements of a dense run of bytes. -/
def denseElems (f : Nat) (l : List Byte) : List Int :=
  if f = 0 then l.flatMap fun b => [signed 4 (b.toNat % 16), signed 4 (b.toNat / 16)]
  else (span 0 (l.length / (fmtBits f / 8))).map fun k => signed (fmtBits f) (field l (k * (fmtBits f / 8)) (fmtBits f / 8))

/-- Put a flit or message on the links. -/
def transmit (s : State) (f : FlitOut) : State := { s with relay := { s.relay with sent := s.relay.sent ++ [f] } }

/-- Messages of an own window. -/
def windowQueue (s : State) (n : Nat) : List Message := tget [] s.relay.windows n

def setWindow (s : State) (n : Nat) (l : List Message) : State :=
  { s with relay := { s.relay with windows := tset [] s.relay.windows n l } }

/-! ### RSEND (R162) -/

/-- RSEND. Y is the payload's bytes in whole 16-byte words, without R125's extra words for runs (log 45). -/
def rsendEffect (w : Insn) (r : Run) : Except Fail Act := do
  let p := peerField w.a
  peerCheck r p
  let v ← check r (slotView r false w.kindB w.b)
  need r (v.space < 3) stFault
  let share := slotShare r.s r.slot p
  need r (0 < share) stLength
  let words := ceilDiv (packedBytes v.format v.count) 16
  let y := 16 * words
  match windowOpen r.s p (windowField w.a) r.s.facet.partIndex r.slot with
  | none => failed r stLength
  | some x => do
    let n := ceilDiv y 256
    need r (16 * w.c.toNat + y ≤ x.size && n ≤ tget 0 r.i.credits p) stLength
    let count := 310 + ceilDiv y (2 * share)
    check r (checkArrival r v.space count v.addrs)
    let (r, c) ← reading r v
    let k := creditOf r.s r.slot p
    let s := setCredit r.s r.slot p { k with held := k.held - n, flight := k.flight + n, message := (k.message + 1) % 2 ^ 32 }
    let s := transmit s { peer := p, kind := 1, slot := r.slot, window := windowField w.a, message := k.message,
                          offset := w.c.toNat, bytes := denseBytes v.format (ldView r v), credits := 0 }
    let m : Send := { peer := p, window := windowField w.a, message := k.message, offset := w.c.toNat, length := y, credits := n }
    let i := { r.i with credits := tset 0 r.i.credits p (tget 0 r.i.credits p - n), sends := r.i.sends ++ [m] }
    .ok { r := { s := s, i := i }, status := corrected c, queue := 6, occ := count, count := count, pj := 400 * words,
          reads := foot v, writes := [], digest := none, mark := none, size := words }

/-- RSEND. -/
def execRsend (e : Nat) (w : Insn) (s : State) : Host.Outcome State Fault Refusal := .next (issue s e w 0 (rsendEffect w))

/-! ### RRECV (R163) -/

/-- A failing check of the issue stage. -/
def stageError (e : Nat) (i : Inst) (f : Fail) (edge : Nat) : State := failInst f.r.s e { i with energy := i.energy - classC } f edge

/-- The oldest released message of an own window. -/
def oldestMessage (s : State) (n : Nat) : Option Message := (windowQueue s n).find? (·.released)

/-- An RRECV or ALLRED whose wait ended on an edge completes `count` cycles after it with a status, what it wrote, its digest and its
mark, its queue entry holding the link queue until then (R122, R124, R445). -/
def linkResult (s : State) (e : Nat) (i : Inst) (w : Insn) (edge count st : Nat) (wrote : View) (digest mark : BitVec 64) : State :=
  let idx := instrIndex s i i.pc
  let j := linkDone { i with wait := .none } edge count [] (foot wrote) (if isMarked s i w then some (idx, mark) else none)
  setInst s e (nextPc { j with info := if st = stOk then i.info else some (st, idx),
                               digests := j.digests ++ ((published wrote digest).map fun d => (idx, d)).toList })

/-- Copy a message into the destination and return its credits (R163, R393). -/
def receiveMessage (r : Run) (w : Insn) (x : WindowCfg) (m : Message) : Except Fail (Run × Nat × View × List Int) := do
  let d ← check r (slotView r true w.kindA w.a)
  let room := packedBytes d.format d.count
  need r (ceilDiv m.length 16 ≤ ceilDiv room 16) stLength
  let a := 16 * x.offset + 16 * m.offset
  let (r, c1) ← scanning r 2 (span a m.length)
  let xs := (denseElems d.format (ldBytes r 2 a (min m.length room))).take d.count
  let (r, c2) ← writing r d (d.tuples.take xs.length)
  let q := stElems r d (List.zip d.tuples xs)
  need r (bufferFits q) stLength
  .ok (q, corrected (c1 || c2), d, xs)

/-- RRECV takes the oldest message and completes 40 + ceil(Y / 32) cycles after the end of its wait. -/
def takeMessage (s : State) (e : Nat) (i : Inst) (w : Insn) (x : WindowCfg) (m : Message) (edge : Nat) : State :=
  match receiveMessage { s := s, i := i } w x m with
  | .error f => stageError e { i with wait := .none } f edge
  | .ok (q, st, d, xs) =>
    let g := crc64 (elemBytes d.format xs)
    let s := setWindow q.s x.number ((windowQueue q.s x.number).erase m)
    let s := if m.returned then s else transmit s { peer := x.fromPart, kind := 5, slot := m.slot, window := x.number, message := m.number,
                                                    offset := 0, bytes := [], credits := ceilDiv m.length 256 }
    let j := { q.i with energy := q.i.energy + 60 * ceilDiv m.length 16,
                        received := q.i.received ++ [(x.number, { m with returned := true })] }
    linkResult s e j w edge (40 + ceilDiv m.length 32) st d g (viewDigest { s := s, i := j } d)

/-- RRECV: it waits for a released message from the peer in the window (R163). -/
def execRrecv (e : Nat) (w : Insn) (s : State) : Host.Outcome State Fault Refusal :=
  match comeUp s e w 0 true [] with
  | .no => .next s
  | .passed t => .next t
  | .go t i edge =>
    let r : Run := { s := t, i := i }
    match peerCheck r (peerField w.b), slotView r true w.kindA w.a,
        windowOpen t t.facet.partIndex (windowField w.b) (peerField w.b) ((t.facet.windows.find? fun x =>
          x.part = t.facet.partIndex && x.number = windowField w.b && x.fromPart = peerField w.b && x.owner = i.origin.slot).map (·.fromSlot) |>.getD 32) with
    | .error f, _, _ => .next (stageError e i f edge)
    | _, .error st, _ => .next (stageFail t e i st edge)
    | _, _, none => .next (stageFail t e i stHeld edge)
    | _, _, some x =>
      match oldestMessage t x.number with
      | some m => .next (takeMessage t e i w x m edge)
      | none => .next (setInst t e { i with wait := .message w })

/-- A released message appears in the window a waiting RRECV names. -/
def execRrecvMessageReady (e : Nat) (s : State) : Host.Outcome State Fault Refusal :=
  match (engOf s e).run with
  | none => .next s
  | some i =>
    match i.wait with
    | .message w =>
      match s.facet.windows.find? fun x => x.part = s.facet.partIndex && x.number = windowField w.b && x.owner = i.origin.slot with
      | none => .next s
      | some x =>
        match oldestMessage s x.number with
        | some m => if s.sys.halted || i.halted || (engOf s e).draining.isSome then .next s else .next (takeMessage s e i w x m (max s.now i.nextIssue))
        | none => .next s
    | _ => .next s

/-! ### ALLRED (R164, R165, R395) -/

/-- The operands of an ALLRED. -/
def allredViews (r : Run) (w : Insn) : Except Fail (View × View) := do
  let d ← check r (slotView r true w.kindA w.a)
  let v ← check r (slotView r false w.kindB w.b)
  need r (d.format = 3 && v.format ≠ 0) stFault
  need r (coversExt d v) stLength
  .ok (d, v)

/-- Tag and the maximum bit. -/
def allredTag (w : Insn) : Nat := w.c.toNat % 256

def allredMax (w : Insn) : Bool := bit w.c.toNat 8

/-- Chunk size in bytes. -/
def chunkBytes (y n : Nat) : Nat := 16 * ceilDiv (ceilDiv y (max 1 n)) 16

/-- ALLRED in a Solo: the source is copied. -/
def soloEffect (w : Insn) (r : Run) : Except Fail Act := do
  let (d, v) ← allredViews r w
  let y := packedBytes v.format v.count
  let count := 8 + ceilDiv y 128
  check r (checkArrival r v.space count v.addrs)
  let (r, c1) ← reading r v
  let dw := d.within v.ext
  let (r, c2) ← writing r dw v.tuples
  let q := stElems r d (v.tuples.map fun t => (t, ldElem r v t))
  let q := { q with i := { q.i with allred := true } }
  .ok { r := q, status := corrected (c1 || c2), queue := 6, occ := count, count := count, pj := 10 * ceilDiv y 16, reads := foot v,
        writes := foot dw, digest := published d (viewDigest q dw), mark := some (viewDigest q d), size := y }

/-- Elements of chunk j of a list of n chunks. -/
def chunkElems (xs : List Int) (f c j : Nat) : List Int := (xs.drop (j * (c / (fmtBits f / 8)))).take (c / (fmtBits f / 8))

/-- 16-byte words of bytes, zero-filled. -/
def wordsOf (l : List Byte) : List (BitVec 128) :=
  (span 0 (ceilDiv l.length 16)).map fun k => BitVec.ofNat 128 (field l (16 * k) 16)

/-- Bytes of words. -/
def bytesOfWords (l : List (BitVec 128)) : List Byte := l.flatMap fun w => bytesLe w.toNat 16

/-- A chunk received from a part, whole. -/
def chunkOf (s : State) (slot tag part owner phase words : Nat) : Option (List (BitVec 128)) :=
  (s.relay.chunks.find? fun c => c.slot = slot && c.tag = tag && c.part = part && c.owner = owner && c.phase = phase &&
    words ≤ c.words.length).map (·.words)

/-- The peers in sending order: after the part's own index, then from 0. -/
def peerOrder (s : State) : List Nat :=
  let i := s.facet.partIndex
  span (i + 1) (s.facet.setSize - 1 - i) ++ span 0 i

/-- Send a chunk as kind 4 flits. -/
def sendChunk (s : State) (slot tag peer owner phase : Nat) (l : List Byte) : State :=
  transmit s { peer := peer, kind := 4, slot := slot, window := tag, message := 0, offset := owner + 16 * phase,
               bytes := bytesOfWords (wordsOf l), credits := 0 }

/-- Combine two values. -/
def combine (mx : Bool) (a b : Int) : Int := if mx then max a b else a + b

/-- Combine lists element by element. -/
def combineAll (mx : Bool) : List (List Int) → List Int
  | [] => []
  | x :: l => l.foldl (List.zipWith (combine mx)) x

/-- The part's own chunk combined in part order, once every part's is here. -/
def ownChunk (s : State) (slot tag : Nat) (mx : Bool) (f c : Nat) (xs : List Int) : Option (List Int) :=
  let me := s.facet.partIndex
  let mine := chunkElems xs f c me
  let parts := (span 0 s.facet.setSize).map fun j =>
    if j = me then some mine
    else (chunkOf s slot tag j me 0 (ceilDiv (mine.length * (fmtBits f / 8)) 16)).map fun ws =>
      (denseElems f (bytesOfWords ws)).take mine.length
  if parts.all Option.isSome then some (combineAll mx (parts.filterMap id)) else none

/-- Every element's combined value, once every owner's chunk is here. -/
def allChunks (s : State) (slot tag : Nat) (f c : Nat) (xs own : List Int) : Option (List Int) :=
  let parts := (span 0 s.facet.setSize).map fun j =>
    if j = s.facet.partIndex then some own
    else
      let n := (chunkElems xs f c j).length
      (chunkOf s slot tag j j 1 (ceilDiv (4 * n) 16)).map fun ws => (denseElems 3 (bytesOfWords ws)).take n
  if parts.all Option.isSome then some (parts.filterMap id).flatten else none

/-- Drop what a finished exchange received. -/
def dropChunks (s : State) (slot tag : Nat) : State :=
  { s with relay := { s.relay with chunks := s.relay.chunks.filter fun c => !(c.slot = slot && c.tag = tag) } }

/-- Aggregate rate r_a (R391). -/
def aggregateRate (s : State) (slot : Nat) : Nat :=
  let l := (peerOrder s).map (slotShare s slot)
  2 * (s.facet.setSize - 1) * (match l with
    | [] => 0
    | x :: r => r.foldl min x)

/-- Count of an ALLRED in a set from the end of its last wait, for a chunk of c bytes (R164). -/
def allredCount (s : State) (slot c : Nat) : Nat :=
  let n := s.facet.setSize
  620 + 2 * ceilDiv ((n - 1) * c) (aggregateRate s slot) + ceilDiv (n * c) 256 + 8

/-- The exchange is complete: the result is written, each value saturated once. -/
def allredDone (s : State) (e : Nat) (i : Inst) (w : Insn) (d v : View) (xs : List Int) (edge : Nat) : State :=
  let n := s.facet.setSize
  let y := packedBytes v.format v.count
  let c := chunkBytes y n
  let count := allredCount s i.origin.slot c
  let dw := d.within v.ext
  let i := { i with energy := i.energy + 400 * (2 * (n - 1) * c / 16) + 60 * ceilDiv (n * c) 256 }
  match (do let (r, c1) ← writing { s := s, i := i } dw v.tuples
            let q := stElems r d (List.zip v.tuples (xs.map (satTo 32)))
            need r (bufferFits q) stLength
            .ok (q, c1) : Except Fail (Run × Bool)) with
  | .error f => stageError e { i with wait := .none } f edge
  | .ok (q, c1) =>
    linkResult (dropChunks q.s i.origin.slot (allredTag w)) e q.i w edge count (corrected c1) dw (viewDigest q dw) (viewDigest q d)

/-- The exchange of a waiting ALLRED goes as far as what has arrived lets it. -/
def progressReduce : Nat → State → Nat → State
  | 0, s, _ => s
  | k + 1, s, e =>
    match (engOf s e).run with
    | none => s
    | some i =>
      match i.wait with
      | .reduce w phase xs =>
        let r : Run := { s := s, i := i }
        match allredViews r w with
        | .error _ => s
        | .ok (d, v) =>
          let slot := i.origin.slot
          let tag := allredTag w
          let c := chunkBytes (packedBytes v.format v.count) s.facet.setSize
          match ownChunk s slot tag (allredMax w) v.format c xs with
          | none => s
          | some own =>
            if phase = 0 then
              let t := (peerOrder s).foldl (fun t p =>
                sendChunk t slot tag p s.facet.partIndex 1 (denseBytes 3 (own.map (satTo 32)))) s
              progressReduce k (setInst t e { i with wait := .reduce w 1 xs }) e
            else match allChunks s slot tag v.format c xs own with
              | none => s
              | some all => allredDone s e i w d v all (max s.now i.nextIssue)
      | _ => s

/-- The checks of an ALLRED in a set (R391, R395, R397). -/
def allredSetup (r : Run) (w : Insn) : Except Fail (View × View × Run × Nat) := do
  (peerOrder r.s).foldlM (fun (_ : Unit) p => peerCheck r p) ()
  let (d, v) ← allredViews r w
  let y := packedBytes v.format v.count
  let c := chunkBytes y r.s.facet.setSize
  need r (0 < aggregateRate r.s r.slot) stLength
  need r (2 * (2 * r.s.facet.setSize * c) ≤ (ctxOf r.s r.slot).granted.reductionSize * 1024) stLength
  check r (checkArrival r v.space (allredCount r.s r.slot c) v.addrs)
  let (r, c1) ← reading r v
  .ok (d, v, r, corrected c1)

/-- ALLRED (R164): the chunks leave in the order of R395, and the instance waits for its receives. -/
def execAllred (e : Nat) (w : Insn) (s : State) : Host.Outcome State Fault Refusal :=
  if s.facet.setSize ≤ 1 then .next (issue s e w 0 (soloEffect w))
  else match comeUp s e w 0 true [] with
    | .no => .next s
    | .passed t => .next t
    | .go t i edge =>
      match allredSetup { s := t, i := i } w with
      | .error f => .next (stageError e i f edge)
      | .ok (_, v, r, st) =>
        let xs := ldView r v
        let c := chunkBytes (packedBytes v.format v.count) t.facet.setSize
        let t := (peerOrder t).foldl (fun t p => sendChunk t i.origin.slot (allredTag w) p p 0
          (denseBytes v.format (chunkElems xs v.format c p))) r.s
        let i := r.i
        let i := { i with allred := true, wait := .reduce w 0 xs,
                          info := if st = stOk then i.info else some (st, instrIndex t i i.pc) }
        .next (progressReduce 2 (setInst t e i) e)

end Sys2Proof.Machine
end

