-- ==== Sys2Proof/Machine/Glint.lean ====
section
/-! DEFINITION. The Glint unit: feature vector, rules, balls, the swap of the banks (R59 to R75). -/

namespace Sys2Proof.Machine

open Sys2Proof

/-! ### Fields of a bank (R71) -/

/-- A memory as its words are delivered (R214). -/
def deliveredMem (m : Memory) (up : Table (BitVec 144)) : Memory :=
  up.foldl (fun t e => wrBytes t (16 * e.1) ((span (16 * e.1) 16).map (rdStore m up))) m

/-- The active bank as a line reads it. -/
def activeBank (s : State) : Memory := deliveredMem s.glint.active s.glint.upActive

/-- Little-endian field of the active bank. -/
def bankField (s : State) (a n : Nat) : Nat := rdLe (activeBank s) a n

/-- Control word of ball b in a bank. -/
def controlWord (m : Memory) (b : Nat) : Nat := rdLe m (0x918 + 12 * b) 4

/-- The bits of a control word that mean something: mode and polarity, P − 1 (R71); a swap compares these. -/
def controlKey (m : Memory) (b : Nat) : Nat × Nat := (controlWord m b % 8, controlWord m b / 65536)

/-- A function code is placed on a ball. -/
def placed (s : State) (code : Nat) : Bool := s.facet.balls.contains code

/-- The facet gives REFLEX_OUT b to Glint (R424). -/
def ownsBall (s : State) (b : Nat) : Bool := s.facet.glintPort.isSome && placed s (0x20 + b)

/-- A set or clear mask of the bank names ball b. -/
def namesBall (m : Memory) (b : Nat) : Bool := rdLe m (0x910 + 12 * b) 4 ≠ 0 || rdLe m (0x914 + 12 * b) 4 ≠ 0

/-- Weight i of rule k. -/
def weightOf (s : State) (k i : Nat) : Int :=
  let b := (rd (activeBank s) (0x10 + 72 * k + i / 4)).toNat / 4 ^ (i % 4) % 4
  if b = 1 then 1 else if b = 3 then -1 else 0

/-! ### Features (R60 to R64) -/

/-- A binary element. -/
def binary (b : Bool) : Nat := if b then 65536 else 0

/-- Crossings of the two-state scan: falling columns, rising columns (R62). -/
def crossings (td tl : Nat) : Bool → Nat → List Nat → List Nat × List Nat
  | _, _, [] => ([], [])
  | dark, c, p :: l =>
    if !dark && p ≤ td then
      let (f, r) := crossings td tl true (c + 1) l
      (c :: f, r)
    else if dark && tl ≤ p then
      let (f, r) := crossings td tl false (c + 1) l
      (f, c :: r)
    else crossings td tl dark (c + 1) l

/-- A band average; columns beyond the line take the fill value. -/
def bandAverage (s : State) (px : List Nat) (j : Nat) : Nat :=
  let o := bankField s 0 2
  let b := bankField s 2 2 % 512 + 1
  let fill := bankField s 4 1
  let here := (px.drop (o + j * b)).take b
  (here.foldl (· + ·) 0 + (b - here.length) * fill) / b

/-- REFLEX_IN k is active (R63). -/
def inputActive (s : State) (k : Nat) : Bool := s.glint.input.getLsbD k != bit (bankField s 8 2) k

/-- The feature vector (R61) of a line of 8-bit pixels. Columns beyond 65,535 are ignored by R59; a band column there takes the fill value
(DESIGN CHOICE, log 111). -/
def features (s : State) (px : List Nat) : List Nat :=
  let px := px.take 65536
  let (f, r) := crossings (bankField s 5 1) (bankField s 6 1) false 0 px
  (span 0 128).map (bandAverage s px) ++ [min f.length 65535, min r.length 65535] ++
  (span 0 31).map (fun k => nth f k 0) ++ (span 0 31).map (fun k => nth r k 0) ++
  (span 0 16).map (fun k => binary (inputActive s k)) ++ (span 0 16).map (fun k => binary (s.glint.flags.getLsbD k)) ++
  (span 0 32).map (fun k => binary (s.glint.fired.getLsbD k))

/-- Rule k fires (R65). -/
def ruleFires (s : State) (x : List Nat) (k : Nat) : Bool :=
  bit (bankField s 0xC 4) k &&
  signed 32 (bankField s (0x50 + 72 * k) 4) ≤
    (x.zipIdx.foldl (fun (n : Int) e => n + weightOf s k e.2 * (e.1 : Int)) 0)

/-- The results of the 32 rules on a line. -/
def ruleResults (s : State) (px : List Nat) : Word :=
  let x := features s px
  BitVec.ofNat 32 (((span 0 32).filter (ruleFires s x)).foldl (fun n k => n + 2 ^ k) 0)

/-! ### Balls (R66) -/

/-- The toggle stage of a ball on a line with the given results. -/
def toggleBall (s : State) (fired : Word) (b : Nat) (x : Ball) : Ball :=
  let set := fired &&& BitVec.ofNat 32 (bankField s (0x910 + 12 * b) 4) ≠ 0
  let clear := fired &&& BitVec.ofNat 32 (bankField s (0x914 + 12 * b) 4) ≠ 0
  let c := controlWord (activeBank s) b
  let p := c / 65536 + 1
  match c % 4 with
  | 0 => { active := set, lines := 0, pulse := false }
  | 1 => { active := set || (x.active && !clear), lines := 0, pulse := false }
  | 2 =>
    if set then { active := true, lines := p, pulse := false }
    else if clear || x.lines ≤ 1 then Ball.idle
    else { x with lines := x.lines - 1 }
  | _ =>
    if set then { active := true, lines := 0, pulse := true }
    else if clear then Ball.idle
    else x

/-- Balls of a line, with its results kept for the next (R65, R67). -/
def toggleBalls (s : State) (fired : Word) : State :=
  let balls := if s.glint.installed then
      (span 0 16).foldl (fun t b => if ownsBall s b then tmod Ball.idle t b (toggleBall s fired b) else t) s.glint.balls
    else s.glint.balls
  { s with glint := { s.glint with fired := fired, balls := balls } }

/-- Polarity bits of a bank. -/
def polarityOf (m : Memory) : BitVec 16 :=
  BitVec.ofNat 16 (((span 0 16).filter fun b => bit (controlWord m b) 2).foldl (fun n b => n + 2 ^ b) 0)

/-- Both banks are cleared, lost or reset: the window reads 0, an armed swap is dropped, the balls are inactive. -/
def clearBanks (s : State) : State :=
  let g := s.glint
  { s with glint := { g with active := [], window := [], upActive := [], upWindow := [], flags := 0, target := 0, armed := false,
                             installed := false, balls := [], heldPolarity := if g.installed then polarityOf g.active else g.heldPolarity } }

/-- The words of the active bank that a line reads (R217, R218): those it corrects count, one it cannot correct tears the window's owner down
and clears both banks. -/
def readBank (s : State) : State :=
  match s.glint.upActive.find? fun e => eccDecode e.2 = .uncorrectable with
  | some e => clearBanks (ctxWord s s.facet.glintOwner 3 e.1 0 none)
  | none => countCorrected s 3 s.glint.upActive.length

/-- Glint takes a line of the given pixels and width of a pixel; a dropped line fires no rule (R59, R60, R289). -/
def glintLine (s : State) (p : Nat) (bits : Nat) (px : Option (List Nat)) : State :=
  if s.iris.stop < 3 || s.sys.halted || s.facet.glintPort ≠ some p then s
  else
    let t := readBank s
    match px with
    | some l => toggleBalls t (ruleResults t (l.map fun x => x / 2 ^ (bits - 8)))
    | none => toggleBalls t 0

/-! ### Banks (R72 to R75) -/

/-- The new bank names a ball the facet does not give to Glint (R73). -/
def bankRefused (s : State) (m : Memory) : Bool := (span 0 16).any fun b => namesBall m b && !ownsBall s b

/-- The banks change places (R73, R74). -/
def swapBanks (s : State) : State :=
  let g := s.glint
  let owned := BitVec.ofNat 16 (((span 0 16).filter (ownsBall s)).foldl (fun n b => n + 2 ^ b) 0)
  let balls := (span 0 16).foldl (fun t b =>
    if !g.installed || controlKey g.active b ≠ controlKey g.window b then tset Ball.idle t b Ball.idle else t) g.balls
  { s with glint := { g with active := g.window, window := g.active, upActive := g.upWindow, upWindow := g.upActive, armed := false, installed := true, balls := balls,
                             driven := g.driven ||| owned } }

/-- Level of REFLEX_OUT b; none while the part does not drive it (R66, R75). -/
def ballOut (s : State) (b : Nat) : Option Bool :=
  let g := s.glint
  if !g.driven.getLsbD b then none
  else some ((tget Ball.idle g.balls b).active != (if g.installed then polarityOf g.active else g.heldPolarity).getLsbD b)

/-- An armed swap whose target is reached (R72, R73). -/
def execGlintSwap (s : State) : Host.Outcome State Fault Refusal :=
  let g := s.glint
  if !g.armed || s.iris.stop < 3 || s.sys.halted || !(targetReached s g.target 0) then .next s
  else if bankRefused s g.window then
    .next (postEvent { s with glint := { g with armed := false, refused := true } } stHeld s.facet.glintOwner 0x90000 [])
  else .next (swapBanks s)

/-- A mode 3 pulse runs out (R66). -/
def execGlintPulseExpiry (b : Nat) (s : State) : Host.Outcome State Fault Refusal :=
  let x := tget Ball.idle s.glint.balls b
  if x.pulse then .next { s with glint := { s.glint with balls := tset Ball.idle s.glint.balls b Ball.idle } } else .next s

/-- A mode 2 pulse reaches line n + P (R66). -/
def execGlintLinePulseEnd (b : Nat) (s : State) : Host.Outcome State Fault Refusal :=
  let x := tget Ball.idle s.glint.balls b
  if x.active && x.lines = 0 && controlWord s.glint.active b % 4 = 2 then
    .next { s with glint := { s.glint with balls := tset Ball.idle s.glint.balls b Ball.idle } }
  else .next s

end Sys2Proof.Machine
end

