-- ==== Sys2Proof/Machine/Iris.lean ====
section
/-! DEFINITION. Iris: admission, placement, pre-emption by kill or freeze, deferral, beats, breakpoints (R350 to R361, R374, R376,
R451), and the completion of an issued instruction (R123). -/

namespace Sys2Proof.Machine

open Sys2Proof

/-! ### Order (R353) -/

/-- A comes before b. -/
def before (s : State) (a b : Ready) : Bool :=
  let pa := prioOf s a.slot a.cmd
  let pb := prioOf s b.slot b.cmd
  if pa ≠ pb then pb < pa
  else if a.readyEdge ≠ b.readyEdge then a.readyEdge < b.readyEdge
  else if a.slot ≠ b.slot then a.slot < b.slot
  else a.cmd < b.cmd

/-- Insert after everything that does not come later. -/
def insertReady (s : State) (r : Ready) : List Ready → List Ready
  | [] => [r]
  | q :: l => if before s r q then r :: q :: l else q :: insertReady s r l

/-- Ready instances in the order of examination. -/
def examined (s : State) : List Ready := s.ready.foldl (fun l r => insertReady s r l) []

/-! ### Conditions (R352) -/

/-- Chip semaphores a command of slot c declares. -/
def declaredSems (s : State) (c k : Nat) : List Nat :=
  (commandOf s c k).sems.filterMap fun n => if (bindingOf s c n).bound then some (bindingOf s c n).chip else none

/-- Frozen instances, and those whose freeze is in progress. -/
def frozenInsts (s : State) : List Inst :=
  s.engines.flatMap fun e => e.2.frozen ++ (if e.2.draining.isSome then e.2.run.toList else [])

/-- A frozen instance holds provisionally a chip semaphore that the instance's command declares. -/
def semBlocked (s : State) (r : Ready) : Bool :=
  (declaredSems s r.slot r.cmd).any fun k => (frozenInsts s).any fun i => tget 0 i.holds k ≠ 0

/-- It waits for an excluded holder, or is the pre-emptor of a freeze in progress. -/
def isWaiting (s : State) (r : Ready) : Bool := s.engines.any fun e => e.2.waiting.any fun w => w.1 = r

/-- Context active, not marked for teardown, previous instance of the command ended, no blocked semaphore (R352, R382). -/
def mayAdmit (s : State) (r : Ready) : Bool :=
  let x := ctxOf s r.slot
  decide (x.state = .active) && x.tear.isNone && (!x.startOnly || r.isStart) && r.skip.isNone && !(tget false x.progress.running r.cmd) &&
  ((s.ready.find? fun q => q.slot = r.slot && q.cmd = r.cmd) = some r) && !(semBlocked s r) && !(isWaiting s r)

/-- The engine's core is powered, and no lowering departs it (R379). -/
def enginePowered (s : State) (e : Nat) : Bool :=
  coreLevel (e / 4) ≤ s.iris.stop && (!s.iris.lowering || coreLevel (e / 4) ≤ s.iris.target) && !((coreOf s (e / 4)).lost.getLsbD (e % 4))

/-- Nothing runs or waits on the engine, and no frozen instance resumes there first (R361). -/
def engineFree (s : State) (e : Nat) : Bool :=
  let x := engOf s e
  x.run.isNone && x.frozen = [] && x.waiting.isNone && x.incoming.isNone

/-- Engines on which the instance could run (R355). -/
def couldRun (s : State) (r : Ready) : List Nat :=
  let x := ctxOf s r.slot
  let k := commandOf s r.slot r.cmd
  if k.floating then
    (enginesOf x.granted).filter fun e => enginePowered s e && !((engOf s e).frozen.any fun i => i.origin.slot = r.slot)
  else [tget 0 x.bindings k.ve].filter (enginePowered s)

/-- The engine that takes the instance (R355). -/
def placement (s : State) (r : Ready) : Option Nat := (couldRun s r).find? (engineFree s)

/-! ### Pre-emption (R356 to R358) -/

/-- Kill-and-rerun, or freeze. -/
def killMethod (s : State) : Bool := s.facet.setSize ≤ 3

/-- A running instance of another context with strictly lower priority. -/
def lowerVictim (s : State) (r : Ready) (e : Nat) : Option Inst :=
  (engOf s e).run.bind fun i =>
    if i.origin.slot ≠ r.slot && i.prio < prioOf s r.slot r.cmd && (engOf s e).draining.isNone then some i else none

/-- Not a candidate (R358). -/
def excluded (s : State) (r : Ready) (i : Inst) : Bool :=
  i.carryIn || i.allred ||
  (!killMethod s && (declaredSems s r.slot r.cmd).any fun k => tget 0 i.holds k ≠ 0)

/-- A is the better victim. -/
def betterVictim (a b : Nat × Inst) : Bool :=
  if a.2.prio ≠ b.2.prio then a.2.prio < b.2.prio
  else if a.2.admitEdge ≠ b.2.admitEdge then b.2.admitEdge < a.2.admitEdge
  else a.1 < b.1

/-- Candidates, excluded ones left out or kept. -/
def victims (s : State) (r : Ready) (keep : Bool) : List (Nat × Inst) :=
  (couldRun s r).filterMap fun e =>
    match lowerVictim s r e with
    | some i => if excluded s r i = keep && (engOf s e).waiting.isNone then some (e, i) else none
    | none => none

/-- The victim. -/
def chooseVictim (l : List (Nat × Inst)) : Option (Nat × Inst) :=
  match l with
  | [] => none
  | x :: r => some (r.foldl (fun b y => if betterVictim y b then y else b) x)

/-! ### Tokens and heat (R374, R376) -/

/-- The reservation fits. -/
def tokensFit (s : State) (r : Ready) : Bool :=
  let n := reservation (commandOf s r.slot r.cmd)
  n ≤ s.iris.free && (ctxOf s r.slot).tokensHeld + n ≤ (ctxOf s r.slot).granted.allotment

/-- P of an instance, mW. -/
def powerOf (k : Command) : Nat := ceilDiv (500 * k.energyBound) (max 1 k.cycleBound)

/-- Sum of P of a region's running instances. -/
def regionPower (s : State) (core : Nat) : Nat :=
  (s.engines.filter fun e => e.1 / 4 = core).foldl
    (fun n e => match e.2.run with
      | some i => n + powerOf (commandOf s i.origin.slot i.origin.cmd)
      | none => n) 0

/-- A reading at or above the ceiling: nothing is admitted. -/
def tooHot (s : State) : Bool := (span 0 32).any fun k => (s.facet.timing.ceiling : Int) ≤ tget 400 s.iris.temps k

/-- The heat condition of R376: no reading at the ceiling, and the prediction, in sixteenths of a degree times 1,000 (readings and
the ceiling are in sixteenths). -/
def heatFits (s : State) (r : Ready) (core : Nat) : Bool :=
  !tooHot s &&
  decide (tget 400 s.iris.temps core * 1000 +
    ((nth s.facet.heat core 0 : Nat) : Int) * ((regionPower s core + powerOf (commandOf s r.slot r.cmd) : Nat) : Int) ≤ (s.facet.timing.ceiling : Int) * 1000)

/-! ### Admission -/

/-- The threshold of an instance that starts on an edge: a write counts from the edge after it (R186). -/
def thetaFor (x : Ctx) (edge : Nat) : Nat := if edge ≤ x.thetaEdge then x.thetaWas else x.theta

/-- The threshold an instance starts with; a replay takes it from its log (R186, R450). -/
def startTheta (s : State) (r : Ready) (edge : Nat) : Nat × State :=
  let θ := thetaFor (ctxOf s r.slot) edge
  if clipTests (moduleOf s r.slot) (commandOf s r.slot r.cmd) then
    let (q, t) := replayTake s r.slot 10 (BitVec.ofNat 64 θ)
    let θ := match q with
      | some q => (logField q 6).toNat
      | none => θ
    (θ, trace t 10 r.slot r.cmd (commitsOf s r.slot r.cmd) (BitVec.ofNat 64 θ))
  else (θ, s)

/-- The start values of R96. -/
def startRegs (s : State) (r : Ready) : Table Word :=
  let t := tset 0 [] 0 (BitVec.ofNat 32 r.line.toNat)
  let t := tset 0 t 1 (BitVec.ofNat 32 (r.line.toNat / 2 ^ 32))
  let t := tset 0 t 2 r.s2
  tset 0 t 3 (BitVec.ofNat 32 (commitsOf s r.slot r.cmd))

/-- A new instance on an engine. -/
def newInst (s : State) (r : Ready) (e edge theta : Nat) : Inst :=
  let k := commandOf s r.slot r.cmd
  let m := moduleOf s r.slot
  { origin := r, ve := k.ve, group := nth m.groups k.ve 0, engine := e, prio := prioOf s r.slot r.cmd, admitEdge := edge,
    stepAtStart := (ctxOf s r.slot).step, nextIssue := edge + 8, regs := startRegs s r, pc := k.first, calls := [], loops := [],
    wait := .none, queue := [], queueFree := [], staged := [], stagedUp := [], readSet := [], wroteSet := [], posts := [], holds := [], sends := [], outs := [],
    credits := [], failed := none, info := none, cycles := 0, front := edge + 8, energy := 0, reserved := reservation k, saturated := 0,
    satEvent := false, theta := theta, digests := [], late := false, outcomes := [], carryIn := carriesIn m k, allred := false, received := [],
    frozenAt := 0, held := none, halted := false, passed := false, fills := [], deferred := [], references := [], fetched := [], reopened := [] }

/-- Put an admitted instance on its engine: tokens reserved already, the trace written, it issues 8 cycles on (R352). -/
def place (s : State) (r : Ready) (e edge : Nat) : State :=
  let (θ, t) := startTheta s r edge
  let i := newInst t r e edge θ
  let t := if (ctxOf t r.slot).granted.level = t.iris.stop then { t with iris := { t.iris with worked := true } } else t
  let t := modEng t e fun x => { x with run := some i, draining := none, incoming := none }
  let t := modCtx t r.slot fun x => { x with progress := { x.progress with running := tset false x.progress.running r.cmd true } }
  traceOn t edge 1 r.slot r.cmd (commitsOf s r.slot r.cmd)
    (BitVec.ofNat 64 (min (edge - r.readyEdge) 0xFFFFFFFF + 2 ^ 32 * min r.tokenBeats 65535 + 2 ^ 48 * min r.heatBeats 65535))

/-- Admit an instance on a free engine. -/
def admitOn (s : State) (r : Ready) (e edge : Nat) : State :=
  let t := { s with ready := s.ready.erase r }
  place (reserveTokens t r.slot (reservation (commandOf s r.slot r.cmd))) { r with deferral := .no } e edge

/-- Change a ready instance in place. -/
def modReady (s : State) (r : Ready) (f : Ready → Ready) : State := { s with ready := s.ready.map fun q => if q = r then f q else q }

/-- The instance is deferred (R354). -/
def defer (s : State) (r : Ready) (d : Deferral) : State := modReady s r fun q => { q with deferral := d }

/-- Begin a freeze (R360): the victim issues nothing more, its waiter leaves the queue, the pre-emptor's tokens are reserved. -/
def beginFreeze (s : State) (r : Ready) (e : Nat) (i : Inst) (edge : Nat) : State :=
  let t := dropWaiter s i.origin.slot i.origin.cmd
  let t := modEng t e fun x => { x with draining := some (lastDone i.queue (edge + 1)), incoming := some { r with deferral := .no } }
  let t := { t with ready := t.ready.erase r }
  reserveTokens t r.slot (reservation (commandOf s r.slot r.cmd))

/-- Pre-empt: kill at once, or begin a freeze (R357, R359, R360). -/
def preempt (s : State) (r : Ready) (v : Nat × Inst) (edge : Nat) : State :=
  if killMethod s then
    let t := kill s v.2 (edge + 1)
    admitOn t r v.1 (edge + 4)
  else beginFreeze s r v.1 v.2 edge

/-- Regions in which a lower priority is kept out, and the priority; 32 stands for every region (R354). -/
abbrev Barrier := List (Nat × Nat)

/-- The instance is kept out by a deferral of higher priority. -/
def barred (s : State) (b : Barrier) (r : Ready) (core : Nat) : Bool :=
  b.any fun x => (x.1 = 32 || x.1 = core) && prioOf s r.slot r.cmd < x.2

/-- Examine one instance that meets the other conditions, on an engine it can take: tokens, heat, then `go`. -/
def examineFit (s : State) (b : Barrier) (r : Ready) (e : Nat) (go : State) : State × Barrier :=
  let p := prioOf s r.slot r.cmd
  if barred s b r (e / 4) then (s, b)
  else if !tokensFit s r then (defer s r .tokens, (32, p) :: b)
  else if !heatFits s r (e / 4) then (defer s r .heat, (e / 4, p) :: b)
  else (go, b)

/-- Examine one ready instance at an admission edge. -/
def examine (edge : Nat) (x : State × Barrier) (r : Ready) : State × Barrier :=
  let (s, b) := x
  if !mayAdmit s r then x
  else match placement s r with
    | some e => examineFit s b r e (admitOn s r e (max edge (engOf s e).freeAt))
    | none =>
      match chooseVictim (victims s r false) with
      | some v => examineFit s b r v.1 (preempt s r v edge)
      | none =>
        match victims s r true with
        | [] => x
        | l => (l.foldl (fun t v => modEng t v.1 fun g => { g with waiting := some (r, edge) }) s, b)

/-- The deferrals that stand keep lower priorities out (R354). -/
def standingBarrier (s : State) : Barrier :=
  s.ready.filterMap fun r =>
    match r.deferral with
    | .no => none
    | .tokens => some (32, prioOf s r.slot r.cmd)
    | .heat => some (((couldRun s r).headD 0) / 4, prioOf s r.slot r.cmd)

/-- An admission edge for the ready instances a test holds for (R352). -/
def admitAll (s : State) (edge : Nat) (p : Ready → Bool) (b : Barrier) : State :=
  if s.sys.halted then s
  else checkLedgers (((examined s).filter p).foldl (examine edge) (s, b)).1

/-- Insert an edge into a rising list. -/
def insertEdge (e : Nat) : List Nat → List Nat
  | [] => [e]
  | x :: l => if e < x then e :: x :: l else if e = x then x :: l else x :: insertEdge e l

/-- The present edge and the later ones on which an instance becomes ready, rising. -/
def admissionEdges (s : State) : List Nat :=
  s.ready.foldl (fun l r => if s.now < r.readyEdge then insertEdge r.readyEdge l else l) [s.now]

/-- Something was admitted, deferred, pre-empted or made to wait. -/
def admitted (s t : State) : Bool :=
  s.ready ≠ t.ready || s.engines.map (fun e => (e.1, e.2.waiting)) ≠ t.engines.map (fun e => (e.1, e.2.waiting))

/-- Examine on the first of the edges on which something comes of it. -/
def admitFirst (s : State) : List Nat → State
  | [] => s
  | e :: l =>
    let t := admitAll (advanceTo s e) e (fun r => decide (r.deferral = .no) && r.readyEdge ≤ e) (standingBarrier s)
    if admitted s t then t else admitFirst s l

/-- ADMISSION (R352): on an edge, the instances that are ready by then and not deferred, in order. -/
def execAdmission (s : State) : Host.Outcome State Fault Refusal :=
  let t := s.ctxs.foldl (fun t c => settleSkips (skipFuel t c.1) t) s
  .next (admitFirst t (admissionEdges t))

/-! ### Beats (R349, R350, R354) -/

/-- A message becomes visible: traced, compared in replay, and its command gains an instance (R349). -/
def messageVisible (s : State) (c : Nat) (m : Pending) : State :=
  let t := trace s 11 c m.inbox m.arrival m.digest
  let t := replayCompare t c 11 m.digest
  let b := inboxOf s c m.inbox
  let at_ := (16 * b.offset + b.size * m.entry) / 16
  (commandsWhere t c fun k => k.trigger = .inbox m.inbox).foldl
    (fun t k => addReady t { readyOf c k s.now with s2 := BitVec.ofNat 32 at_, inbox := some (m.inbox, m.entry) }) t

/-- Every pending message of a slot becomes visible. -/
def messagesVisible (s : State) (c : Nat) : State :=
  let l := (ctxOf s c).progress.pending
  let t := modCtx s c fun x => { x with progress := { x.progress with pending := [] } }
  l.foldl (fun t m => messageVisible t c m) t

/-- One more beat of deferral, for instances whose context is not stopped (R347, R354). -/
def countDeferral (s : State) : State :=
  let waits (r : Ready) : Bool := decide (r.deferral ≠ .no) && decide ((ctxOf s r.slot).state = .active)
  { s with
    iris := { s.iris with deferBeats := bump s.iris.deferBeats ((s.ready.filter waits).length) },
    ready := s.ready.map fun r =>
      if !waits r then r
      else match r.deferral with
        | .tokens => { r with tokenBeats := r.tokenBeats + 1 }
        | .heat => { r with heatBeats := r.heatBeats + 1 }
        | .no => r }

/-- An Iris beat (R350): the next multiple of 1,000 ARITH cycles. Messages become visible, ready and deferred instances are
examined, and the deferrals that stand count a beat. -/
def execIrisBeat (s : State) : Host.Outcome State Fault Refusal :=
  if !s.clk.collimated then .next s
  else
    let t := advanceTo s ((s.now / 1000 + 1) * 1000)
    let t := { t with iris := { t.iris with beats := t.iris.beats + 1 } }
    let t := t.ctxs.foldl (fun t c => messagesVisible t c.1) t
    .next (countDeferral (admitAll t t.now (fun _ => true) []))

/-! ### Freeze, resume, delays -/

/-- The drain is over: the victim's state is latched at c + 4 and the pre-emptor issues at c + 12 (R360). A pre-emptor torn down
meanwhile leaves the engine free; one whose victim was torn down takes the engine at once. -/
def execFreezeLatch (e : Nat) (s : State) : Host.Outcome State Fault Refusal :=
  let x := engOf s e
  match x.draining, x.run, x.incoming with
  | some c, some i, r =>
    let held := match i.held with
      | some h => some h
      | none => if i.wait = .none then some (i.nextIssue, i.queue) else none
    let (t, i) := retire (advanceTo s (c + 4)) i c
    let t := modEng t e fun y =>
      { y with run := none, draining := none, incoming := none, frozen := { i with frozenAt := c, held := held } :: y.frozen, freeAt := c + 4 }
    match r with
    | some r => .next (place t r e (c + 4))
    | none => .next t
  | none, none, some r => .next (place s r e (max s.now x.freeAt))
  | _, _, _ => .next s

/-- A resumed wait is evaluated afresh, on the edge on which its instruction issues (R361): an ATL is marked resumed. -/
def resumeWait (s : State) (e : Nat) (i : Inst) (edge : Nat) : State :=
  match i.wait with
  | .line t p atl _ => setInst s e { i with wait := .line t p atl atl }
  | .sem k n reg => semWaits s e i k n edge reg
  | _ => setInst s e i

/-- Frozen cycles of an instance frozen in a wait; of another, its next issue traces them. -/
def traceFrozen (s : State) (i : Inst) (edge : Nat) : State :=
  if i.held.isSome then s else
  trace s 6 i.origin.slot i.origin.cmd (commitsOf s i.origin.slot i.origin.cmd) (BitVec.ofNat 64 (min (edge - i.frozenAt) 0xFFFFFFFF))

/-- The engine is free: the instance frozen most recently resumes, its next instruction 12 cycles on (R361). -/
def execFreezeResume (e : Nat) (s : State) : Host.Outcome State Fault Refusal :=
  let x := engOf s e
  match x.run, x.incoming, x.frozen with
  | none, none, i :: rest =>
    if s.sys.halted then .next s
    else
      let f := max x.freeAt s.now
      let t := traceFrozen s i (f + 12)
      let j := { i with nextIssue := f + 12 }
      let t := setEng t e { x with run := some j, frozen := rest }
      .next (resumeWait t e j (f + 12))
  | _, _, _ => .next s

/-- A pre-emptor waits no more. -/
def clearWaiting (l : Table Engine) (r : Ready) : Table Engine :=
  tmap Engine.idle (fun g => if g.waiting.any (fun w => w.1 = r) then { g with waiting := none } else g) l

/-- The first excluded holder ended: the pre-emptor is admitted on that edge, the delay recorded (R358). -/
def execPreemptDelayEnd (e : Nat) (s : State) : Host.Outcome State Fault Refusal :=
  let x := engOf s e
  match x.waiting, x.run with
  | some (r, since), none =>
    if x.frozen ≠ [] || s.sys.halted then .next s
    else
      let t := { s with engines := clearWaiting s.engines r }
      let delay := x.freeAt - since
      let t := { t with iris := { t.iris with preemptDelay := bump t.iris.preemptDelay delay } }
      let t := trace t 7 r.slot r.cmd (commitsOf t r.slot r.cmd) (BitVec.ofNat 64 delay)
      let t := postEvent t stHeld r.slot 0x30018 []
      .next (checkLedgers (examine (max t.now x.freeAt) (t, standingBarrier t) r).1)
  | _, _ => .next s

/-! ### Breakpoints (R451) -/

/-- The marked instance comes to issue the breakpoint instruction: it freezes in place and its context stops. -/
def execBreakpointHit (e : Nat) (s : State) : Host.Outcome State Fault Refusal :=
  match (engOf s e).run with
  | none => .next s
  | some i =>
    if atBreak s i && decide (i.wait = .none) && !i.halted && i.failed.isNone && !s.sys.halted && (engOf s e).draining.isNone then
      let c := lastDone i.queue i.nextIssue
      let held := some (i.held.getD (i.nextIssue, i.queue))
      let (t, i) := retire (advanceTo s c) i c
      let t := setInst t e { i with halted := true, frozenAt := c, held := held }
      let t := modCtx t i.origin.slot fun x => { x with state := .stopped }
      .next (postEvent { t with digest := { t.digest with broken := some (e, c) } } stOk i.origin.slot 0x100050 [])
    else .next s

/-! ### Completion (R123) -/

/-- The earliest instruction in flight on engine e completes: time moves to its edge and its entry frees. -/
def execInstructionCompletion (e : Nat) (s : State) : Host.Outcome State Fault Refusal :=
  match (engOf s e).run with
  | none => .next s
  | some i =>
    match i.queue with
    | [] => .next s
    | q :: l =>
      let c := l.foldl (fun m x => min m x.done) q.done
      let (t, j) := retire (advanceTo s c) i c
      .next (setInst t e j)

end Sys2Proof.Machine
end

