-- ==== Sys2Proof/Machine/Context.lean ====
section
/-! DEFINITION. The life of a context slot: teardown (R365, R366), the clearing of returned shares (R199), the loader's end
(R113, R346), and restarts (R367, R382, R384). -/

namespace Sys2Proof.Machine

open Sys2Proof

/-! ### Teardown, steps 1 to 4 (R365) -/

/-- An instance that never ran ends as torn down (log 14: it writes a record too). -/
def tearReady (s : State) (st : Nat) (r : Ready) : State :=
  let t := { s with ready := s.ready.erase r, engines := clearWaiting s.engines r }
  let t := traceEnd t t.now r.slot r.cmd 4 st 0 false
  let (_, t) := writeRecordEnd t r.slot r.cmd st 4 none 0 0
  freeInbox t r.slot r.inbox

/-- A pre-emptor whose freeze is in progress gives back its reservation. -/
def dropIncoming (s : State) (c : Nat) : State :=
  s.engines.foldl (fun t e =>
    match e.2.incoming with
    | some r =>
      if r.slot = c then
        addReady (settleTokens (modEng t e.1 fun g => { g with incoming := none }) c (reservation (commandOf t c r.cmd)) 0) r
      else t
    | none => t) s

/-- The status an instance ends with: a status the cause gives to all, which no instruction returned, or its own. -/
def withStatus (st : Option Nat) (i : Inst) : Inst :=
  match st with
  | some x => { i with failed := some (x, 2 ^ 32) }
  | none => i

/-- Step 1: every instance of the context ends as torn down. -/
def tearInstances (s : State) (c : Nat) (st : Option Nat) : State :=
  let t := ((allInsts s).filter fun i => i.origin.slot = c).foldl (fun t i => endUncommitted t (withStatus st i) 4) s
  let t := dropIncoming t c
  (t.ready.filter fun r => r.slot = c).foldl (fun t r => tearReady t (st.getD 0) r) t

/-- Own receive windows of a context. -/
def ownWindows (s : State) (c : Nat) : List WindowCfg := s.facet.windows.filter fun w => w.part = s.facet.partIndex && w.owner = c

/-- Messages in the context's receive windows are dropped, and their credits return to the senders (log 16). -/
def dropWindows (s : State) (c : Nat) : State :=
  (ownWindows s c).foldl (fun t w =>
    let t := ((windowQueue t w.number).filter fun m => !m.returned).foldl (fun t m =>
      transmit t { peer := w.fromPart, kind := 5, slot := m.slot, window := w.number, message := m.number, offset := 0, bytes := [],
                   credits := ceilDiv m.length 256 }) t
    setWindow t w.number []) s

/-- Committed holdings of chip semaphores return to free. -/
def dropHeld (s : State) (c : Nat) : State :=
  modCtx ((ctxOf s c).held.foldl (fun t h => semFree t h.1 h.2) s) c fun x => { x with held := [] }

/-- Batch slots, streams, entries and pending messages go; the messages count as discarded. -/
def tearRest (x : Ctx) : Ctx :=
  { x with batchHeld := 0, batchFlight := 0, streams := [], batches := [], fetched := [], startOnly := false, starting := false,
           inboxOverflow := bump x.inboxOverflow x.progress.pending.length,
           progress := { x.progress with unconsumed := [], running := [], lines := 0, entries := [], pending := [] } }

/-- A breakpoint's instance is gone. -/
def dropBroken (s : State) : State :=
  match s.digest.broken with
  | some (e, _) => if (engOf s e).run.any (·.halted) then s else { s with digest := { s.digest with broken := none } }
  | none => s

/-- Steps 1 to 4 of R365. -/
def tearSteps (s : State) (c : Nat) (st : Option Nat) : State :=
  dropBroken (modCtx (dropHeld (dropWindows (tearInstances s c st) c) c) c tearRest)

/-! ### Step 5 and the owned units (R366) -/

/-- The steps of a ledger that slot c holds start their clear. -/
def startClear (c : Nat) (t : Table Owner) : Table Owner := t.map fun e => (e.1, if e.2 = .held c then .clearing c else e.2)

/-- The slot has a step in clearing. -/
def clearsAny (l : Ledgers) (c : Nat) : Bool :=
  [l.es, l.banks, l.cs, l.xs, l.ds].any fun t => t.any fun e => decide (e.2 = .clearing c)

/-- An empty slot with what outlives a teardown: its registers and counts (R346, R444). -/
def emptied (x : Ctx) : Ctx :=
  { Ctx.empty with loadCode := x.loadCode, lastStatus := x.lastStatus, record := x.record, step := x.step, chain := x.chain,
                   inboxOverflow := x.inboxOverflow, satCount := x.satCount, satEvents := x.satEvents, theta := x.theta, thetaWas := x.thetaWas,
                   thetaEdge := x.thetaEdge,
                   credits := x.credits, replay := x.replay, restart := x.restart,
                   progress := { Progress.start with commits := x.progress.commits, ends := x.progress.ends,
                                                     arrivals := x.progress.arrivals } }

/-- The slot is empty once nothing of it clears. -/
def settleEmpty (s : State) (c : Nat) : State :=
  if clearsAny s.ledgers c then s else modCtx s c emptied

/-- The shares of slot c return under R199: its stores read zero, and each step is in flight until its clear ends. -/
def returnShares (s : State) (c : Nat) : State :=
  let l := s.ledgers
  let t := { s with ledgers := { l with es := startClear c l.es, banks := startClear c l.banks, cs := startClear c l.cs,
                                        xs := startClear c l.xs, ds := startClear c l.ds } }
  settleEmpty (modCtx t c fun x =>
    { x with state := .clearing, stores := Stores.clear, banks := [], granted := CtxRecord.none, tear := none }) c

/-- What the units the context owned do (R366, R319). The close of a teardown that a facet change makes is the facet change's: a wake wins
over it (R329; DEDUCED, log 110). -/
def tearUnits (s : State) (c : Nat) (cause : TearCause) : State :=
  let t := if s.facet.glintPort.isSome && s.facet.glintOwner = c then clearBanks s else s
  let t := (span 0 8).foldl (fun t n =>
    if (cciCfg t n).enabled && (cciCfg t n).owner = c && (cciOf t n).armed then
      setCci t n { cciOf t n with armed := false, window := wr (cciOf t n).window 7 (rd (cciOf t n).window 7 &&& 0x7F) }
    else t) t
  if t.facet.island.owner = some c && t.island.open_ then
    { t with island := if cause = .facetChange then { t.island with closeFacet := true } else { t.island with closeOwner := true } }
  else t

/-- Status that a cause gives the teardown and its event (R218, R365). -/
def tearStatus : TearCause → Nat
  | .contextFault => stFault
  | .eccUncorrectable => stUncorrectable
  | _ => stOk

/-- The completion record of the faulting instance, after its end. -/
def tearDetail (before after : State) (c : Nat) (e : Option Nat) : List Byte :=
  match e.bind fun k => (engOf before k).run with
  | some i => if i.origin.slot = c then rdBytes (ctxOf after c).stores.xs (recordPlace before c i.origin.cmd) 32 else []
  | none => []

/-- A slot that holds shares. -/
def occupied (x : Ctx) : Bool := decide (x.state = .active) || decide (x.state = .parked) || decide (x.state = .stopped) || decide (x.state = .loading)

/-- Tear a context down (R365), with what follows it. -/
def tearDown (s : State) (c : Nat) (cause : TearCause) (e : Option Nat) (restart : Option Nat) : State :=
  let t := tearSteps s c none
  let detail := tearDetail s t c e
  let t := modCtx t c fun x => { x with lastStatus := tearStatus cause, restart := restart, tear := none, module := none, bindings := [], cores := [] }
  checkLedgers (postEvent (returnShares (tearUnits t c cause) c) (tearStatus cause) c (0x40000 + 0x40 * c) detail)

/-- The restart that follows a teardown (R367, R435). -/
def restartAfter (s : State) (c : Nat) (cause : TearCause) : Option Nat :=
  match cause with
  | .contextFault | .eccUncorrectable =>
    let g := tget CtxRecord.none s.facet.contexts c
    if g.present && g.restart then some 0 else none
  | .facetChange => some 4
  | _ => none

/-- TEARDOWN: on the edge after its cause (R365). -/
def execTeardown (c : Nat) (s : State) : Host.Outcome State Fault Refusal :=
  let x := ctxOf s c
  match x.tear with
  | some (cause, e, edge) =>
    if s.sys.halted then .next s
    else if occupied x then .next (tearDown (advanceTo s edge) c cause e (restartAfter s c cause))
    else .next (modCtx s c fun x => { x with tear := none })
  | none => .next s

/-! ### Clears (R199) -/

/-- Steps of one store: those of an engine's ES or banks, of a core's CS, of XS, of DS. -/
def storeOf (k : StoreKind) (step : Nat) : Nat :=
  match k with
  | .es | .bank => step / 4
  | .cs => step / 32
  | _ => 0

/-- The lowest step of its store in clearing, which is the one being cleared; its owner. -/
def clearingStep (k : StoreKind) (t : Table Owner) (step : Nat) : Option Nat :=
  match tget .free t step with
  | .clearing c =>
    if t.any fun e => isClearing e.2 && decide (e.1 < step) && decide (storeOf k e.1 = storeOf k step) then none else some c
  | _ => none

/-- The table of a store's ledger. -/
def ledgerTable (l : Ledgers) : StoreKind → Table Owner
  | .es => l.es
  | .bank => l.banks
  | .cs => l.cs
  | .xs => l.xs
  | .ds => l.ds
  | _ => []

def setLedgerTable (l : Ledgers) (k : StoreKind) (t : Table Owner) : Ledgers :=
  match k with
  | .es => { l with es := t }
  | .bank => { l with banks := t }
  | .cs => { l with cs := t }
  | .xs => { l with xs := t }
  | .ds => { l with ds := t }
  | _ => l

/-- Number of a store in MEM_ECC_LAST_HI (R480). -/
def kindCode : StoreKind → Nat
  | .es => 0
  | .bank => 1
  | .cs => 2
  | .xs => 3
  | .ds => 4
  | .lineBuffer => 5
  | .island => 6
  | .warden => 7
  | .fabric => 8

/-- Key of word 0 of a step outside every context's share. -/
def freeKey (k : StoreKind) (step : Nat) : Nat := 2 ^ 48 * kindCode k + 2 ^ 32 * step

/-- Upsets of a step outside every context's share. -/
def freeUpsets (s : State) (k : StoreKind) (step : Nat) : Table (BitVec 144) :=
  s.mem.upFree.filter fun e => freeKey k step ≤ e.1 && e.1 < freeKey k step + 2 ^ 32

/-- The clear rewrites every word of a step; those no read could correct are reported (R218). -/
def clearWords (s : State) (k : StoreKind) (step : Nat) : State :=
  let bad := (freeUpsets s k step).filter fun e => eccDecode e.2 = .uncorrectable
  let t := bad.foldl (fun t e => partWord t (kindCode k) (e.1 % 2 ^ 32)) s
  { t with mem := { t.mem with upFree := t.mem.upFree.filter fun e => e.1 < freeKey k step || freeKey k step + 2 ^ 32 ≤ e.1 } }

/-- SHARE_CLEAR_DONE: the step counts as free; with the last of its context the slot is empty (R199, R346, R365). Zeroing of the stack
pauses at Stop 0 (R208). -/
def execShareClearDone (k : StoreKind) (step : Nat) (s : State) : Host.Outcome State Fault Refusal :=
  let t := ledgerTable s.ledgers k
  match clearingStep k t step with
  | none => .next s
  | some c =>
    if k = .ds && s.iris.stop = 0 then .next s
    else
      let u := clearWords { s with ledgers := setLedgerTable s.ledgers k (tset .free t step .free) } k step
      .next (checkLedgers (settleEmpty u c))

/-! ### Loading -/

/-- The loader refuses a module (R113): the code stays, the shares return. -/
def rejectLoad (s : State) (c code : Nat) : State :=
  returnShares (dropHeld (modCtx s c fun x => { x with loadCode := code, restart := none }) c) c

/-- The module has a context-start command, and instances were kept (R382). -/
def keepsInstances (s : State) (c : Nat) : Bool :=
  s.ready.any (fun r => r.slot = c) && commandsWhere s c (fun k => k.trigger = .start) ≠ []

/-- The boot image's module of a number (R407). -/
def imageModule (s : State) (n : Nat) : Option ImageModule := s.sec.modules.find? fun m => m.number = n

/-- CONTEXT_LOADED: the loader's checks, the binding, and the first state (R112, R113, R346, R382). A module the image does not hold
is code 0x0A (R478); one whose section fails its digest leaves the slot empty with SIGNATURE_FAIL (R403). The command carries the
module's bytes. -/
def execContextLoaded (c : Nat) (m : Option (List Byte)) (s : State) : Host.Outcome State Fault Refusal :=
  let x := ctxOf s c
  if x.state ≠ .loading then .next s
  else match imageModule s x.granted.module, m.map parseModule with
    | none, _ => .next (rejectLoad s c 0x0A)
    | some _, none => .next (rejectLoad s c 0x0A)
    | some b, some m =>
      let code := loaderCode s c x.granted m
      if !b.shaOk then .next (postEvent (rejectLoad s c 0) stSignature c (0x40000 + 0x40 * c) [])
      else if code ≠ 0 then .next (rejectLoad s c code)
      else
        let t := bindModule s c m
        let t := modCtx t c fun y => { y with startOnly := decide (x.restart = some 1) && keepsInstances t c, restart := none }
        .next (settleSlot t c)

/-! ### Restarts -/

/-- Every peer toward which the context holds a grant is reachable in a formed set (R384). -/
def peersReachable (s : State) (c : Nat) : Bool := (grantPeers s c).all (linkUp s)

/-- Stores of a grant that have power at a level: cores of the ES and CS, XS from Stop 1 (R382). -/
def storesPowered (s : State) (c : Nat) : Bool := (ctxOf s c).granted.level ≤ s.iris.stop

/-- Back to loading with the shares held. -/
def reload (s : State) (c cause : Nat) : State :=
  let t := trace s 13 c 0 0 (BitVec.ofNat 64 cause)
  modCtx t c fun x => { x with state := .loading }

/-- Back to loading with the facet's grants (R367, R435). The load of a facet change is one into an empty slot: the counts that R96, R106 and
R444 keep over a restart start again. -/
def regrant (s : State) (c cause : Nat) : State :=
  let g := tget CtxRecord.none s.facet.contexts c
  if !g.present then modCtx s c fun x => { x with restart := none }
  else match grantShares (trace s 13 c 0 0 (BitVec.ofNat 64 cause)) c g with
    | some t => checkLedgers (modCtx t c fun x =>
        if cause = 4 then { x with restart := none, step := 0, chain := 0, progress := Progress.start } else { x with restart := none })
    | none => modCtx s c fun x => { x with restart := none }

/-- CONTEXT_RESTART: an emptied slot is granted again (R367, R435); a parked slot that lost power or a link binds its module again
once its level or its peers are reached (R382, R384). -/
def execContextRestart (c : Nat) (s : State) : Host.Outcome State Fault Refusal :=
  let x := ctxOf s c
  match x.restart with
  | none => .next s
  | some k =>
    if s.sys.halted then .next s
    else if x.state = .empty && (k = 0 || k = 4) then .next (regrant s c k)
    else if x.progress.running ≠ [] then .next s
    else if x.state = .parked && storesPowered s c && (k = 1 || (k = 2 && peersReachable s c)) then .next (reload s c k)
    else .next s

end Sys2Proof.Machine
end

