-- ==== Sys2Proof/Machine/Relay.lean ====
section
/-! DEFINITION. Relay: training and set formation, links going down, cut peers, and the flits that arrive (R384 to R398). -/

namespace Sys2Proof.Machine

open Sys2Proof

/-! ### Ports and peers (R385) -/

/-- Ports the set role uses. -/
def rolePorts (s : State) : Nat := portsPerPair s.facet.setSize * (s.facet.setSize - 1)

/-- Ports toward a peer. -/
def portsToward (s : State) (peer : Nat) : List Nat :=
  span (peerNumber s.facet.partIndex peer * portsPerPair s.facet.setSize) (portsPerPair s.facet.setSize)

/-- A port's status register. -/
def relayRegister (n : Nat) : Nat := 0xC0020 + 4 * n

/-- Every other part of the set that is not cut. -/
def livePeers (s : State) : List Nat :=
  (span 0 s.facet.setSize).filter fun j => j ≠ s.facet.partIndex && !(s.relay.cut.getLsbD j)

/-! ### A link goes down (R384) -/

/-- A ready instance ends as failed. -/
def failReady (s : State) (st : Nat) (r : Ready) : State :=
  let t := { s with ready := s.ready.erase r, engines := clearWaiting s.engines r }
  let t := traceEnd t t.now r.slot r.cmd 2 st 0 false
  let (_, t) := writeRecordEnd t r.slot r.cmd st 2 none 0 0
  freeInbox t r.slot r.inbox

/-- Every instance of the context ends as failed with LINK_DOWN; the restart takes the place of its dependents. -/
def failInstances (s : State) (c : Nat) : State :=
  let t := ((allInsts s).filter fun i => i.origin.slot = c).foldl
    (fun t i => (finish (undo t i) { i with failed := some (stLinkDown, 0) } 2).2) s
  let t := dropIncoming t c
  (t.ready.filter fun r => r.slot = c).foldl (fun t r => failReady t stLinkDown r) t

/-- Credits toward every peer return to free. -/
def freshCredits (x : Ctx) : Ctx :=
  { x with credits := tmap Credit.none (fun k => { k with free := k.grant, held := 0, flight := 0 }) x.credits }

/-- The context's received messages and chunks are discarded. -/
def dropReceived (s : State) (c : Nat) : State :=
  let t := (ownWindows s c).foldl (fun t w => setWindow t w.number []) s
  { t with relay := { t.relay with chunks := t.relay.chunks.filter fun k => k.slot ≠ c } }

/-- A context with grants toward a lost peer fails, is parked, and waits for its restart. -/
def linkLost (s : State) (c : Nat) : State :=
  let t := dropBroken (dropReceived (failInstances s c) c)
  modCtx t c fun x => { freshCredits x with
    state := if x.state = .stopped then .stopped else .parked, restart := some 2, startOnly := false,
    progress := { x.progress with unconsumed := [], lines := 0 } }

/-- Contexts that hold a grant toward a peer. -/
def holdersToward (s : State) (peer : Nat) : List Nat :=
  (span 0 32).filter fun c => 0 < grantTo s c peer &&
    (decide ((ctxOf s c).state = .active) || decide ((ctxOf s c).state = .parked) || decide ((ctxOf s c).state = .stopped))

/-- The link to a peer goes down. -/
def linkGone (s : State) (peer : Nat) : State := checkLedgers ((holdersToward s peer).foldl linkLost s)

/-- Do something to the ports of a link, which goes down if it was up. -/
def takeDown (s : State) (peer : Nat) (f : State → State) : State := if linkUp s peer then linkGone (f s) peer else f s

/-- A port retrains from step 3 (R388). -/
def retrainRelay (s : State) (n cause : Nat) : State :=
  takeDown s (peerOfPort s n) fun s =>
    let x := relayPort s n
    chipEvent (setRelayPort s n { x with up := false, step := 3, cause := cause, retrains := min (x.retrains + 1) 255, seqs := [] })
      stLinkDown (relayRegister n)

/-- Ports toward a peer lose it and train from step 1. -/
def dropPorts (s : State) (peer : Nat) : State :=
  (portsToward s peer).foldl (fun t n => setRelayPort t n { relayPort t n with up := false, step := 1, seqs := [], fails := 0 }) s

/-! ### Cut peers (R396) -/

/-- Control flits with the set epoch and the cut parts (the payload is the device's own: log 16). -/
def announce (s : State) : State :=
  (livePeers s).foldl (fun t p => transmit t
    { peer := p, kind := 6, slot := 0, window := 0, message := 0, offset := 0, bytes := bytesLe s.relay.cut.toNat 16, credits := 0 }) s

/-- Mark a part cut; its links go down. -/
def fence (s : State) (j : Nat) : State :=
  if s.relay.cut.getLsbD j || j = s.facet.partIndex || s.facet.setSize ≤ j then s
  else takeDown s j fun s =>
    dropPorts { s with relay := { s.relay with cut := s.relay.cut ||| BitVec.ofNat 9 (2 ^ j) } } j

/-- The part cuts a peer: the epoch rises, and every other peer hears of it. -/
def cutPeer (s : State) (j : Nat) : State :=
  if s.relay.cut.getLsbD j || j = s.facet.partIndex || s.facet.setSize ≤ j then s
  else
    let t := fence s j
    announce { t with relay := { t.relay with epoch := t.relay.epoch + 1 } }

/-- Every port toward the peer has failed three consecutive retrains. -/
def allFailed (s : State) (j : Nat) : Bool := (portsToward s j).all fun n => 3 ≤ (relayPort s n).fails

/-- PEER_CUT. -/
def execPeerCut (peer : Nat) (s : State) : Host.Outcome State Fault Refusal :=
  .next (if s.iris.stop = 4 && 1 < s.facet.setSize && peer < s.facet.setSize && peer ≠ s.facet.partIndex && allFailed s peer
    then cutPeer s peer else s)

/-- LINK_DOWN: the partner left Stop 4 or lost power (R384). -/
def execLinkDown (peer : Nat) (s : State) : Host.Outcome State Fault Refusal :=
  .next (if linkUp s peer && peer < s.facet.setSize && peer ≠ s.facet.partIndex then takeDown s peer (dropPorts · peer) else s)

/-- RELAY_RETRAIN: the elastic fill moved by more than one entry (R57, R388). -/
def execRelayRetrain (port : Nat) (s : State) : Host.Outcome State Fault Refusal :=
  .next (if (relayPort s port).up && s.iris.stop = 4 then retrainRelay s port 5 else s)

/-! ### Training (R386, R387) -/

/-- A port that trains. -/
def portTrains (s : State) (n : Nat) : Bool := s.iris.stop = 4 && n < rolePorts s && !(relayPort s n).up && !s.sys.halted

/-- What the partner on port n must say: index, set size, our number at it, its port, the digest (R385, R386). -/
def identityOk (s : State) (n : Nat) (p : RelayIdentity) : Bool :=
  let i := s.facet.partIndex
  let j := peerOfPort s n
  let per := portsPerPair s.facet.setSize
  p.partIndex = j && p.setSize = s.facet.setSize && p.peerNumber = peerNumber j i &&
  p.portNumber = peerNumber j i * per + n % per && p.digest = s.facet.relayDigest

/-- A training failure: the cause, the event, and the step it starts again from; a failed retrain counts (R396). -/
def trainingFailed (s : State) (n cause : Nat) : State :=
  let x := relayPort s n
  let y := if x.step = 3 then { x with cause := cause, fails := x.fails + 1 } else { x with cause := cause, step := 1 }
  chipEvent (setRelayPort s n y) stLinkDown (relayRegister n)

/-- Every port of the role is up: the set is formed (R386). -/
def formSet (s : State) : State :=
  if !s.relay.formed && (span 0 (rolePorts s)).all (fun n => (relayPort s n).up) then
    chipEvent { s with relay := { s.relay with formed := true } } stOk 0xC0000
  else s

/-- The port comes up; a peer that was cut and has been reset is fenced no more. -/
def portUp (s : State) (n : Nat) (p : RelayIdentity) : State :=
  let t := setRelayPort s n { relayPort s n with up := true, step := 0, cause := 0, fails := 0, peer := p.partIndex, depth := p.depth, seqs := [] }
  formSet { t with relay := { t.relay with epoch := if t.relay.epoch.toNat < p.epoch.toNat then p.epoch else t.relay.epoch, cut := t.relay.cut &&& ~~~(BitVec.ofNat 9 (2 ^ p.partIndex)) } }

/-- LINK_TRAINING. A changed identity on a retrain cuts the peer (R396). -/
def execLinkTraining (port : Nat) (partner : RelayIdentity) (s : State) : Host.Outcome State Fault Refusal :=
  if !(portTrains s port) then .next s
  else if !(identityOk s port partner) then
    let t := trainingFailed s port 2
    .next (if (relayPort s port).step = 3 then cutPeer t (peerOfPort s port) else t)
  else if s.relay.cut.getLsbD partner.partIndex && partner.epoch ≠ 0 then .next (trainingFailed s port 2)
  else if 720 < partner.flight then .next (trainingFailed s port 3)
  else .next (portUp s port partner)

/-- TRAINING_STEP_TIMEOUT. -/
def execTrainingStepTimeout (port : Nat) (s : State) : Host.Outcome State Fault Refusal :=
  .next (if portTrains s port then trainingFailed s port 1 else s)

/-! ### Flits (R389, R390) -/

/-- A field of a flit. -/
def flitField (f : FlitIn) (lo n : Nat) : Nat := (f.bits.extractLsb' lo n).toNat

/-- Kind, sending part, sending slot, epoch, sequence. -/
def flitKind (f : FlitIn) : Nat := flitField f 0 4
def flitPart (f : FlitIn) : Nat := flitField f 4 4
def flitSlot (f : FlitIn) : Nat := flitField f 8 5
def flitEpoch (f : FlitIn) : Nat := flitField f 16 16
def flitSeq (f : FlitIn) : Nat := flitField f 32 16

/-- Valid words. -/
def flitWords (f : FlitIn) : List (BitVec 128) := (span 0 (min (flitField f 128 6) 38)).map fun k => f.bits.extractLsb' (276 + 128 * k) 128

/-- The XOR of the check bits of the valid words. -/
def flitCheck (f : FlitIn) : Nat := (flitWords f).foldl (fun x w => x ^^^ eccCheck w) 0

/-- Note the last counted error (R482). -/
def relayError (s : State) (f : FlitIn) (kind : Nat) : State :=
  { s with relay := { s.relay with lastError := BitVec.ofNat 8 (f.port % 8 + 8 * (f.lane % 4) + 32 * kind) } }

/-- A corrected codeword counts (R390, R398). -/
def noteCorrected (s : State) (f : FlitIn) : State :=
  if f.fecCorrected then
    counterEvent (relayError { s with relay := { s.relay with fecCorr := bump s.relay.fecCorr 1 } } f 0) 0xC0044 stOk
  else s

/-- The three errors that discard a flit and retrain its port: uncorrectable codeword, check mismatch, sequence gap (R390). -/
def flitError (s : State) (f : FlitIn) : Option Nat :=
  if !f.fecOk then some 1
  else if flitCheck f ≠ flitField f 192 16 then some 2
  else if flitSeq f ≠ (tget 0 (relayPort s f.port).seqs f.lane).toNat then some 3
  else none

/-- Count such an error, post its event, and retrain. -/
def flitDiscard (s : State) (f : FlitIn) (kind : Nat) : State :=
  let r := s.relay
  let r := if kind = 1 then { r with fecUncorr := bump r.fecUncorr 1 } else if kind = 2 then { r with checkFail := bump r.checkFail 1 }
    else { r with seqGap := bump r.seqGap 1 }
  let t := counterEvent (relayError { s with relay := r } f kind) (0xC0044 + 4 * kind) stLinkDown
  retrainRelay t f.port 4

/-- A flit of another epoch is dropped and counted (R396). -/
def flitStale (s : State) (f : FlitIn) : State :=
  counterEvent (relayError { s with relay := { s.relay with stale := bump s.relay.stale 1 } } f 4) 0xC0054 stEpoch

/-- The receive window a flit names, open to its sender, in a slot that holds shares (R392). -/
def flitWindow (s : State) (f : FlitIn) : Option WindowCfg :=
  (windowOpen s s.facet.partIndex (flitField f 48 8) (flitPart f) (flitSlot f)).filter fun w => occupied (ctxOf s w.owner)

/-- A message of a window's list. -/
def messageOf (s : State) (w : WindowCfg) (number slot : Nat) : Option Message :=
  (windowQueue s w.number).find? fun m => m.number = number && m.slot = slot

/-- Kind 1: the words are written into the window, and the message grows (R389, R392). -/
def takeData (s : State) (f : FlitIn) : State :=
  match flitWindow s f with
  | none => s
  | some w =>
    let ws := flitWords f
    let at_ := flitField f 96 32
    if w.size < 16 * (at_ + ws.length) then s
    else
      let t := xsPut s w.owner (16 * w.offset + 16 * at_) (ws.flatMap fun x => bytesLe x.toNat 16)
      let number := flitField f 64 32
      let m := (messageOf t w number (flitSlot f)).getD
        { number := number, slot := flitSlot f, offset := at_, length := 0, released := false, last := false, returned := false }
      let lo := min m.offset at_
      let hi := max (m.offset + m.length / 16) (at_ + ws.length)
      let n := { m with offset := lo, length := 16 * (hi - lo), last := m.last || flitField f 134 1 = 1 }
      let q := windowQueue t w.number
      setWindow t w.number (if q.contains m then q.map fun x => if x = m then n else x else q ++ [n])

/-- A message is dropped, its credits going back to the sender (R393, R394). -/
def dropMessage (s : State) (w : WindowCfg) (m : Message) : State :=
  let t := setWindow s w.number ((windowQueue s w.number).erase m)
  if m.returned then t
  else transmit t { peer := w.fromPart, kind := 5, slot := m.slot, window := w.number, message := m.number, offset := 0, bytes := [],
                    credits := ceilDiv m.length 256 }

/-- Kind 2: the message joins the queue of 64, or is discarded (R394). -/
def takeRelease (s : State) (f : FlitIn) : State :=
  match flitWindow s f with
  | none => s
  | some w =>
    match messageOf s w (flitField f 64 32) (flitSlot f) with
    | none => s
    | some m =>
      let q := windowQueue s w.number
      if m.released then s
      else if 64 ≤ (q.filter (·.released)).length then
        let t := dropMessage s w m
        counterEvent (relayError { t with relay := { t.relay with overflow := bump t.relay.overflow 1 } } f 5) 0xC0058 stLength
      else setWindow s w.number (q.erase m ++ [{ m with released := true }])

/-- Kind 3: the data of an unreleased message is dropped (R394). -/
def takeDiscard (s : State) (f : FlitIn) : State :=
  match flitWindow s f with
  | none => s
  | some w =>
    match messageOf s w (flitField f 64 32) (flitSlot f) with
    | none => s
    | some m => if m.released then s else dropMessage s w m

/-- Engines whose instance waits in an ALLRED of a slot and tag. -/
def reducing (s : State) (slot tag : Nat) : List Nat :=
  (s.engines.filter fun e => e.2.run.any fun i => i.origin.slot = slot && match i.wait with
    | .reduce w _ _ => allredTag w = tag
    | _ => false).map (·.1)

/-- Kind 4: words of a chunk join what its sender has sent, and the waiting ALLRED goes on (R395). -/
def takeExchange (s : State) (f : FlitIn) : State :=
  let slot := flitSlot f
  let tag := flitField f 48 8
  let mine (c : Chunk) : Bool :=
    c.slot = slot && c.tag = tag && c.part = flitPart f && c.owner = flitField f 96 4 && c.phase = flitField f 100 1
  let l := s.relay.chunks
  let ws := flitWords f
  let l := if l.any mine then l.map fun c => if mine c then { c with words := c.words ++ ws } else c
    else l ++ [{ slot := slot, tag := tag, part := flitPart f, owner := flitField f 96 4, phase := flitField f 100 1, words := ws }]
  (reducing s slot tag).foldl (fun t e => progressReduce 2 t e) { s with relay := { s.relay with chunks := l } }

/-- Kind 6: a higher set epoch is adopted and passed on, with the parts it cuts (R396). -/
def takeControl (s : State) (f : FlitIn) : State :=
  if flitEpoch f ≤ s.relay.epoch.toNat then s
  else
    let mask := ((flitWords f).headD 0).toNat % 512
    let t := { s with relay := { s.relay with epoch := BitVec.ofNat 16 (flitEpoch f) } }
    announce (((span 0 9).filter fun j => bit mask j).foldl fence t)

/-- Credits that ride in a flit (R389, R393). -/
def flitCredits (s : State) (f : FlitIn) : State :=
  let n := flitField f 144 24
  if n = 0 then s else creditReturn s (flitField f 168 5) (flitPart f) n

/-- What a flit of a kind does once it is accepted. -/
def flitEffect (kind : Nat) (s : State) (f : FlitIn) : State :=
  match kind with
  | 1 => takeData s f
  | 2 => takeRelease s f
  | 3 => takeDiscard s f
  | 4 => takeExchange s f
  | _ => s

/-- A flit arrives on a trained port: codeword, check and sequence, then the epoch, then its credits and its kind. An idle flit
(kind 0) takes its sequence number too. -/
def receiveFlit (kind : Nat) (f : FlitIn) (s : State) : State :=
  if !(relayPort s f.port).up || s.iris.stop ≠ 4 || s.sys.halted || (flitKind f ≠ kind && flitKind f ≠ 0) then s
  else
    let s := noteCorrected s f
    match flitError s f with
    | some k => flitDiscard s f k
    | none =>
      let x := relayPort s f.port
      let s := setRelayPort s f.port { x with seqs := tset 0 x.seqs f.lane (tget 0 x.seqs f.lane + 1) }
      if flitKind f = 6 && s.relay.epoch.toNat < flitEpoch f then takeControl s f
      else if flitEpoch f ≠ s.relay.epoch.toNat then flitStale s f
      else if flitKind f = 0 then flitCredits s f
      else checkLedgers (flitEffect kind (flitCredits s f) f)

/-- DATA_FLIT. -/
def execDataFlit (f : FlitIn) (s : State) : Host.Outcome State Fault Refusal := .next (receiveFlit 1 f s)

/-- RELEASE_FLIT. -/
def execReleaseFlit (f : FlitIn) (s : State) : Host.Outcome State Fault Refusal := .next (receiveFlit 2 f s)

/-- DISCARD_FLIT. -/
def execDiscardFlit (f : FlitIn) (s : State) : Host.Outcome State Fault Refusal := .next (receiveFlit 3 f s)

/-- EXCHANGE_FLIT. -/
def execExchangeFlit (f : FlitIn) (s : State) : Host.Outcome State Fault Refusal := .next (receiveFlit 4 f s)

/-- CREDIT_RETURN_FLIT. -/
def execCreditReturnFlit (f : FlitIn) (s : State) : Host.Outcome State Fault Refusal := .next (receiveFlit 5 f s)

/-- CONTROL_FLIT: outside training it carries a new set epoch, and nothing else acts. -/
def execControlFlit (f : FlitIn) (s : State) : Host.Outcome State Fault Refusal := .next (receiveFlit 6 f s)

end Sys2Proof.Machine
end

