-- ==== Sys2Proof/Machine/Sensor.lean ====
section
/-! DEFINITION. Sensor ports, the image front end, frame logs (R57, R231, R232, R287 to R293) and camera control (R294 to R297). -/

namespace Sys2Proof.Machine

open Sys2Proof

/-! ### Pixels (R287; the packings of CSI-2 are PRESUMED, log 8) -/

/-- RAW10: four high bytes, then the low bits of the four. -/
def unpack10 : List Byte → List Nat
  | a :: b :: c :: d :: e :: r =>
    let x := e.toNat
    (a.toNat * 4 + bits x 1 0) :: (b.toNat * 4 + bits x 3 2) :: (c.toNat * 4 + bits x 5 4) :: (d.toNat * 4 + bits x 7 6) :: unpack10 r
  | _ => []

/-- RAW12: two high bytes, then the low nibbles of the two. -/
def unpack12 : List Byte → List Nat
  | a :: b :: e :: r => (a.toNat * 16 + bits e.toNat 3 0) :: (b.toNat * 16 + bits e.toNat 7 4) :: unpack12 r
  | _ => []

/-- RAW14: four high bytes, then 24 low bits, 6 a pixel. -/
def unpack14 : List Byte → List Nat
  | a :: b :: c :: d :: e :: f :: g :: r =>
    let x := e.toNat + 256 * f.toNat + 65536 * g.toNat
    (a.toNat * 64 + bits x 5 0) :: (b.toNat * 64 + bits x 11 6) :: (c.toNat * 64 + bits x 17 12) :: (d.toNat * 64 + bits x 23 18) ::
      unpack14 r
  | _ => []

/-- RAW16: high byte, low byte. -/
def unpack16 : List Byte → List Nat
  | a :: b :: r => (a.toNat * 256 + b.toNat) :: unpack16 r
  | _ => []

/-- Pixels of a payload. -/
def unpackLine (dataType : Nat) (l : List Byte) : List Nat :=
  match typeBits dataType with
  | 8 => l.map (·.toNat)
  | 10 => unpack10 l
  | 12 => unpack12 l
  | 14 => unpack14 l
  | _ => unpack16 l

/-- The bytes of a pixel in the ring (R231). -/
def ringCode (dataType p : Nat) : List Byte :=
  let b := typeBits dataType
  if b = 8 then [BitVec.ofNat 8 (lowBits 8 ((p : Int) - 128))]
  else bytesLe (lowBits 16 ((p * 2 ^ (16 - b) : Nat) - 32768 : Int)) 2

/-! ### Ports -/

/-- Register of a port's status. -/
def portRegister (p : Nat) : Nat := 0x80000 + 4 * p

/-- A port reports LINK_DOWN and retrains (R57). -/
def retrainPort (s : State) (p : Nat) : State :=
  let x := portOf s p
  chipEvent (setPort s p { x with up := false, half := none, retrains := min (x.retrains + 1) 255 }) stLinkDown (portRegister p)

/-- A packet that produces no line is counted (R289). -/
def ignorePacket (s : State) (p : Nat) : State := setPort s p { portOf s p with ignored := bump (portOf s p).ignored 1 }

/-- A port that takes packets: declared, capturing, powered and trained. -/
def portTakes (s : State) (p : Nat) : Bool := portCaptures s p && (portOf s p).up && !s.sys.halted

/-- The port whose record a pair's line goes to: the lower one. -/
def linePort (s : State) (p : Nat) : Nat := if bondedUpper s p then p - 1 else p

/-- Line number of a line of port p (R232). -/
def lineNumber (s : State) (p : Nat) (first : Line) : Line :=
  if s.lix.source = 8 + p then s.lix.count + BitVec.ofNat 48 (s.lix.due + 1) else first

/-- Write a complete line into its slot (R232). -/
def writeRing (s : State) (p : Nat) (l : Line) (px : List Nat) : State :=
  let f := portCfg s p
  if f.ringLines = 0 then s
  else
    let x := portOf s p
    let r : RingLine := { line := l, bytes := px.flatMap (ringCode f.dataType) }
    let first := l.toNat % f.ringLines * linePitch s p / 16
    setPort s p { x with ring := tset { line := 0, bytes := [] } x.ring (l.toNat % f.ringLines) r, newest := some l,
                         upRing := x.upRing.filter fun e => e.1 < first || first + linePitch s p / 16 ≤ e.1 }

/-- The frame in progress takes a line (R290). -/
def frameLine (s : State) (p : Nat) (l : Line) (dropped : Bool) : State :=
  let x := portOf s p
  if !x.frameOpen then s
  else setPort s p { x with firstLine := some (x.firstLine.getD l), lastLine := l,
                            frameDropped := if dropped then min (x.frameDropped + 1) 65535 else x.frameDropped }

/-- Inputs of Glint as synchronised, on the balls the facet places (R63). -/
def setInputs (s : State) (v : BitVec 16) : State :=
  let m := BitVec.ofNat 16 (((span 0 16).filter fun k => placed s (0x10 + k)).foldl (fun n k => n + 2 ^ k) 0)
  { s with glint := { s.glint with input := v &&& m } }

/-- A whole line of port p, or a dropped one: frame log, of both ports of a pair, ring, Glint, line-valid (R289, R291). -/
def takeLine (s : State) (p : Nat) (first : Line) (px : Option (List Nat)) : State :=
  let l := lineNumber s p first
  let t := frameLine s p l px.isNone
  let t := if (portCfg s p).bonded then frameLine t (p + 1) l px.isNone else t
  let t := match px with
    | some x => writeRing t p l x
    | none => t
  lineValid (glintLine t p (typeBits (portCfg s p).dataType) px) p

/-- The packet is a good line of the port (R289). -/
def goodPacket (s : State) (p : Nat) (k : LinePacket) : Bool :=
  let f := portCfg s p
  k.crcOk && k.wordCount * 8 = f.length * typeBits f.dataType && k.payload.length = k.wordCount

/-- Stitch two halves in column order (R292). -/
def stitch : Option (List Nat) → Option (List Nat) → Option (List Nat)
  | some a, some b => some (a ++ b)
  | _, _ => none

/-- A half of a bonded pair: it waits, completes the line, or shows the pair out of step (R292, R293). -/
def takeHalf (s : State) (p : Nat) (first : Line) (px : Option (List Nat)) : State :=
  let low := linePort s p
  let other := if p = low then p + 1 else low
  if (portOf s p).half.isSome then retrainPort (retrainPort s low) (low + 1)
  else match (portOf s other).half with
    | none => setPort s p { portOf s p with half := some (px, first) }
    | some (q, f) =>
      let t := setPort s other { portOf s other with half := none }
      if p = low then takeLine t low first (stitch px q) else takeLine t low f (stitch q px)

/-- LINE_PACKET (R289, R291, R292). -/
def execLinePacket (p : Nat) (pkt : LinePacket) (s : State) : Host.Outcome State Fault Refusal :=
  let f := portCfg s p
  if !(portTakes s p) then .next s
  else if pkt.dataType ≠ f.dataType || pkt.channel ≠ f.channel then .next (ignorePacket s p)
  else
    let good := goodPacket s p pkt
    let t := if s.facet.glintPort = some (linePort s p) && 3 ≤ s.iris.stop then setInputs s pkt.reflexIn else s
    let t := if good then t else setPort t p { portOf t p with dropped := bump (portOf t p).dropped 1 }
    let px := if good then some (unpackLine f.dataType pkt.payload) else none
    .next (if bondedUpper s p || f.bonded then takeHalf t p pkt.firstLix px else takeLine t p pkt.firstLix px)

/-- IGNORED_PACKET: another type or channel, or a header whose ECC cannot be corrected (R289). -/
def execIgnoredPacket (p : Nat) (s : State) : Host.Outcome State Fault Refusal :=
  .next (if portTakes s p then ignorePacket s p else s)

/-- FRAME_START (R290). -/
def execFrameStart (p : Nat) (n : BitVec 16) (s : State) : Host.Outcome State Fault Refusal :=
  if !(portTakes s p) then .next s
  else .next (setPort s p { portOf s p with frame := n, frameOpen := true, firstLine := none, lastLine := 0, frameDropped := 0 })

/-- The lines of a frame's entry; a frame with no line has no first and last line, and the spec gives no value for them (log 8). -/
def frameLines (s : State) (x : Port) : Line × Line × State :=
  match x.firstLine with
  | some l => (l, x.lastLine, s)
  | none =>
    let (a, t) := freshWord s
    let (b, t) := freshWord t
    let (c, t) := freshWord t
    (a ++ b.truncate 16, c ++ (b.extractLsb' 16 16), t)

/-- FRAME_END: the port writes its entry into the ring owner's XS; a pair's ring is its lower port's (R231, R290). -/
def execFrameEnd (p : Nat) (_n : BitVec 16) (s : State) : Host.Outcome State Fault Refusal :=
  let f := portCfg s (linePort s p)
  let x := portOf s p
  if !(portTakes s p) || !x.frameOpen then .next s
  else
    let (a, b, t) := frameLines s x
    let t := setPort t p { x with frameOpen := false }
    if f.ringLines = 0 then .next t
    else
      let e := bytesLe x.frame.toNat 2 ++ bytesLe a.toNat 6 ++ bytesLe b.toNat 6 ++ bytesLe x.frameDropped 2
      .next (xsPut t f.ringOwner (1024 * (portCfg s p).logKib + 16 * (x.frame.toNat % 64)) e)

/-- SENSOR_PORT_RETRAIN: a locked port's fill moved by more than one entry (R57). -/
def execSensorPortRetrain (p : Nat) (s : State) : Host.Outcome State Fault Refusal :=
  .next (if (portOf s p).up && (portCfg s p).locked && portPowered s p then retrainPort s p else s)

/-- SENSOR_PORT_DESKEW: the port comes up with its depth, or reports LINK_DOWN and keeps retrying (R402). -/
def execSensorPortDeskew (p : Nat) (ok : Bool) (depth : BitVec 8) (s : State) : Host.Outcome State Fault Refusal :=
  let x := portOf s p
  if !(portPowered s p) || x.up || s.sys.halted || !s.clk.collimated then .next s
  else if ok then .next (setPort s p { x with up := true, depth := depth })
  else .next (chipEvent s stLinkDown (portRegister p))

/-! ### Camera control -/

/-- Controller n has power: its port's, or the part's where no port of its number is declared. -/
def cciPowered (s : State) (n : Nat) : Bool := if (portCfg s n).lanes = 0 then 1 ≤ s.iris.stop else portPowered s n

/-- Entry i of a window (R295). -/
def cciEntry (w : Memory) (i : Nat) : CciEntry :=
  let o := 0x20 + 16 * i
  let a := (rd w o).toNat
  { address := a % 128, read := 128 ≤ a, regBytes := (rd w (o + 1)).toNat % 4, count := (rd w (o + 2)).toNat,
    register := BitVec.ofNat 32 (rdLe w (o + 4) 4), data := rdBytes w (o + 8) 8 }

/-- The entries of a list; at most 62. -/
def cciEntries (w : Memory) : List CciEntry := (span 0 (min (rd w 8).toNat 62)).map (cciEntry w)

/-- The part writes aligned 8 bytes of a window where they change (R79). -/
def cciPut (s : State) (n : Nat) (new : Memory) : State :=
  let base := (cciCfg s n).windowKib * 1024
  (span 0 128).foldl (fun t k =>
    let b := rdBytes new (8 * k) 8
    if b = rdBytes (cciOf t n).window (8 * k) 8 then t
    else
      let (v, t) := timedValue t (cciCfg s n).owner (base + 8 * k) b
      setCci t n { cciOf t n with window := wrBytes (cciOf t n).window (8 * k) v }) s

/-- Set or clear a bit of byte 7: 64 busy, 128 arm. -/
def cciControl (w : Memory) (busy arm : Bool) : Memory :=
  wr w 7 (BitVec.ofNat 8 ((rd w 7).toNat % 64 + 64 * b2n busy + 128 * b2n arm))

/-- CCI_LIST_START: at the target line, when no list runs, the entries are copied (R296). -/
def execCciListStart (n : Nat) (s : State) : Host.Outcome State Fault Refusal :=
  let x := cciOf s n
  if !x.armed || x.running.isSome || !(cciPowered s n) || s.sys.halted || !(targetReached s x.target 0) then .next s
  else
    let t := setCci s n { x with running := some (cciEntries x.window), startAt := s.now, armed := false }
    .next (cciPut t n (cciControl x.window true false))

/-- A list ends: status, index and count, the busy bit clear. -/
def cciFinish (s : State) (n status index lists : Nat) (w : Memory) : State :=
  let x := cciOf s n
  let t := setCci s n { x with running := none, last := status, lastIndex := index, lists := BitVec.ofNat 32 lists }
  let w := cciControl (wr (wr w 9 (BitVec.ofNat 8 status)) 10 (BitVec.ofNat 8 index)) false (128 ≤ (rd x.window 7).toNat)
  cciPut t n (wrBytes w 0xC (bytesLe lists 4))

/-- Data of the read entries, in order, into their entries. -/
def cciReads (w : Memory) : List (CciEntry × Nat) → List (List Byte) → Memory
  | [], _ => w
  | (e, i) :: l, d =>
    if !e.read then cciReads w l d
    else match d with
      | [] => w
      | b :: r => cciReads (wrBytes w (0x28 + 16 * i) (b.take (min e.count 8))) l r

/-- CCI_LIST_END (R296). -/
def execCciListEnd (n : Nat) (reads : List (List Byte)) (s : State) : Host.Outcome State Fault Refusal :=
  let x := cciOf s n
  match x.running with
  | none => .next s
  | some l => .next (cciFinish s n 1 (l.length - 1) ((x.lists + 1).toNat) (cciReads x.window l.zipIdx reads))

/-- CCI_NACK: the list is abandoned with status 2, and an event is posted (R297). -/
def execCciNack (n : Nat) (entry : Nat) (s : State) : Host.Outcome State Fault Refusal :=
  let x := cciOf s n
  match x.running with
  | none => .next s
  | some l =>
    if l.length ≤ entry then .next s
    else .next (chipEvent (cciFinish s n 2 entry x.lists.toNat x.window) stOk (0x80060 + 4 * n))

/-- A list cut at a byte boundary ends with status 3 (R297). -/
def cciCutList (s : State) (n : Nat) : State :=
  if (cciOf s n).running.isSome then cciFinish s n 3 (cciIndex s n) (cciOf s n).lists.toNat (cciOf s n).window else s

end Sys2Proof.Machine
end

