-- ==== Sys2Proof/Machine/Stops.lean ====
section
/-! DEFINITION. The Stop levels: the ISLAND millisecond tick, raises and lowerings, the BUDGET levels, the thermal trip (R18 to R23,
R372 to R382, R502, R509). -/

namespace Sys2Proof.Machine

open Sys2Proof

/-! ### The tick -/

/-- BUDGET as the placed balls read it; an unplaced ball reads 1. -/
def budgetRead (s : State) (b : BitVec 2) : BitVec 2 :=
  BitVec.ofNat 2 (b2n (b.getLsbD 0 || !(placed s 0x05)) + 2 * b2n (b.getLsbD 1 || !(placed s 0x06)))

/-- The level read, and whether the last two ticks agree (R372). -/
def readBudget (s : State) (b : BitVec 2) : State :=
  let v := budgetRead s b
  { s with iris := { s.iris with budgetLast := v, budgetTwice := decide (v = s.iris.budgetLast) } }

/-- Accept the readings (R375). -/
def acceptTemps (s : State) (l : List Int) : State :=
  { s with iris := { s.iris with temps := (l.take 32).zipIdx.foldl (fun t e => tset 400 t e.2 e.1) s.iris.temps } }

/-- A reading at or above the ceiling posts THERMAL_LIMIT, naming the lowest such sensor (R376). -/
def postHeat (s : State) : State :=
  match (span 0 32).find? fun k => (s.facet.timing.ceiling : Int) ≤ tget 400 s.iris.temps k with
  | some k => chipEvent s stThermal (0x30100 + 4 * k)
  | none => s

/-- The refill of R373: what the limit leaves above the standing charge moves from in flight to free. -/
def refill (s : State) : State :=
  let n := min s.iris.flight (limitMw s - standing s)
  { s with iris := { s.iris with free := s.iris.free + n, flight := s.iris.flight - n } }

/-- An instance of a context whose level a test holds for is ready, running, frozen or deferred. -/
def anyAtLevel (s : State) (p : Nat → Bool) : Bool :=
  s.ready.any (fun r => p (ctxOf s r.slot).granted.level) || (allInsts s).any (fun i => p (ctxOf s i.origin.slot).granted.level)

/-- The timer line was reached in the millisecond that ends (R378). -/
def timerReached (s : State) : Bool := s.iris.wakeOn && (s.lix.count - s.iris.wakeLine).toNat < s.lix.msEdges

/-- What the event triggers of the millisecond ask for, with what is pending (R378). -/
def eventAsks (s : State) : Nat :=
  max s.iris.asked (max (if s.iris.stop = 0 && s.facet.timing.encoderEdges ≤ s.lix.msEdges then s.facet.timing.encoderLevel else 0)
    (if timerReached s then s.facet.timing.timerLevel else 0))

/-- Milliseconds without work (R379): the first tick after work counts none. -/
def countQuiet (s : State) : State :=
  let busy := anyAtLevel s (fun l => l = s.iris.stop) || decide (s.iris.stop < raiseAsked s)
  { s with iris := { s.iris with quiet := if busy || s.iris.worked then 0 else s.iris.quiet + 1, worked := busy } }

/-- Parked slots whose level is reached and that need no restart are active again (R346). -/
def wakeParked (s : State) : State :=
  s.ctxs.foldl (fun t e =>
    let x := ctxOf t e.1
    if x.state = .parked && x.restart.isNone && x.granted.level ≤ t.iris.stop then activate t e.1 else t) s

/-- Engines that depart at a level, with something on them. -/
def departing (s : State) (level : Nat) : List (Nat × Engine) :=
  s.engines.filter fun e => level < coreLevel (e.1 / 4) && (e.2.run.isSome || e.2.frozen ≠ [] || e.2.incoming.isSome)

/-- On the tick after the last of them ends, the first step of a forced lowering starts and its delay is reported as under R358
(R380). -/
def reportForced (s : State) : State :=
  match s.iris.forced with
  | none => s
  | some edge =>
    if departing s s.iris.target ≠ [] then s else
    let delay := s.now - edge
    let t := { s with iris := { s.iris with forced := none, preemptDelay := bump s.iris.preemptDelay delay } }
    chipEvent (trace t 7 0xFF 0 0 (BitVec.ofNat 64 delay)) stHeld 0x30018

/-- The island's part of a tick: 16 samples, the level of WAKE_N, the once-a-millisecond events (`wakeN`: the ball reads high). -/
def tickIsland (s : State) (wakeN : Bool) : State :=
  let t := counterTick s
  { t with island := { t.island with position := (t.island.position + 16) % 2 ^ 48,
                                     lowTicks := if wakeN then 0 else t.island.lowTicks + 1 },
           iris := { t.iris with mainOff := if t.iris.mainEn then 0 else t.iris.mainOff + 1 } }

/-- Iris' part of a tick. -/
def tickIris (s : State) (temps : List Int) (budget : BitVec 2) : State :=
  let t := postHeat (acceptTemps (readBudget s budget) temps)
  let t := refill t
  let t := { t with iris := { t.iris with asked := eventAsks t } }
  let t := wakeParked t
  let t := decideRaise (countQuiet (reportForced t))
  checkLedgers { t with lix := { t.lix with msEdges := 0 }, iris := { t.iris with asked := if t.iris.asked ≤ (if t.iris.lowering then t.iris.target else t.iris.stop) then 0 else t.iris.asked } }

/-- ISLAND_MS_TICK. Iris governs from READY onward, and not on a halted part (R402). -/
def execIslandMsTick (temps : List Int) (budget : BitVec 2) (wakeN : Bool) (s : State) : Host.Outcome State Fault Refusal :=
  if !s.sys.powerGood then .next s
  else
    let t := driveTdm (showPlayed (tickIsland s wakeN)) 0
    .next (if t.sys.ready && !t.sys.halted then tickIris t temps budget else acceptTemps t temps)

/-- BUDGET_LEVEL_CHANGE: the level two ticks have read is recognised (R372). -/
def execBudgetLevelChange (level : BitVec 2) (s : State) : Host.Outcome State Fault Refusal :=
  if !s.iris.budgetTwice || level ≠ s.iris.budgetLast || level = s.iris.budget then .next s
  else
    let t := { s with iris := { s.iris with budget := level } }
    .next (trace t 14 0xFF 0 0 (BitVec.ofNat 64 (limitMw t)))

/-! ### Raises -/

/-- Every ring slot is emptied on a raise (R233). -/
def emptyRings (s : State) : State :=
  { s with media := { s.media with ports := tmap Port.idle (fun p => { p with ring := [], newest := none }) s.media.ports } }

/-- Relay ports of the role start training (R386). -/
def startTraining (s : State) : State := (span 0 (rolePorts s)).foldl (fun t n => setRelayPort t n { relayPort t n with step := 1 }) s

/-- STOP_RAISE_DONE: the new level is ready (R18, R21, R334, R404). -/
def execStopRaiseDone (s : State) : Host.Outcome State Fault Refusal :=
  let i := s.iris
  if !i.raising || i.railsDue || s.sys.halted || (i.stop = 0 && !s.clk.collimated) then .next s
  else
    let t := emptyRings { s with iris := { i with stop := i.target, raising := false, quiet := 0, worked := false } }
    let t := if i.stop < 3 && 3 ≤ i.target then clearBanks { t with glint := { t.glint with fired := 0 } } else t
    let t := if i.target = 4 && 1 < t.facet.setSize then startTraining t else t
    let t := driveMclk (wakeParked t)
    .next (showIsland (if t.island.open_ && (t.island.wakePending || t.island.handedOff) then handOff (driveTdm t 0) else driveTdm t 0))

/-- RAISE_MAIN_EN_READY: the part starts PLL A and PLL B, which lock (R502). -/
def execRaiseMainEnReady (s : State) : Host.Outcome State Fault Refusal :=
  if !s.iris.railsDue || !s.iris.mainEn then .next s
  else .next { s with iris := { s.iris with railsDue := false }, clk := { s.clk with lock := 0b111 } }

/-! ### Deciding a lowering -/

/-- Hold time of a level, ms. -/
def holdTime (s : State) (level : Nat) : Nat :=
  let f := s.facet.timing
  match level with
  | 1 => f.hold1
  | 2 => f.hold2
  | 3 => f.hold3
  | _ => f.hold4

/-- The highest level any instance needs. -/
def neededLevel (s : State) : Nat :=
  (allInsts s).foldl (fun n i => max n (ctxOf s i.origin.slot).granted.level) (readyLevel s)

/-- Target of an idle lowering (R379, R328). -/
def idleTarget (s : State) : Nat := max s.facet.timing.floor (max (neededLevel s) (if s.island.open_ then 1 else 0))

/-- IDLE_LOWERING: the hold time has passed with no work at the level (R379). -/
def execIdleLowering (s : State) : Host.Outcome State Fault Refusal :=
  let i := s.iris
  if !s.sys.ready || s.sys.halted || i.raising || i.lowering || i.stop = 0 || i.quiet < holdTime s i.stop || i.stop < raiseAsked s ||
      i.stop ≤ idleTarget s then .next s
  else .next { s with iris := { i with lowering := true, target := idleTarget s } }

/-- Kill the instance an engine runs, where kill-and-rerun may; its context is parked (R380). -/
def killDeparting (s : State) (e : Nat) : State :=
  match (engOf s e).run with
  | some i =>
    if killMethod s && !i.carryIn && !i.allred then
      modCtx (kill s i (s.now + 1)) i.origin.slot fun x => if x.state = .active then { x with state := .parked } else x
    else s
  | none => s

/-- FORCED_LOWERING: the allowed Stop fell below the level (R380). The floor of R22 does not hold the part up against it (DESIGN CHOICE,
log 114). -/
def execForcedLowering (s : State) : Host.Outcome State Fault Refusal :=
  let i := s.iris
  let target := allowedStop s
  if !s.sys.ready || s.sys.halted || i.raising || i.lowering || i.stop ≤ target then .next s
  else
    let t := { s with iris := { i with lowering := true, target := target } }
    let t := (departing t target).foldl (fun t e => killDeparting t e.1) t
    let t := { t with iris := { t.iris with forced := if departing t target = [] then none else some t.now } }
    .next (checkLedgers t)

/-! ### A step of a lowering -/

/-- Keys of a store that belong to a list of virtual engines or groups. -/
def keyOf (l : List Nat) (k : Nat) : Bool := l.contains (k / 2 ^ 30)

/-- Keep the entries a test does not hold for. -/
def dropWhere {α : Type} (p : Nat → Bool) (t : Table α) : Table α := t.filter fun e => !p e.1

/-- Zero the stores of a context that lie on cores without power at a level; below Stop 1 XS as well (R382). What the tables do not
list is bound to core 0. -/
def zeroStores (x : Ctx) (level : Nat) : Ctx :=
  let ves := (x.bindings.filter fun e => level < coreLevel (e.2 / 4)).map (·.1)
  let gs := (x.cores.filter fun e => level < coreLevel e.2).map (·.1)
  let y := x.stores
  let y := { y with es := dropWhere (keyOf ves) y.es, upEs := dropWhere (fun k => keyOf ves (16 * k)) y.upEs,
                    cs := dropWhere (keyOf gs) y.cs, upCs := dropWhere (fun k => keyOf gs (16 * k)) y.upCs }
  let y := if level = 0 then { y with es := [], cs := [], xs := [], upEs := [], upCs := [], upXs := [] } else y
  { x with stores := y, banks := dropWhere (fun e => level < coreLevel (e / 4)) x.banks }

/-- A share of the context loses power at a level. -/
def losesPower (x : Ctx) (level : Nat) : Bool :=
  level = 0 || (enginesOf x.granted).any (fun e => level < coreLevel (e / 4)) ||
  (span 0 16).any fun k => csStepsOf x.granted k ≠ 0 && level < coreLevel k

/-- A context whose level is above the new one is parked, and restarts where a store of its lost power (R346, R382). -/
def parkContext (level : Nat) (x : Ctx) : Ctx :=
  if !(occupied x) || x.granted.level ≤ level then x
  else
    let y := if x.state = .active then { x with state := .parked } else x
    if losesPower x level && !x.starting then
      { zeroStores y level with restart := some (x.restart.getD 1), progress := { y.progress with lines := 0 } }
    else y

/-- Park what the new level does not serve. -/
def parkContexts (s : State) (level : Nat) : State := s.ctxs.foldl (fun t e => modCtx t e.1 (parkContext level)) s

/-- 4 to 3: the links go down, then the ports (R384). -/
def relayOff (s : State) : State :=
  let t := (livePeers s).foldl (fun t j => takeDown t j (dropPorts · j)) s
  { t with relay := { t.relay with formed := false, ports := tmap RelayPort.idle (fun p => { p with up := false, step := 0 }) t.relay.ports } }

/-- Sensor ports and camera lists without power at the present level (R23, R297). -/
def sensorsOff (s : State) : State :=
  (span 0 8).foldl (fun t p =>
    let t := if portPowered t p then t else setPort t p { portOf t p with up := false, half := none, frameOpen := false }
    if cciPowered t p then t else cciCutList t p) s

/-- A context's streams are discarded, their queued slots return, and each RTP stream restarts at entry 0 (R319). -/
def dropStreams (s : State) (c : Nat) : State :=
  let x := ctxOf s c
  let t := x.streams.foldl (fun t k => xsPut (xsPut t c (16 * k.2.record + 0x40) (List.replicate 8 0)) c (16 * k.2.record + 0x0F) [0]) s
  modCtx t c fun y => { y with streams := [], batchHeld := y.batchHeld - (x.streams.map fun k => k.2.queue.length).foldl (· + ·) 0 }

/-- 2 to 1: decoder pipelines and network ports. -/
def mediaOff (s : State) : State :=
  let t := s.ctxs.foldl (fun t e => if (ctxOf t e.1).streams = [] then t else dropStreams t e.1) s
  { t with control := { t.control with nets := tmap NetPort.idle (fun p => { p with link := false, rsFec := false, dhcp := false }) t.control.nets } }

/-- 1 to 0: the PLLs stop, the island's LIX counts alone, MAIN_EN falls (R46, R51, R502). -/
def mainOff (s : State) : State :=
  { s with clk := { s.clk with lock := s.clk.lock &&& 0b100, collimated := false, running := false, mclk := 0 },
           lix := { s.lix with islandOnly := true, hold := true },
           island := { s.island with tdm := [], mics := onlyListening s }, sec := { s.sec with staging := [], signing := none },
           iris := { s.iris with mainEn := false, mainOff := 0 } }

/-- What loses power on reaching a level. -/
def powerOff (s : State) (level : Nat) : State :=
  match level with
  | 3 => relayOff s
  | 2 => sensorsOff (clearBanks s)
  | 1 => mediaOff (sensorsOff s)
  | 0 => mainOff (sensorsOff s)
  | _ => s

/-- STOP_LOWER_STEP_DONE: one level lower, once the departing units are free (R379, R380). -/
def execStopLowerStepDone (s : State) : Host.Outcome State Fault Refusal :=
  let i := s.iris
  if !i.lowering || i.stop ≤ i.target || s.sys.halted || i.forced.isSome || departing s i.target ≠ [] then .next s
  else
    let n := i.stop - 1
    let t := if n = 3 then relayOff s else s
    let t := { t with iris := { t.iris with stop := n, lowering := i.target < n, quiet := 0, worked := false } }
    let t := if n = 3 then t else powerOff t n
    .next (checkLedgers (parkContexts t n))

/-! ### The trip (R509) -/

/-- THERMAL_TRIP: a comparator reads 110 C or more; on the tick the part is made safe and halts. -/
def execThermalTrip (sensor : Nat) (reading : Int) (s : State) : Host.Outcome State Fault Refusal :=
  if reading < 1760 || 32 ≤ sensor || s.iris.thermtrip || !s.sys.powerGood then .next s
  else
    let t := makeSafe s
    let t := { t with sys := { t.sys with halted := true, cause := 5 },
                      iris := { t.iris with thermtrip := true, raising := false, temps := tset 400 t.iris.temps sensor reading } }
    .next (chipEvent t stThermal 0x00000004)

/-- TRIP_MAIN_EN_FALL: one millisecond later. -/
def execTripMainEnFall (s : State) : Host.Outcome State Fault Refusal :=
  .next (if s.iris.thermtrip && s.iris.mainEn then { s with iris := { s.iris with mainEn := false, mainOff := 0 } } else s)

end Sys2Proof.Machine
end

