-- ==== Sys2Proof/Machine/Tiles.lean ====
section
/-! DEFINITION. Tiles: dead tiles, the remap onto the spare, lost engines, stale traffic (R453 to R458). -/

namespace Sys2Proof.Machine

open Sys2Proof

/-- Core k has power. -/
def corePowered (s : State) (k : Nat) : Bool := k < 16 && coreLevel k ≤ s.iris.stop

/-- The logical engine of a core that a tile serves. -/
def servedBy (x : Core) (tile : Nat) : Option Nat :=
  (span 0 4).find? fun l => !(x.lost.getLsbD l) && tget 0 x.serves l = tile && !(x.dead.getLsbD tile)

/-- Contexts with an ES partition on an engine. -/
def affectedBy (s : State) (e : Nat) : List Nat := (span 0 32).filter fun c => occupied (ctxOf s c) && (ctxOf s c).granted.engines.getLsbD e

/-- The tile event of the trace (R448 kind 15). -/
def traceTile (s : State) (core tile spare cause : Nat) : State :=
  trace s 15 0xFF 0 0 (BitVec.ofNat 64 (core + 16 * tile + 128 * spare + 1024 * (coreOf s core).epoch + 16384 * cause))

/-- Mark a tile dead, with the next core epoch. -/
def fenceTile (s : State) (core tile : Nat) : State :=
  let x := coreOf s core
  setCore s core { x with dead := x.dead ||| BitVec.ofNat 5 (2 ^ tile), epoch := x.epoch + 1 }

/-- An affected context of a remap: its instances end with EPOCH_STALE, its ES and banks are cleared, its shares stay (R456). -/
def remapContext (s : State) (c : Nat) : State :=
  let t := tearSteps s c (some stEpoch)
  let t := trace t 13 c 0 0 3
  modCtx t c fun x =>
    { x with stores := { x.stores with es := [], upEs := [] }, banks := [],
             state := if x.state = .active then .parked else x.state, restart := some (x.restart.getD 3) }

/-- The spare takes logical engine l (R456). -/
def remap (s : State) (core tile l edge : Nat) : State :=
  let spare := (coreOf s core).spare
  let cs := affectedBy s (4 * core + l)
  let t := fenceTile s core tile
  let x := coreOf t core
  let t := setCore t core { x with serves := tset 0 x.serves l spare, spare := 7, remap := some (edge, l, cs) }
  let t := cs.foldl remapContext (traceTile t core tile spare 0)
  checkLedgers (chipEvent t stEpoch (0x100 + 4 * core))

/-- The steps and banks of a lost engine, held by the part until reset (R454, R457). -/
def takeLost (s : State) (e : Nat) : State :=
  let l := s.ledgers
  { s with ledgers := { l with es := giveKeys l.es .part (span (4 * e) 4), banks := giveKeys l.banks .part (span (4 * e) 4) } }

/-- Logical engine l is lost: its contexts are torn down (R457). -/
def loseEngine (s : State) (core tile l : Nat) : State :=
  let cs := affectedBy s (4 * core + l)
  let t := fenceTile s core tile
  let x := coreOf t core
  let t := setCore t core { x with lost := x.lost ||| BitVec.ofNat 4 (2 ^ l) }
  let t := takeLost (traceTile t core tile 7 0) (4 * core + l)
  checkLedgers (cs.foldl (fun t c => tearDown t c .engineLost none none) t)

/-- HEARTBEAT_MISS: a serving tile misses its second heartbeat, on edge d (R455 to R457). -/
def execHeartbeatMiss (core : Nat) (tile : Nat) (s : State) : Host.Outcome State Fault Refusal :=
  if !(corePowered s core) || s.sys.halted then .next s
  else match servedBy (coreOf s core) tile with
    | none => .next s
    | some l =>
      let t := advanceTo s (s.now + 1)
      .next (if (coreOf s core).spare = 7 then loseEngine t core tile l else remap t core tile l s.now)

/-- An affected context becomes active again, its context-start instance ready. -/
def afterRemap (s : State) (c : Nat) : State :=
  let x := ctxOf s c
  if x.restart ≠ some 3 then s
  else
    let t := modCtx s c fun x => { x with restart := none, starting := true }
    if x.state = .parked then settleSlot t c else t

/-- REMAP_DONE: at d + 520 the engine serves on the spare (R456). -/
def execRemapDone (core : Nat) (s : State) : Host.Outcome State Fault Refusal :=
  match (coreOf s core).remap with
  | none => .next s
  | some (d, _, cs) =>
    if s.sys.halted then .next s
    else
      let t := advanceTo s (d + 520)
      .next (cs.foldl afterRemap (setCore t core { coreOf t core with remap := none }))

/-- SPARE_SELF_TEST: a spare that fails is dead, and the core has no spare (R453, R455). -/
def execSpareSelfTest (core : Nat) (pass : Bool) (s : State) : Host.Outcome State Fault Refusal :=
  let x := coreOf s core
  if !(corePowered s core) || x.spare = 7 || pass || s.sys.halted then .next s
  else
    let t := setCore s core { x with dead := x.dead ||| BitVec.ofNat 5 (2 ^ x.spare), spare := 7 }
    .next (traceTile t core x.spare 7 1)

/-- STALE_TRAFFIC_DROP: a word of another core epoch is dropped and counted (R458). -/
def execStaleTrafficDrop (core : Nat) (epoch : Nat) (s : State) : Host.Outcome State Fault Refusal :=
  if !(corePowered s core) || epoch = (coreOf s core).epoch || s.sys.halted then .next s
  else .next (counterEvent { s with sys := { s.sys with epochStale := bump s.sys.epochStale 1 } } 0x00000010 stEpoch)

end Sys2Proof.Machine
end

