-- ==== Sys2Proof/Machine/Startup.lean ====
section
/-! DEFINITION. Power, reset and start-up: the cold start from mask ROM to Stop 3 (R399 to R420), the selection and the change of a
facet (R433 to R436). -/

namespace Sys2Proof.Machine

open Sys2Proof

/-! ### Without power -/

/-- What is left of the state when power or RESET_N goes: the NVS, the flash, what has left the part, the levels on its balls. -/
def powerDown (s : State) : State :=
  { State.reset with
    freeCount := s.freeCount, pending := s.pending,
    lix := { Lix.reset with encA := s.lix.encA, encB := s.lix.encB, enc3 := s.lix.enc3 },
    sec := { Sec.reset with nvs := s.sec.nvs, flash := s.sec.flash },
    control := { Control.reset with sent := s.control.sent, upkeep := s.control.upkeep, journal := s.control.journal },
    sys := { Sys.reset with jtag := s.sys.jtag, boundary := s.sys.boundary } }

/-- POWER_GOOD and RESET_N are high; PLL A, PLL B and the island PLL lock (step 1 of R399). -/
def powerUp (s : State) : State :=
  let t := powerDown s
  { t with sys := { t.sys with powerGood := true, resetN := true }, clk := { t.clk with lock := 0b111 } }

/-! ### Step 2: the warden and the NVS -/

/-- The state record as read (R412, R417). No entry has been journalled while the head hash is zero (R438). -/
def readState (x : Sec) : Sec :=
  match recordCopy x.nvs 0x5000 "STAT" with
  | none => { x with stateOk := false }
  | some (a, _) =>
    let h := rdBytes x.nvs (a + 0x20) 32
    { x with stateOk := true, bound := rdLe x.nvs (a + 8) 8, nextLeaf := rdLe x.nvs (a + 8) 8, bottom := rdLe x.nvs (a + 0x10) 4,
             coldStarts := rdLe x.nvs (a + 0x14) 4,
             journalHead := if h = List.replicate 32 0 then 0 else rdLe x.nvs (a + 0x18) 4 + 1, journalHash := h }

/-- A journal entry from its 32 bytes (R438). -/
def journalOf (l : List Byte) : JournalRec :=
  { number := field l 0 4, line := BitVec.ofNat 48 (field l 4 6), iface := field l 0xA 1, kind := field l 0xB 1,
    addr := BitVec.ofNat 32 (field l 0xC 4), old := BitVec.ofNat 32 (field l 0x10 4), new := BitVec.ofNat 32 (field l 0x14 4),
    tag := l.drop 0x18 }

/-- The warden adopts the entry after the head where its tag chains to the recorded hash (R438). -/
def adoptEntry (s : State) : State :=
  let x := s.sec
  let slot := x.journalHead % 4096
  let l := rdBytes x.nvs (0x60000 + 32 * slot) 32
  let h := sha256 (x.journalHash ++ l.take 24)
  if x.stateOk && field l 0 4 = x.journalHead && l.drop 24 = h.take 8 then
    { s with sec := { x with journalHead := x.journalHead + 1, journalHash := h },
             control := { s.control with journal := tset JournalRec.blank s.control.journal slot (journalOf l) } }
  else s

/-- First 4 bytes of a digest, as a journal value (R438). -/
def digestWord (l : List Byte) : Nat := leValue (l.take 4)

/-- Copy the shadow into slot n, journalled (R412, R438). -/
def copyShadow (s : State) (n iface : Nat) : State :=
  let m := s.sec.nvs
  let old := digestWord (rdBytes m (facetPlace n + 0x10) 32)
  let t := { s with sec := { s.sec with nvs := wrBytes m (facetPlace n) (rdBytes m 0x50000 65536) } }
  journal t iface 1 (facetPlace n) old (digestWord (rdBytes m 0x50010 32))

/-- A facet write that lost power is completed from the shadow (R412). -/
def completeShadow (s : State) : State :=
  let m := s.sec.nvs
  let n := rdLe m 0x50006 1
  if headerOk m 0x50000 && n < 4 && rdBytes m 0x50010 32 ≠ rdBytes m (facetPlace n + 0x10) 32 then copyShadow s n 6 else s

/-- Step 2: the record read, the head adopted, the cold start counted, the shadow completed, the identity checked (R414, R417). -/
def wardenStep (s : State) (x : ColdStart) : State :=
  let t := adoptEntry { s with sec := { readState s.sec with identity := x.pufOk } }
  let t := { t with sec := writeState { t.sec with coldStarts := t.sec.coldStarts + 1 } }
  let t := completeShadow t
  { t with sec := { t.sec with building := x.pufOk && t.sec.stateOk && t.sec.nextLeaf / 2 ^ 20 ≠ t.sec.bottom } }

/-! ### The boot record (R413) -/

/-- Bytes 0x000 to 0x7DF of the boot record, its defaults where it is absent. -/
def bootBytes (m : Memory) : List Byte :=
  match recordCopy m 0 "BOOT" with
  | some (a, _) => rdBytes m a 2016
  | none => (List.replicate 12 0 ++ bytesLe Config.slot1Default 4 ++ bytesLe 0 4 ++ (Config.macBase ++ List.replicate 6 0).take 6) ++ List.replicate 1990 0

/-- A field of the boot record. -/
def bootField (s : State) (a n : Nat) : Nat := field (bootBytes s.sec.nvs) a n

/-- Write the boot record, the part supplying magic, sequence and digest (R412, R484). -/
def writeBoot (x : Sec) (body : List Byte) : Sec :=
  { x with nvs := writeRecord x.nvs 0 "BOOT" fun q => ascii "BOOT" ++ bytesLe q 4 ++ ((body ++ List.replicate 2016 0).take 2016).drop 8 }

/-! ### Step 3: the boot image (R405 to R410) -/

/-- Sections of a kind. -/
def sectionsOf (v : ImageSlot) (k : Nat) : List Section := v.sections.filter fun e => e.kind = k

/-- A section lies in its stage, on a 4 KiB boundary, with its kind's signer (R406, R407). -/
def sectionOk (v : ImageSlot) (e : Section) : Bool :=
  e.offset % 4096 = 0 && e.kind ≤ 3 && e.signer = (if e.kind ≤ 1 then 0 else 1) &&
  (if e.kind = 3 then v.stageALength ≤ e.offset && e.offset + e.length ≤ v.imageLength && e.number ≤ 254
   else 0x3000 ≤ e.offset && e.offset + e.length ≤ v.stageALength)

/-- Two sections share no byte. -/
def sectionsApart (a b : Section) : Bool := a.offset + a.length ≤ b.offset || b.offset + b.length ≤ a.offset

/-- Stage A verifies (R407, R408): header, sections, vendor signature, the digest of every section of the stage. -/
def stageAOk (v : ImageSlot) : Bool :=
  v.magicOk && v.format = 1 && 1 ≤ v.sections.length && v.sections.length ≤ 64 && v.sections.all (sectionOk v) &&
  pairwise sectionsApart v.sections && (sectionsOf v 0).length = 1 && (sectionsOf v 1).length = 1 && (sectionsOf v 2).length ≤ 1 &&
  v.vendorOk && v.sections.all fun e => e.kind = 3 || e.shaOk

/-- A slot is accepted (R409). -/
def slotAccepted (s : State) (v : ImageSlot) : Bool := stageAOk v && bootField s 0x10 4 ≤ v.securityVersion

/-- The slot the part boots: the preferred one, or else the other (R409). -/
def chooseImage (s : State) (x : ColdStart) : Option (Nat × ImageSlot) :=
  let p := bootField s 8 1 % 2
  let slot (n : Nat) := if n = 0 then x.slot0 else x.slot1
  if slotAccepted s (slot p) then some (p, slot p)
  else if slotAccepted s (slot (1 - p)) then some (1 - p, slot (1 - p))
  else none

/-- Raise the minimum security version, journalled (R409). -/
def raiseMinimum (s : State) (v : Nat) : State :=
  let old := bootField s 0x10 4
  if v ≤ old then s
  else
    let b := bootBytes s.sec.nvs
    journal { s with sec := writeBoot s.sec (b.take 0x10 ++ bytesLe v 4 ++ b.drop 0x14) } 6 6 0x10 old v

/-- The image runs: its owner sections only where the owner signature verifies, and its detector only where an evaluation takes no more
than its slot (R332, R403, R408). -/
def takeImage (s : State) (n : Nat) (v : ImageSlot) : State :=
  let owned := v.ownerOk && v.sections.any (fun e => e.signer = 1)
  let t := raiseMinimum s v.securityVersion
  { t with
    sec := { t.sec with slot := n, version := v.securityVersion, owner := owned, vendorOnly := !v.ownerOk, firmware := v.firmwareDigest,
                        application := if owned then v.applicationDigest else List.replicate 32 0,
                        ownerKey := if owned then v.ownerKeyHash else List.replicate 32 0,
                        modules := if owned then (sectionsOf v 3).map fun e => { number := e.number, xsKib := e.xsKib, shaOk := e.shaOk } else [] },
    island := { t.island with detector := owned && (sectionsOf v 2).any fun e => e.cycles ≤ 16000 } }

/-- Mask-ROM service (R403, R410). -/
def maskRomService (s : State) : State := chipEvent { s with sys := { s.sys with maskRom := true } } stSignature 0x00000004

/-! ### Steps 4 and 5 -/

/-- Collimation after some failed attempts (R49, R50). -/
def collimateAfter (s : State) (fails : Nat) : State :=
  { s with clk := { s.clk with collimated := true, fail := fails ≠ 0, attempts := fails + 1, coreTarget := coreTargetAt s.now }, lix := { s.lix with islandOnly := false } }

/-- Three attempts failed: start-up halts (R50). -/
def collimateFailed (s : State) : State :=
  { s with clk := { s.clk with fail := true, attempts := 3, coreTarget := coreTargetAt s.now }, sys := { s.sys with halted := true, cause := 1 } }

/-- A DRAM channel failed training: start-up halts (R403). -/
def dramFailed (s : State) (ch : Nat) : State := { s with sys := { s.sys with halted := true, cause := 2, channel := ch } }

/-! ### Step 6: tiles (R453, R454) -/

/-- A core after self-test: the first four tiles that pass serve, the next is the spare. -/
def testedCore (pass : Nat → Bool) : Core :=
  let l := (span 0 5).filter pass
  { dead := BitVec.ofNat 5 (((span 0 5).filter fun t => !(pass t)).foldl (fun n t => n + 2 ^ t) 0), spare := nth l 4 7,
    serves := ((l.take 4).zipIdx).foldl (fun t e => tset 0 t e.2 e.1) [],
    lost := BitVec.ofNat 4 (((span 0 4).filter fun e => l.length ≤ e).foldl (fun n e => n + 2 ^ e) 0), epoch := 0, remap := none }

/-- Self-test of a core; a lost engine's steps and banks are the part's. -/
def selfTest (pass : BitVec 80) (s : State) (k : Nat) : State :=
  let t := setCore s k (testedCore fun n => pass.getLsbD (5 * k + n))
  let t := ((span 0 5).filter fun n => (coreOf t k).dead.getLsbD n).foldl (fun t n => traceTile t k n (coreOf t k).spare 1) t
  ((span 0 4).filter fun l => (coreOf t k).lost.getLsbD l).foldl (fun t l => takeLost t (4 * k + l)) t

/-! ### Step 6: the facet -/

/-- A chip semaphore of a facet before any grant (R362, R364): a unit holds what no binding holds. -/
def semStart (f : Facet) (k : Nat) : Sem :=
  let g := tget SemCfg.none f.sems k
  let n := if g.isUnit then g.total - initialIn f k else 0
  { total := g.total, free := g.total - n, isUnit := g.isUnit, unitHeld := n, waiters := [], fresh := 0, freshEdge := 0 }

/-- The listening microphone captures from now on, where the island has an owner, and it alone before a session's first hand-off (R322, R423). -/
def listen (s : State) : State :=
  if s.facet.island.owner.isNone then s
  else
    let c := listening s
    let t := if (tget Mic.idle s.island.mics c).capturing then s
      else { s with island := { s.island with mics := tset Mic.idle s.island.mics c { Mic.idle with capturing := true, start := s.island.position } } }
    if t.island.open_ && t.island.handedOff && 1 ≤ t.iris.stop then t else { t with island := { t.island with mics := onlyListening t } }

/-- Targets of a controller that answer address assignment (R294; log 8): those the facet declares present. -/
def targetsPresent (f : Facet) (n : Nat) : BitVec 4 :=
  let g := tget CciCfg.none f.ccis n
  if g.enabled then BitVec.ofNat 4 ((g.targets.zipIdx.filter fun e => 0x8000 ≤ e.1).foldl (fun x e => x + 2 ^ e.2) 0) else 0

/-- The settings of a facet take effect at start-up. -/
def installFacet (s : State) (f : Facet) (n : Nat) : State :=
  let g := f.timing
  listen { s with
    facet := f, sys := { s.sys with facetNumber := n },
    lix := { s.lix with source := g.source, divider := g.divider, refPeriod := g.refPeriod },
    iris := { s.iris with capacity := g.capacity, free := g.capacity, wakeLine := g.wakeLine, wakeOn := g.wakeOn },
    island := { s.island with fir := f.island.taps },
    ledgers := { s.ledgers with sems := tableOf Sem.unused 1024 (semStart f) },
    media := { s.media with ccis := tableOf Cci.idle 8 fun k => { Cci.idle with present := targetsPresent f k } },
    ctxs := tableOf Ctx.empty 32 fun c => { Ctx.empty with record := tget CtxRecord.none f.contexts c } }

/-- A present record's shares are granted, and its slot loads (R344, R346); a module whose section fails its digest leaves the slot
empty (R403). -/
def startContext (s : State) (c : Nat) : State :=
  let g := (ctxOf s c).record
  if !g.present || s.sec.vendorOnly then s
  else match imageModule s g.module with
    | some m => if !m.shaOk then postEvent s stSignature c (0x40000 + 0x40 * c) [] else (grantShares s c g).getD s
    | none => (grantShares s c g).getD s

/-- IPv4 addresses of the boot record (R413). -/
def bootAddresses (s : State) : State :=
  (span 0 3).foldl (fun t p => setNetPort t p { NetPort.idle with ipv4 := BitVec.ofNat 32 (bootField s (0x1C + 12 * p) 4) }) s

/-- The selection of R434: the number, and 0 for the balls or 1 for the boot record's fixed facet. -/
def facetSelection (s : State) (balls : BitVec 2) : Nat × Nat :=
  if bootField s 9 1 = 1 then (bootField s 0xA 1 % 4, 1) else (balls.toNat, 0)

/-- Step 6. The part reaches Stop 3; READY follows when the loader has ended. -/
def stepSix (s : State) (x : ColdStart) : State :=
  let t := (span 0 16).foldl (selfTest x.tilesPass) s
  let t := bootAddresses { t with iris := { t.iris with stop := 3, target := 3 } }
  let (n, src) := facetSelection t x.facetBalls
  let t := journal { t with sec := { t.sec with facetSource := src } } 5 2 n 0xFF n
  let code := checkNvs t n
  let t := { t with sys := { t.sys with facetCode := code } }
  let t := if code = 0 then installFacet t (facetAt t.sec.nvs (facetPlace n)) n else installFacet t Facet.empty 0xFF
  let t := driveMclk t
  checkLedgers ((span 0 32).foldl startContext t)

/-- The cold start (R399, R403): the steps in order, each as the environment and the silicon let it end. -/
def coldStart (s : State) (x : ColdStart) : State :=
  let t := wardenStep (powerUp s) x
  match chooseImage t x with
  | none => maskRomService t
  | some (n, v) =>
    let t := takeImage t n v
    if 3 ≤ x.collimateFails then collimateFailed t
    else
      let t := collimateAfter t x.collimateFails
      match x.dramFail with
      | some ch => dramFailed t ch
      | none => stepSix t x

/-- POWER_GOOD_RISE (R399). -/
def execPowerGoodRise (x : ColdStart) (s : State) : Host.Outcome State Fault Refusal :=
  .next (if s.sys.powerGood then s else coldStart s x)

/-- RESET_N_LOW: RESET_N low for 10 us with POWER_GOOD high, and its rise (R404, R503). -/
def execResetNLow (x : ColdStart) (s : State) : Host.Outcome State Fault Refusal :=
  .next (if s.sys.powerGood then coldStart s x else s)

/-- POWER_GOOD_FALL: outputs go to high impedance, the part waits for the next rise (R496, R511). -/
def execPowerGoodFall (s : State) : Host.Outcome State Fault Refusal :=
  .next (if s.sys.powerGood then powerDown s else s)

/-- Start-up has ended and READY is not set yet. -/
def startupDone (s : State) : Bool :=
  s.sys.powerGood && !s.sys.ready && !s.sys.maskRom && !s.sys.halted && s.clk.collimated && s.iris.stop = 3 &&
  !(s.ctxs.any fun c => decide (c.2.state = .loading))

/-- READY (R402): readiness is set and reported; a set role of Pair or larger goes on to Stop 4 (R386). -/
def execReady (s : State) : Host.Outcome State Fault Refusal :=
  if !(startupDone s) then .next s
  else
    let t := chipEvent { s with sys := { s.sys with ready := true } } stOk 0x00000004
    .next (if 1 < t.facet.setSize && allowedStop t = 4 then { t with iris := { t.iris with raising := true, target := 4 } } else t)

/-! ### A facet change at run time (R435, R436) -/

/-- Select facet n (R435): checked as a whole, accepted for the next beat, or rejected with its code. -/
def selectFacet (s : State) (n iface : Nat) : State :=
  let code := checkNvs s n
  let t := { s with sys := { s.sys with facetCode := code } }
  if code = 0 then { t with sys := { t.sys with nextFacet := some (n, facetAt s.sec.nvs (facetPlace n), iface) } } else t

/-- Entries of two tables agree for a range of keys. -/
def sameKeys {α : Type} [DecidableEq α] (d : α) (a b : Table α) (lo n : Nat) : Bool := (span lo n).all fun k => tget d a k = tget d b k

/-- Windows of slot c in a facet: shared, its outboxes, receive windows, and those it may send to. -/
def windowsIn (f : Facet) (c : Nat) : List SharedCfg × List OutboxCfg × List WindowCfg :=
  (f.shared.filter (fun w => w.writer = c || w.readers.getLsbD c), f.outboxes.filter (fun w => w.owner = c),
   f.windows.filter fun w => (w.part = f.partIndex && w.owner = c) || (w.fromPart = f.partIndex && w.fromSlot = c))

/-- Slot c owns a slot of pipeline v. -/
def pipeOwner (f : Facet) (v c : Nat) : Bool := (tget PipeCfg.none f.videos v).owners.contains c

/-- The Glint part of a facet. -/
def glintPart (f : Facet) : Option Nat × Nat × Nat := (f.glintPort, f.glintOwner, f.glintKib)

/-- Slot c owns a unit whose part of the facet differs. -/
def unitDiffers (f g : Facet) (c : Nat) : Bool :=
  (f.island ≠ g.island && (f.island.owner = some c || g.island.owner = some c)) ||
  (glintPart f ≠ glintPart g && ((f.glintPort.isSome && f.glintOwner = c) || (g.glintPort.isSome && g.glintOwner = c))) ||
  (span 0 8).any (fun p => portIn f p ≠ portIn g p && ((capturesIn f p && (portIn f p).ringOwner = c) || (capturesIn g p && (portIn g p).ringOwner = c))) ||
  (span 0 8).any (fun n =>
    let a := tget CciCfg.none f.ccis n
    let b := tget CciCfg.none g.ccis n
    a ≠ b && ((a.enabled && a.owner = c) || (b.enabled && b.owner = c))) ||
  (span 0 4).any (fun v => tget PipeCfg.none f.videos v ≠ tget PipeCfg.none g.videos v && (pipeOwner f v c || pipeOwner g v c)) ||
  (span 0 8).any fun p => nth f.pages p 0xFF ≠ nth g.pages p 0xFF && (nth f.pages p 0xFF = c || nth g.pages p 0xFF = c)

/-- Slot c is affected by a change from f to g (R435). -/
def affectedIn (f g : Facet) (c : Nat) : Bool :=
  tget CtxRecord.none f.contexts c ≠ tget CtxRecord.none g.contexts c || !(sameKeys InboxCfg.none f.inboxes g.inboxes (64 * c) 8) ||
  !(sameKeys Binding.none f.bindings g.bindings (64 * c) 64) || windowsIn f c ≠ windowsIn g c || unitDiffers f g c

/-- An affected slot is torn down under the old facet, or waits for its load (R435). -/
def tearAffected (g : Facet) (s : State) (c : Nat) : State :=
  if occupied (ctxOf s c) then tearDown s c .facetChange none (some 4)
  else modCtx s c fun x => { x with restart := if (tget CtxRecord.none g.contexts c).present then some 4 else none }

/-- A chip semaphore whose entry changed: what contexts hold stays theirs. -/
def semChange (s : State) (f g : Facet) (k : Nat) : Sem :=
  let x := semOf s k
  if tget SemCfg.none f.sems k = tget SemCfg.none g.sems k then x
  else
    let e := tget SemCfg.none g.sems k
    let rest := e.total - semHeld s k - semFlight s k
    let n := if e.isUnit then rest - initialIn g k else 0
    { x with total := e.total, isUnit := e.isUnit, unitHeld := n, free := rest - n }

/-- The token ledger under a new capacity: what is reserved stays reserved (log 19). -/
def changeCapacity (i : Iris) (n : Nat) : Iris :=
  let cap := max n i.held
  let fl := min i.flight (cap - i.held)
  { i with capacity := cap, flight := fl, free := cap - i.held - fl }

/-- LIX settings that differ between the facets take effect (R45, R435). -/
def changeLix (s : State) (f g : TimingCfg) : State :=
  let t := if f.divider ≠ g.divider then selectDivider s g.divider else s
  let t := if f.refPeriod ≠ g.refPeriod then { t with lix := { t.lix with refPeriod := g.refPeriod } } else t
  if f.source ≠ g.source && g.source ≠ t.lix.source then selectSource t g.source else t

/-- Iris settings that differ. -/
def changeIris (s : State) (f g : TimingCfg) : State :=
  let i := if f.capacity ≠ g.capacity then changeCapacity s.iris g.capacity else s.iris
  { s with iris := if f.wakeLine ≠ g.wakeLine || f.wakeOn ≠ g.wakeOn then { i with wakeLine := g.wakeLine, wakeOn := g.wakeOn } else i }

/-- A sensor port whose record changed retrains, its ring empty. -/
def changePort (f g : Facet) (s : State) (p : Nat) : State :=
  if portIn f p = portIn g p && upperIn f p = upperIn g p then s
  else
    let x := portOf s p
    let t := setPort s p { x with ring := [], newest := none, half := none, frameOpen := false }
    if x.up then retrainPort t p else t

/-- A camera controller whose record changed is disarmed, with the new targets. -/
def changeCci (f g : Facet) (s : State) (n : Nat) : State :=
  if tget CciCfg.none f.ccis n = tget CciCfg.none g.ccis n then s
  else setCci s n { cciOf s n with armed := false, window := [], present := targetsPresent g n }

/-- Audio settings (R326, R423): the taps, the microphone, and the close of an open shutter. -/
def changeIsland (s : State) (f g : IslandCfg) : State :=
  let differs := f.owner ≠ g.owner || f.mic ≠ g.mic || f.wakeN ≠ g.wakeN || f.taps ≠ g.taps
  let i := s.island
  let i := { i with fir := g.taps, closeFacet := i.closeFacet || (differs && i.open_), mics := if g.owner.isNone then [] else i.mics }
  listen { s with island := i }

/-- A 25GbE port the facet no longer enables. -/
def changeNets (s : State) (g : Facet) : State :=
  let off (t : State) (p : Nat) := setNetPort t p { netPort t p with link := false, rsFec := false }
  let t := if g.net0 then s else off s 1
  if g.net1 then t else off t 2

/-- A changed set role or plan takes every link down under the old facet (R384, R435). -/
def relayChanges (f g : Facet) : Bool := f.setSize ≠ g.setSize || f.partIndex ≠ g.partIndex || f.relayDigest ≠ g.relayDigest

/-- The set forms again under the new facet. -/
def reform (s : State) (f g : Facet) : State :=
  let t := { s with relay := { s.relay with ports := [], cut := if f.setSize = g.setSize && f.partIndex = g.partIndex then s.relay.cut else 0 } }
  if t.iris.stop = 4 && 1 < g.setSize then startTraining t else t

/-- Apply facet g, number n (R435). -/
def applyFacet (s : State) (n : Nat) (g : Facet) (iface : Nat) : State :=
  let f := s.facet
  let old := s.sys.facetNumber
  let t := ((span 0 32).filter (affectedIn f g)).foldl (tearAffected g) s
  let t := if relayChanges f g then relayOff t else t
  let t := if glintPart f ≠ glintPart g then clearBanks t else t
  let sems := tableOf Sem.unused 1024 (semChange t f g)
  let t := { t with facet := g, ledgers := { t.ledgers with sems := sems }, sys := { t.sys with facetNumber := n, nextFacet := none },
                    sec := { t.sec with facetSource := 2 } }
  let t := (span 0 32).foldl (fun t c =>
    if tget CtxRecord.none f.contexts c = tget CtxRecord.none g.contexts c then t
    else modCtx t c fun x => { x with record := tget CtxRecord.none g.contexts c }) t
  let t := changeIris (changeLix t f.timing g.timing) f.timing g.timing
  let t := (span 0 8).foldl (changeCci f g) ((span 0 8).foldl (changePort f g) t)
  let t := driveMclk (changeNets (changeIsland t f.island g.island) g)
  let t := if relayChanges f g then reform t f g else t
  let t := if old = n && f.digest = g.digest then t else journal t iface 2 n old n
  checkLedgers t

/-- FACET_APPLY: at the first Iris beat after the check that no transition covers (R435, R436). -/
def execFacetApply (s : State) : Host.Outcome State Fault Refusal :=
  match s.sys.nextFacet with
  | none => .next s
  | some (n, g, iface) =>
    if !s.clk.collimated || s.sys.halted || s.iris.raising || s.iris.lowering then .next s
    else .next (applyFacet (advanceTo s (ceilDiv s.now 1000 * 1000)) n g iface)

end Sys2Proof.Machine
end

