-- ==== Sys2Proof/Machine/Bus.lean ====
section
/-! DEFINITION. Register writes and the effects of register reads (R475 to R485), with their journal entries (R437, R475). -/

namespace Sys2Proof.Machine

open Sys2Proof

/-! ### Who may write, and the journal -/

/-- A register that responds in mask-ROM service (R486). -/
def romRegister (a : Nat) : Bool :=
  a = 0x00000000 || a = 0x00000004 || a = 0x000E0000 || a / 0x10000 = 0xF || a = 0x000E0010 || a = 0x000E0014 || a = 0x000E0018

/-- A register write on an interface reaches its register. -/
def reaches (s : State) (i : Iface) (a : Nat) : Bool := served s i && (!s.sys.maskRom || romRegister a)

/-- A write that changes its register is journalled with the old and new value (R475); one that changes nothing is not (R13). -/
def changeReg (s : State) (i : Iface) (a : Nat) (t : State) : State :=
  if regPeek t a = regPeek s a then t else journalWrite t i a (regPeek s a) (regPeek t a)

/-- A write that triggers an action is journalled with the value written (R475; log 19). -/
def actReg (s : State) (i : Iface) (a value : Nat) : State := journalWrite s i a 0 value

/-- A register row: the write takes effect where its interface is served. -/
def rowWrite (s : State) (i : Iface) (a : Nat) (f : State → Nat × State) : State := if reaches s i a then (f s).2 else s

/-! ### LIX (R29, R43, R45) -/

/-- The inputs of a source are placed, or its port captures and belongs to no pair's lower port (R45). -/
def sourceAvailable (s : State) (v : Nat) : Bool :=
  if v = 1 || v = 2 || v = 3 then placed s 0x01 && placed s 0x02
  else if v = 4 then placed s 0x04
  else if 8 ≤ v then (portCfg s (v - 8)).lanes ≠ 0 && (portCfg s (v - 8)).share ≠ 0 && !(bondedUpper s (v - 8))
  else true

/-- Write LIX_SOURCE. -/
def writeSource (i : Iface) (value : Nat) (s : State) : Nat × State :=
  let v := value % 16
  if v = 6 || v = 7 || v = s.lix.source then (stOk, s)
  else if !(sourceAvailable s v) then (stHeld, s)
  else (stOk, changeReg s i 0x10000 (selectSource s v))

/-- Write LIX_DIVIDER: every write counts on from the highest position reached, with no edge of ENC3 counted (R29). -/
def writeDivider (i : Iface) (value : Nat) (s : State) : Nat × State :=
  (stOk, changeReg s i 0x10004 (selectDivider s (value % 65536 + 1)))

/-- Write LIX_REF_PERIOD. -/
def writePeriod (i : Iface) (value : Nat) (s : State) : Nat × State :=
  (stOk, changeReg s i 0x10008 { s with lix := { s.lix with refPeriod := max 9 (value % 2 ^ 32) } })

/-- Write LIX_STATUS: a one clears OVERSPEED. -/
def writeLixStatus (i : Iface) (value : Nat) (s : State) : Nat × State :=
  (stOk, changeReg s i 0x1000C (if bit value 0 then { s with lix := { s.lix with overspeed := false } } else s))

/-! ### SYS -/

/-- Write SYS_FACET (R435, R436). -/
def writeFacet (i : Iface) (value : Nat) (s : State) : Nat × State :=
  if 4 ≤ value % 256 then (stOk, s)
  else if s.sys.nextFacet.isSome then (stHeld, s)
  else (stOk, selectFacet s (value % 256) (ifaceCode i))

/-- Clear the counters of a slot. -/
def clearCtx (x : Ctx) : Ctx := { x with inboxOverflow := 0, satCount := 0, satEvents := 0 }

/-- Every counter of every block reads 0 (R475, R476). -/
def clearCounters (s : State) : State :=
  { s with
    sys := { s.sys with epochStale := 0 }, lix := { s.lix with late := 0 }, iris := { s.iris with deferBeats := 0, preemptDelay := 0 },
    ctxs := tmap Ctx.empty clearCtx s.ctxs, ledgers := { s.ledgers with unitOverflow := 0 },
    mem := { s.mem with corrEs := 0, corrCs := 0, corrXs := 0, corrDs := 0, corrOther := 0, uncorr := 0, dsPasses := 0, sramPasses := 0 },
    media := { s.media with ports := tmap Port.idle (fun p => { p with dropped := 0, ignored := 0 }) s.media.ports, cciLate := 0,
                            rtpDiscard := 0, rtpOrder := 0, tkuFaults := 0, tkuDead := 0 },
    glint := { s.glint with late := 0 },
    relay := { s.relay with fecCorr := 0, fecUncorr := 0, checkFail := 0, seqGap := 0, stale := 0, overflow := 0 },
    control := { s.control with lost := 0, frames := 0, bad := 0 }, digest := { s.digest with lost := 0 } }

/-- Write SYS_COUNTERS_CLEAR. -/
def writeCounters (i : Iface) (value : Nat) (s : State) : Nat × State :=
  if bit value 0 then (stOk, actReg (clearCounters s) i 0x00014 1) else (stOk, s)

/-- A value that SYS_RESET takes. -/
def resets (value : Nat) : Bool := value % 65536 = 0xC01D

/-- Write SYS_RESET: the journal; the cold start follows the frame (log 19). -/
def writeReset (i : Iface) (value : Nat) (s : State) : Nat × State := (stOk, if resets value then actReg s i 0x00018 0xC01D else s)

/-! ### IRIS and QNT -/

/-- Write IRIS_BUDGET_LIMIT (R372). -/
def writeLimit (i : Iface) (value : Nat) (s : State) : Nat × State :=
  (stOk, changeReg s i 0x30000 { s with iris := { s.iris with budgetLimit := max 1800 (min 60000 (value % 65536)) } })

/-- Write IRIS_WAKE_LINE_LO. -/
def writeWakeLo (i : Iface) (value : Nat) (s : State) : Nat × State :=
  (stOk, changeReg s i 0x3001C
    { s with iris := { s.iris with wakeLine := BitVec.ofNat 48 (s.iris.wakeLine.toNat / 2 ^ 32 * 2 ^ 32 + value % 2 ^ 32) } })

/-- Write IRIS_WAKE_LINE_HI. -/
def writeWakeHi (i : Iface) (value : Nat) (s : State) : Nat × State :=
  (stOk, changeReg s i 0x30020
    { s with iris := { s.iris with wakeLine := BitVec.ofNat 48 (value % 65536 * 2 ^ 32 + s.iris.wakeLine.toNat % 2 ^ 32), wakeOn := bit value 31 } })

/-- The newest trace record of a kind for a command. -/
def lastRecord (d : Digest) (kind slot cmd : Nat) : Option (Nat × TraceRec) :=
  let age (k : Nat) := (d.head + (2 ^ 21 - 1) - k) % 2 ^ 21
  (d.trace.filter fun e => e.2.kind = kind && e.2.slot = slot && e.2.cmd = cmd).foldl (fun b e =>
    match b with
    | none => some e
    | some x => if age e.1 < age x.1 then some e else some x) none

/-- An instance admitted for a later edge starts with the threshold written before it, and its trace record holds that one (R186, R357). -/
def takeTheta (v : Nat) (s : State) (e : Nat) : State :=
  match (engOf s e).run with
  | none => s
  | some i =>
    let c := i.origin.slot
    let t := setInst s e { i with theta := v }
    match lastRecord s.digest 10 c i.origin.cmd with
    | some (k, r) => { t with digest := { t.digest with trace := tset TraceRec.blank t.digest.trace k { r with value := BitVec.ofNat 64 v } } }
    | none => t

/-- Engines whose instance of slot c starts on a later edge and takes θ from the register. -/
def startLater (s : State) (c : Nat) : List Nat :=
  (s.engines.filter fun x => x.2.run.any fun i => i.origin.slot = c && s.now < i.admitEdge && !(ctxOf s c).replay.on &&
    clipTests (moduleOf s c) (commandOf s c i.origin.cmd)).map (·.1)

/-- Write QNT_CLIP_THRESHOLD of slot c: it counts for instances that start on or after the next edge (R186). -/
def writeTheta (i : Iface) (c value : Nat) (s : State) : Nat × State :=
  let v := min 65536 (value % 2 ^ 17)
  let t := modCtx s c fun x => { x with theta := v, thetaWas := thetaFor x s.now, thetaEdge := s.now }
  (stOk, changeReg s i (0x60100 + 4 * c) ((startLater s c).foldl (takeTheta v) t))

/-! ### CTX (R347, R478) -/

/-- CTX_CONTROL of slot c. -/
def controlRegister (c : Nat) : Nat := 0x40004 + 0x40 * c

/-- STOP (R347). -/
def stopContext (i : Iface) (c : Nat) (s : State) : Nat × State :=
  let x := ctxOf s c
  if x.state = .active || x.state = .parked then
    (stOk, actReg (setCtx s c { x with state := .stopped }) i (controlRegister c) 1)
  else (stOk, s)

/-- RESUME (R347): to active, or to parked where the level, or a restart that is due, asks for it. -/
def resumeContext (i : Iface) (c : Nat) (s : State) : Nat × State :=
  let x := ctxOf s c
  if x.state ≠ .stopped then (stOk, s)
  else
    let t := if x.restart.isSome then setCtx s c { x with state := .parked } else settleSlot s c
    (stOk, actReg t i (controlRegister c) 2)

/-- UNLOAD: torn down on the next edge (R365, R478). -/
def unloadContext (i : Iface) (c : Nat) (s : State) : Nat × State :=
  let x := ctxOf s c
  if occupied x then (stOk, actReg (setCtx s c { x with tear := some (x.tear.getD (.unload, none, s.now + 1)) }) i (controlRegister c) 4) else (stOk, s)

/-- LOAD: the record's shares are granted, or the write fails (R344, R345, R478). The step counter, the chain and the counts of the
slot start again (R96, R106, R444). -/
def loadContext (i : Iface) (c : Nat) (s : State) : Nat × State :=
  let x := ctxOf s c
  if x.state ≠ .empty || !x.record.present then (stOk, s)
  else if !(recordRanged s.iris.capacity x.record) || !(coresPowered x.record) then (stLength, s)
  else match grantShares s c x.record with
    | none => (stLength, s)
    | some t => (stOk, checkLedgers (actReg (modCtx t c fun y => { y with restart := none, step := 0, chain := 0, progress := Progress.start }) i (controlRegister c) 8))

/-- One bit of CTX_CONTROL. -/
def controlBit (value k : Nat) (f : State → Nat × State) (r : Nat × State) : Nat × State :=
  if bit value k then
    let (st, t) := f r.2
    (if r.1 = stOk then st else r.1, t)
  else r

/-- Write CTX_CONTROL of slot c: its bits in order. -/
def writeControl (i : Iface) (c value : Nat) (s : State) : Nat × State :=
  controlBit value 3 (loadContext i c) (controlBit value 2 (unloadContext i c) (controlBit value 1 (resumeContext i c)
    (controlBit value 0 (stopContext i c) (stOk, s))))

/-- Write a word of CTX_RECORD of slot c; reserved bits are ignored (R13). -/
def writeCtxRecord (i : Iface) (a value : Nat) (s : State) : Nat × State :=
  let c := (a - 0x41000) / 0x40
  let o := (a - 0x41000) % 0x40
  let b := recordBytes (ctxOf s c).record
  let r := recordOf (b.take o ++ bytesLe value 4 ++ b.drop (o + 4))
  (stOk, changeReg s i a (modCtx s c fun x => { x with record := { r with reserved := false } }))

/-! ### LEDGER, GLINT, RELAY -/

/-- Write LEDGER_SELECT: the four values are captured (R479). It keeps the fields of LEDGER_STATUS that name a ledger and an index, bits
[11:8] and [25:16]; its other bits read 0 (DESIGN CHOICE, log 113). -/
def writeLedger (i : Iface) (value : Nat) (s : State) : Nat × State :=
  let which := value / 256 % 16
  let index := value / 65536 % 1024
  let (t, f, h, fl) := ledgerColumns s which index
  (stOk, changeReg s i 0x50020
    { s with ledgers := { s.ledgers with select := BitVec.ofNat 26 (256 * which + 65536 * index), selTotal := t, selFree := f, selHeld := h,
                                         selFlight := fl } })

/-- Write GLINT_STATUS: a one clears BANK_REFUSED. -/
def writeGlint (i : Iface) (value : Nat) (s : State) : Nat × State :=
  (stOk, changeReg s i 0x90000 (if bit value 0 then { s with glint := { s.glint with refused := false } } else s))

/-- Retrain the selected ports that are up (R388, R398). -/
def retrainPorts (i : Iface) (ports : Nat) (s : State) : Nat × State :=
  if ports % 256 = 0 then (stOk, s)
  else
    let t := (span 0 8).foldl (fun t n => if bit ports n && (relayPort t n).up && t.iris.stop = 4 then retrainRelay t n 0 else t) s
    (stOk, actReg t i 0xC0040 (ports % 256))

/-- Cut the selected parts as R396 does (R398). -/
def cutParts (i : Iface) (parts : Nat) (s : State) : Nat × State :=
  if parts % 512 = 0 then (stOk, s)
  else (stOk, actReg ((span 0 9).foldl (fun t j => if bit parts j then cutPeer t j else t) s) i 0xC0040 (65536 * (parts % 512)))

/-- Write RELAY_CONTROL. -/
def writeRelay (i : Iface) (value : Nat) (s : State) : Nat × State := cutParts i (value / 65536) (retrainPorts i value s).2

/-! ### NET and EVENT (R483) -/

/-- Write NET_EVENT_DEST_IPV4. -/
def writeDestIp (i : Iface) (value : Nat) (s : State) : Nat × State :=
  (stOk, changeReg s i 0xD0028 { s with control := { s.control with destIp := BitVec.ofNat 32 value } })

/-- Write NET_EVENT_DEST. -/
def writeDest (i : Iface) (value : Nat) (s : State) : Nat × State :=
  (stOk, changeReg s i 0xD002C
    { s with control := { s.control with destUdp := BitVec.ofNat 16 value, destPort := value / 65536 % 4, destOn := bit value 31 } })

/-- Write EVENT_TAIL: beyond the head stores the head; behind the tail is ignored. -/
def writeTail (i : Iface) (value : Nat) (s : State) : Nat × State :=
  let c := s.control
  let v := BitVec.ofNat 32 value
  let new := if v - c.tail ≤ c.head - c.tail then v else if (v - c.head).toNat < 2 ^ 31 then c.head else c.tail
  (stOk, changeReg s i 0xF0004 { s with control := { c with tail := new } })

/-- Write EVENT_MASK. -/
def writeMask (i : Iface) (value : Nat) (s : State) : Nat × State :=
  (stOk, changeReg s i 0xF000C { s with control := { s.control with mask := BitVec.ofNat 24 value } })

/-- Write EVENT_ADDR; the words of the slot are read from the first. -/
def writeEventAddr (i : Iface) (value : Nat) (s : State) : Nat × State :=
  (stOk, changeReg s i 0xF0010 { s with control := { s.control with addr := value % 2048, word := 0 } })

/-! ### SEC: the flash (R405, R484) -/

/-- A byte of the flash; an erased one reads 0xFF. -/
def flashByte (s : State) (a : Nat) : Byte := tget (0xFF : Byte) s.sec.flash a

/-- The flash word at a byte address. -/
def flashWord (s : State) (a : Nat) : Nat := leValue ((span 0 4).map fun k => flashByte s (a + k))

/-- Write SEC_FLASH_ADDR. -/
def writeFlashAddr (i : Iface) (value : Nat) (s : State) : Nat × State :=
  (stOk, changeReg s i 0xE0010 { s with sec := { s.sec with flashAddr := BitVec.ofNat 32 value } })

/-- Write SEC_FLASH_DATA. -/
def writeFlashData (i : Iface) (value : Nat) (s : State) : Nat × State :=
  (stOk, changeReg s i 0xE0014 { s with sec := { s.sec with flashData := BitVec.ofNat 32 value } })

/-- Read the flash word at SEC_FLASH_ADDR. -/
def flashRead (i : Iface) (s : State) : Nat × State :=
  (stOk, actReg { s with sec := { s.sec with flashData := BitVec.ofNat 32 (flashWord s s.sec.flashAddr.toNat) } } i 0xE0018 1)

/-- Journal a flash command: the word at its address before and after (R438, R484). -/
def journalFlash (s : State) (i : Iface) (before : Nat) : State :=
  let a := s.sec.flashAddr.toNat
  journal s (ifaceCode i) 7 a before (flashWord s a)

/-- Program the word: the flash device clears bits and sets none (log 19). -/
def flashProgram (i : Iface) (s : State) : Nat × State :=
  let a := s.sec.flashAddr.toNat
  let old := flashWord s a
  let new := (bytesLe s.sec.flashData.toNat 4).zipIdx.foldl
    (fun (m : Memory) e => tset 0xFF m (a + e.2) (tget 0xFF m (a + e.2) &&& e.1)) s.sec.flash
  (stOk, journalFlash { s with sec := { s.sec with flash := new } } i old)

/-- Erase the 64 KiB sector of the address. -/
def flashErase (i : Iface) (s : State) : Nat × State :=
  let a := s.sec.flashAddr.toNat
  (stOk, journalFlash { s with sec := { s.sec with flash := clearRange s.sec.flash (a / 65536 * 65536) 65536 } } i (flashWord s a))

/-- Write SEC_FLASH_CMD. -/
def writeFlash (i : Iface) (value : Nat) (s : State) : Nat × State :=
  match value % 4 with
  | 1 => flashRead i s
  | 2 => flashProgram i s
  | 3 => flashErase i s
  | _ => (stOk, s)

/-! ### SEC: staging and NVS commands (R420, R437, R484) -/

/-- Write SEC_NVS_STAGE_ADDR. -/
def writeStageAddr (i : Iface) (value : Nat) (s : State) : Nat × State :=
  (stOk, changeReg s i 0xE0020 { s with sec := { s.sec with stageAddr := BitVec.ofNat 16 value } })

/-- Put bytes into the 64 KiB staging area. -/
def stageBytes (m : Memory) (a : Nat) (l : List Byte) : Memory := l.zipIdx.foldl (fun m e => wr m ((a + e.2) % 65536) e.1) m

/-- Write SEC_NVS_STAGE_DATA: the word is stored, and the offset advances by 4. -/
def writeStageData (i : Iface) (value : Nat) (s : State) : Nat × State :=
  let old := regPeek s 0xE0024
  let v := value % 2 ^ 32
  let t := { s with sec := { s.sec with staging := stageBytes s.sec.staging s.sec.stageAddr.toNat (bytesLe v 4), stageAddr := s.sec.stageAddr + 4 } }
  (stOk, if v = old then t else journalWrite t i 0xE0024 old v)

/-- NVS offset of key slot n; the present byte follows the hash (log 19). -/
def keyPlace (n : Nat) : Nat := 0x4000 + 64 * n

/-- A key is enrolled in slot n. -/
def keyPresent (s : State) (n : Nat) : Bool := rd s.sec.nvs (keyPlace n + 32) ≠ 0

/-- A command of the NVS engine is refused with a status. -/
def refuseNvs (s : State) (st : Nat) : Nat × State := (st, { s with sec := { s.sec with result := st } })

/-- A command of the NVS engine starts. -/
def beginJob (s : State) (i : Iface) (op index : Nat) (data : List Byte) : Nat × State :=
  (stOk, { s with sec := { s.sec with job := some { op := op, index := index, iface := i, data := data } } })

/-- Store a facet: the staging area goes into the shadow first (R412). -/
def storeFacet (i : Iface) (n : Nat) (s : State) : Nat × State :=
  if s.sec.job.isSome then (stHeld, s)
  else beginJob { s with sec := { s.sec with nvs := wrBytes s.sec.nvs 0x50000 (rdBytes s.sec.staging 0 65536) } } i 1 n []

/-- Enrol a key into a free slot (R420). -/
def enrolKey (i : Iface) (n : Nat) (s : State) : Nat × State :=
  if s.sec.job.isSome then (stHeld, s)
  else if keyPresent s n then refuseNvs s stHeld
  else beginJob s i 2 n (rdBytes s.sec.staging 0 32)

/-- Revoke the key of a slot (R420). -/
def revokeKey (i : Iface) (n : Nat) (s : State) : Nat × State := if s.sec.job.isSome then (stHeld, s) else beginJob s i 3 n []

/-- Write the boot record (R413, R484). -/
def storeBoot (i : Iface) (s : State) : Nat × State := if s.sec.job.isSome then (stHeld, s) else beginJob s i 4 0 (rdBytes s.sec.staging 0 2016)

/-- Write SEC_NVS_CMD. -/
def writeNvs (i : Iface) (value : Nat) (s : State) : Nat × State :=
  let n := value / 16 % 4
  match value % 16 with
  | 1 => storeFacet i n s
  | 2 => enrolKey i n s
  | 3 => revokeKey i n s
  | 4 => storeBoot i s
  | _ => (stOk, s)

/-- Write SEC_CERT_ADDR. -/
def writeCertAddr (i : Iface) (value : Nat) (s : State) : Nat × State :=
  (stOk, changeReg s i 0xE0060 { s with sec := { s.sec with certAddr := BitVec.ofNat 13 value } })

/-! ### DIGEST (R450, R451, R485) -/

/-- Write DIGEST_CTX_SELECT. -/
def writeDigestCtx (i : Iface) (value : Nat) (s : State) : Nat × State :=
  (stOk, changeReg s i 0x100000 { s with digest := { s.digest with ctx := value % 32 } })

/-- Write DIGEST_TRACE_ADDR; the record's words are read from the first. -/
def writeTraceAddr (i : Iface) (value : Nat) (s : State) : Nat × State :=
  (stOk, changeReg s i 0x100018 { s with digest := { s.digest with traceAddr := value % 2 ^ 21, traceWord := 0 } })

/-- Write DIGEST_REPLAY_CTRL: one slot replays, and it alone keeps a log. -/
def writeReplayCtrl (i : Iface) (value : Nat) (s : State) : Nat × State :=
  let n := value % 32
  let on := bit value 31
  let t := (span 0 32).foldl (fun t c => modCtx t c fun x =>
    { x with replay := if c = n then { on := on, words := if on then x.replay.words else [] } else { on := false, words := [] } }) s
  (stOk, changeReg s i 0x100024 { t with digest := { t.digest with replaySlot := n, replayOn := on } })

/-- Write DIGEST_REPLAY_DATA: the next word of the log, of at most 32,768 records. -/
def writeReplayData (i : Iface) (value : Nat) (s : State) : Nat × State :=
  let c := s.digest.replaySlot
  if 262144 ≤ (ctxOf s c).replay.words.length then (stOk, s)
  else (stOk, actReg (modCtx s c fun x => { x with replay := { x.replay with words := x.replay.words ++ [BitVec.ofNat 32 value] } }) i 0x100028 (value % 2 ^ 32))

/-- Write DIGEST_MARK. -/
def writeMark (i : Iface) (value : Nat) (s : State) : Nat × State :=
  (stOk, changeReg s i 0x100048
    { s with digest := { s.digest with markSlot := value % 32, markOn := bit value 5, markCmd := value / 65536 % 65536 } })

/-- Write DIGEST_MARK_S3. -/
def writeMarkS3 (i : Iface) (value : Nat) (s : State) : Nat × State :=
  (stOk, changeReg s i 0x10004C { s with digest := { s.digest with markS3 := BitVec.ofNat 32 value } })

/-- The stopped instance may issue; the stopped time counts as frozen (R451). -/
def resumeBroken (s : State) : State :=
  match s.digest.broken with
  | none => s
  | some (e, _) =>
    let t := { s with digest := { s.digest with broken := none } }
    match (engOf s e).run with
    | some i =>
      if i.halted then
        let f := max s.now i.nextIssue
        setInst t e { i with halted := false, passed := true, nextIssue := f }
      else t
    | none => t

/-- Resume the instance at the breakpoint. -/
def resumeBreak (i : Iface) (s : State) : Nat × State :=
  if s.digest.broken.isSome then (stOk, actReg (resumeBroken s) i 0x100050 (2 ^ 31)) else (stOk, s)

/-- The breakpoint fields of DIGEST_BREAK. -/
def armBreak (i : Iface) (value : Nat) (s : State) : Nat × State :=
  (stOk, changeReg s i 0x100050 { s with digest := { s.digest with breakInstr := value % 2 ^ 24, breakArmed := bit value 30 } })

/-- Write DIGEST_BREAK. -/
def writeBreak (i : Iface) (value : Nat) (s : State) : Nat × State :=
  let t := (armBreak i value s).2
  if bit value 31 then resumeBreak i t else (stOk, t)

/-- Write DIGEST_PEEK_ADDR. -/
def writePeekAddr (i : Iface) (value : Nat) (s : State) : Nat × State :=
  (stOk, changeReg s i 0x100054 { s with digest := { s.digest with peekAddr := BitVec.ofNat 32 value } })

/-! ### Every register -/

/-- Writes of the CTX and QNT blocks. -/
def writeCtxBlock (i : Iface) (a value : Nat) (s : State) : Nat × State :=
  let o := a % 0x10000
  if a / 0x10000 = 4 && o < 0x800 && o % 0x40 = 4 then writeControl i (o / 0x40) value s
  else if a / 0x10000 = 4 && 0x1000 ≤ o && o < 0x1800 then writeCtxRecord i a value s
  else if a / 0x10000 = 6 && 0x100 ≤ o && o < 0x180 then writeTheta i ((o - 0x100) / 4) value s
  else (stOk, s)

/-- A register write: its status, and the state after it. What the map does not list ignores writes (R465). -/
def regWrite (i : Iface) (a value : Nat) (s : State) : Nat × State :=
  if s.sys.maskRom && !(romRegister a) then (stOk, s)
  else match a with
    | 0x00000008 => writeFacet i value s
    | 0x00000014 => writeCounters i value s
    | 0x00000018 => writeReset i value s
    | 0x00010000 => writeSource i value s
    | 0x00010004 => writeDivider i value s
    | 0x00010008 => writePeriod i value s
    | 0x0001000C => writeLixStatus i value s
    | 0x00030000 => writeLimit i value s
    | 0x0003001C => writeWakeLo i value s
    | 0x00030020 => writeWakeHi i value s
    | 0x00050020 => writeLedger i value s
    | 0x00090000 => writeGlint i value s
    | 0x000C0040 => writeRelay i value s
    | 0x000D0028 => writeDestIp i value s
    | 0x000D002C => writeDest i value s
    | 0x000E0010 => writeFlashAddr i value s
    | 0x000E0014 => writeFlashData i value s
    | 0x000E0018 => writeFlash i value s
    | 0x000E0020 => writeStageAddr i value s
    | 0x000E0024 => writeStageData i value s
    | 0x000E0028 => writeNvs i value s
    | 0x000E0060 => writeCertAddr i value s
    | 0x000F0004 => writeTail i value s
    | 0x000F000C => writeMask i value s
    | 0x000F0010 => writeEventAddr i value s
    | 0x00100000 => writeDigestCtx i value s
    | 0x00100018 => writeTraceAddr i value s
    | 0x00100024 => writeReplayCtrl i value s
    | 0x00100028 => writeReplayData i value s
    | 0x00100048 => writeMark i value s
    | 0x0010004C => writeMarkS3 i value s
    | 0x00100050 => writeBreak i value s
    | 0x00100054 => writePeekAddr i value s
    | _ => writeCtxBlock i a value s

/-! ### Reads with an effect -/

/-- A read of LIX_COUNT_LO captures count and phase (R41). -/
def captureLine (s : State) : State := { s with lix := { s.lix with capCount := s.lix.count, capPhase := s.lix.phase } }

/-- A read of AUDIO_POSITION_LO captures the position (R481). -/
def capturePosition (s : State) : State := { s with island := { s.island with capPosition := s.island.position } }

/-- A read of EVENT_DATA: the next word, 0 to 15, then again from 0 (R483). -/
def stepEvent (s : State) : State := { s with control := { s.control with word := (s.control.word + 1) % 16 } }

/-- A read of SEC_NVS_STAGE_DATA advances the offset (R484). -/
def stepStage (s : State) : State := { s with sec := { s.sec with stageAddr := s.sec.stageAddr + 4 } }

/-- A read of SEC_CERT_DATA advances the offset (R484). -/
def stepCert (s : State) : State := { s with sec := { s.sec with certAddr := s.sec.certAddr + 4 } }

/-- A read of DIGEST_CHAIN_LO captures the high half and the step (R485). -/
def captureChain (s : State) : State :=
  let x := ctxOf s s.digest.ctx
  { s with digest := { s.digest with capChain := x.chain, capStep := x.step } }

/-- The upper half of a 64-bit value. -/
def upperHalf (x : BitVec 64) : Word := x.extractLsb' 32 32

/-- A read of DIGEST_TRACE_DATA: the next word of 8. -/
def stepTrace (s : State) : State := { s with digest := { s.digest with traceWord := (s.digest.traceWord + 1) % 8 } }

/-- A read of DIGEST_PEEK_DATA advances the word index. -/
def stepPeek (s : State) : State :=
  let a := s.digest.peekAddr.toNat
  { s with digest := { s.digest with peekAddr := BitVec.ofNat 32 (a / 2 ^ 28 * 2 ^ 28 + (a + 1) % 2 ^ 28) } }

/-- What a read does beside returning the value. -/
def readEffect (s : State) (a : Nat) : State :=
  match a with
  | 0x00010010 => captureLine s
  | 0x000A0008 => capturePosition s
  | 0x000E0024 => stepStage s
  | 0x000E0064 => stepCert s
  | 0x000F0014 => stepEvent s
  | 0x00100004 => captureChain s
  | 0x0010001C => stepTrace s
  | 0x00100030 => { s with digest := { s.digest with divStepHi := upperHalf s.digest.divStep } }
  | 0x00100038 => { s with digest := { s.digest with divExpectHi := upperHalf s.digest.divExpect } }
  | 0x00100040 => { s with digest := { s.digest with divFoundHi := upperHalf s.digest.divFound } }
  | 0x00100058 => stepPeek s
  | _ => s

/-- A register read: the value, and the state after it. In mask-ROM service the other registers read 0 (R486). -/
def regRead (s : State) (a : Nat) : Word × State :=
  if s.sys.maskRom && !(romRegister a) then (0, s) else (BitVec.ofNat 32 (regPeek s a), readEffect s a)

/-- A register read reaches its register. -/
def readable (s : State) (a : Nat) : Bool := s.sys.powerGood && s.sys.resetN && (!s.sys.maskRom || romRegister a)

/-- A read row: the effect of the read of a register. -/
def rowRead (s : State) (a : Nat) (f : State → State) : State := if readable s a then f s else s

/-! ### The rows -/

/-- REGISTER_WRITE: a field with no row of its own. -/
def execRegisterWrite (i : Iface) (addr : Word) (value : Word) (s : State) : Host.Outcome State Fault Refusal :=
  .next (if inMap addr.toNat && addr.toNat % 4 = 0 && addr.toNat ≠ 0x18 then rowWrite s i addr.toNat (regWrite i addr.toNat value.toNat) else s)

/-- LIX_SOURCE (R45). -/
def execLixSource (i : Iface) (value : Word) (s : State) : Host.Outcome State Fault Refusal :=
  .next (rowWrite s i 0x10000 (writeSource i value.toNat))

/-- LIX_DIVIDER (R29). -/
def execLixDivider (i : Iface) (value : Word) (s : State) : Host.Outcome State Fault Refusal :=
  .next (rowWrite s i 0x10004 (writeDivider i value.toNat))

/-- LIX_STATUS_CLEAR (R43). -/
def execLixStatusClear (i : Iface) (value : Word) (s : State) : Host.Outcome State Fault Refusal :=
  .next (rowWrite s i 0x1000C (writeLixStatus i value.toNat))

/-- LIX_COUNT_CAPTURE (R41). -/
def execLixCountCapture (s : State) : Host.Outcome State Fault Refusal := .next (rowRead s 0x10010 captureLine)

/-- AUDIO_POSITION_CAPTURE (R481). -/
def execAudioPositionCapture (s : State) : Host.Outcome State Fault Refusal := .next (rowRead s 0xA0008 capturePosition)

/-- SYS_FACET (R435). -/
def execSysFacet (i : Iface) (value : Word) (s : State) : Host.Outcome State Fault Refusal :=
  .next (rowWrite s i 0x00008 (writeFacet i value.toNat))

/-- SYS_COUNTERS_CLEAR (R476). -/
def execSysCountersClear (i : Iface) (value : Word) (s : State) : Host.Outcome State Fault Refusal :=
  .next (rowWrite s i 0x00014 (writeCounters i value.toNat))

/-- SYS_RESET (R476): the write is journalled, and the part starts as after a fall of RESET_N. -/
def execSysReset (i : Iface) (value : Word) (x : ColdStart) (s : State) : Host.Outcome State Fault Refusal :=
  .next (if reaches s i 0x00018 && resets value.toNat then coldStart (writeReset i value.toNat s).2 x else s)

/-- CTX_STOP (R347). -/
def execCtxStop (i : Iface) (c : Nat) (s : State) : Host.Outcome State Fault Refusal :=
  .next (if c < 32 then rowWrite s i (controlRegister c) (stopContext i c) else s)

/-- CTX_RESUME (R347). -/
def execCtxResume (i : Iface) (c : Nat) (s : State) : Host.Outcome State Fault Refusal :=
  .next (if c < 32 then rowWrite s i (controlRegister c) (resumeContext i c) else s)

/-- CTX_UNLOAD (R478). -/
def execCtxUnload (i : Iface) (c : Nat) (s : State) : Host.Outcome State Fault Refusal :=
  .next (if c < 32 then rowWrite s i (controlRegister c) (unloadContext i c) else s)

/-- CTX_LOAD (R478). -/
def execCtxLoad (i : Iface) (c : Nat) (s : State) : Host.Outcome State Fault Refusal :=
  .next (if c < 32 then rowWrite s i (controlRegister c) (loadContext i c) else s)

/-- IRIS_BUDGET_LIMIT (R372). -/
def execIrisBudgetLimit (i : Iface) (value : Word) (s : State) : Host.Outcome State Fault Refusal :=
  .next (rowWrite s i 0x30000 (writeLimit i value.toNat))

/-- QNT_CLIP_THRESHOLD (R186). -/
def execQntClipThreshold (i : Iface) (c : Nat) (value : Word) (s : State) : Host.Outcome State Fault Refusal :=
  .next (if c < 32 then rowWrite s i (0x60100 + 4 * c) (writeTheta i c value.toNat) else s)

/-- LEDGER_SELECT (R479). -/
def execLedgerSelect (i : Iface) (value : Word) (s : State) : Host.Outcome State Fault Refusal :=
  .next (rowWrite s i 0x50020 (writeLedger i value.toNat))

/-- GLINT_STATUS_CLEAR (R481). -/
def execGlintStatusClear (i : Iface) (value : Word) (s : State) : Host.Outcome State Fault Refusal :=
  .next (rowWrite s i 0x90000 (writeGlint i value.toNat))

/-- RELAY_RETRAIN_PORT (R398). -/
def execRelayRetrainPort (i : Iface) (ports : BitVec 8) (s : State) : Host.Outcome State Fault Refusal :=
  .next (rowWrite s i 0xC0040 (retrainPorts i ports.toNat))

/-- RELAY_CUT_PEER (R398). -/
def execRelayCutPeer (i : Iface) (parts : BitVec 9) (s : State) : Host.Outcome State Fault Refusal :=
  .next (rowWrite s i 0xC0040 (cutParts i parts.toNat))

/-- EVENT_TAIL (R483). -/
def execEventTail (i : Iface) (value : Word) (s : State) : Host.Outcome State Fault Refusal :=
  .next (rowWrite s i 0xF0004 (writeTail i value.toNat))

/-- EVENT_DATA (R483). -/
def execEventData (s : State) : Host.Outcome State Fault Refusal := .next (rowRead s 0xF0014 stepEvent)

/-- FLASH_READ (R484). -/
def execFlashRead (i : Iface) (s : State) : Host.Outcome State Fault Refusal := .next (rowWrite s i 0xE0018 (flashRead i))

/-- FLASH_PROGRAM (R484). -/
def execFlashProgram (i : Iface) (s : State) : Host.Outcome State Fault Refusal := .next (rowWrite s i 0xE0018 (flashProgram i))

/-- FLASH_ERASE (R484). -/
def execFlashErase (i : Iface) (s : State) : Host.Outcome State Fault Refusal := .next (rowWrite s i 0xE0018 (flashErase i))

/-- SEC_NVS_STAGE_DATA (R484). -/
def execSecNvsStageData (i : Iface) (value : Word) (s : State) : Host.Outcome State Fault Refusal :=
  .next (rowWrite s i 0xE0024 (writeStageData i value.toNat))

/-- STORE_FACET (R412, R484). -/
def execStoreFacet (i : Iface) (slot : BitVec 2) (s : State) : Host.Outcome State Fault Refusal :=
  .next (rowWrite s i 0xE0028 (storeFacet i slot.toNat))

/-- ENROL_KEY (R420). -/
def execEnrolKey (i : Iface) (slot : BitVec 2) (s : State) : Host.Outcome State Fault Refusal :=
  .next (rowWrite s i 0xE0028 (enrolKey i slot.toNat))

/-- REVOKE_KEY (R420). -/
def execRevokeKey (i : Iface) (slot : BitVec 2) (s : State) : Host.Outcome State Fault Refusal :=
  .next (rowWrite s i 0xE0028 (revokeKey i slot.toNat))

/-- WRITE_BOOT_RECORD (R413). -/
def execWriteBootRecord (i : Iface) (s : State) : Host.Outcome State Fault Refusal := .next (rowWrite s i 0xE0028 (storeBoot i))

/-- SEC_CERT_DATA (R484). -/
def execSecCertData (s : State) : Host.Outcome State Fault Refusal := .next (rowRead s 0xE0064 stepCert)

/-- DIGEST_CHAIN_CAPTURE (R485). -/
def execDigestChainCapture (s : State) : Host.Outcome State Fault Refusal := .next (rowRead s 0x100004 captureChain)

/-- DIGEST_TRACE_DATA (R485). -/
def execDigestTraceData (s : State) : Host.Outcome State Fault Refusal := .next (rowRead s 0x10001C stepTrace)

/-- DIGEST_REPLAY_CTRL (R450). -/
def execDigestReplayCtrl (i : Iface) (value : Word) (s : State) : Host.Outcome State Fault Refusal :=
  .next (rowWrite s i 0x100024 (writeReplayCtrl i value.toNat))

/-- DIGEST_REPLAY_DATA (R450). -/
def execDigestReplayData (i : Iface) (value : Word) (s : State) : Host.Outcome State Fault Refusal :=
  .next (rowWrite s i 0x100028 (writeReplayData i value.toNat))

/-- DIGEST_MARK (R451). -/
def execDigestMark (i : Iface) (value : Word) (s : State) : Host.Outcome State Fault Refusal :=
  .next (rowWrite s i 0x100048 (writeMark i value.toNat))

/-- DIGEST_BREAK (R451). -/
def execDigestBreak (i : Iface) (value : Word) (s : State) : Host.Outcome State Fault Refusal :=
  .next (rowWrite s i 0x100050 (armBreak i value.toNat))

/-- DIGEST_BREAK_RESUME (R451). -/
def execDigestBreakResume (i : Iface) (s : State) : Host.Outcome State Fault Refusal := .next (rowWrite s i 0x100050 (resumeBreak i))

/-- DIGEST_PEEK_DATA (R485). -/
def execDigestPeekData (s : State) : Host.Outcome State Fault Refusal := .next (rowRead s 0x100058 stepPeek)

end Sys2Proof.Machine
end

