-- ==== Sys2Proof/Machine/Control.lean ====
section
/-! DEFINITION. The control class: BR, CALL, RET, LOOP, HALT (R132, R133). -/

namespace Sys2Proof.Machine

open Sys2Proof

/-- BR (R132): the target is its own index plus the signed offset. -/
def execBr (e : Nat) (w : Insn) (s : State) : Host.Outcome State Fault Refusal :=
  match comeUp s e w 0 false [] with
  | .no => .next s
  | .passed t => .next t
  | .go t i edge => .next (setInst t e (branchTo (stageDone i edge 3) ((i.pc : Int) + w.a.toInt).toNat))

/-- CALL. -/
def execCall (e : Nat) (w : Insn) (s : State) : Host.Outcome State Fault Refusal :=
  match comeUp s e w 0 false [] with
  | .no => .next s
  | .passed t => .next t
  | .go t i edge =>
    let j := stageDone i edge 3
    .next (setInst t e { j with calls := (i.pc + 1) :: i.calls, pc := w.a.toNat })

/-- RET: with an empty stack it fails with CONTEXT_FAULT (R133). -/
def execRet (e : Nat) (w : Insn) (s : State) : Host.Outcome State Fault Refusal :=
  match comeUp s e w 0 false [] with
  | .no => .next s
  | .passed t => .next t
  | .go t i edge =>
    match i.calls with
    | [] => .next (stageFail t e i stFault edge)
    | pc :: r =>
      let j := stageDone i edge 3
      .next (setInst t e (wrapLoops 5 { j with pc := pc, calls := r, loops := j.loops.dropWhile fun l => r.length < l.depth }))

/-- LOOP (R132, R97): the following B instructions run t times; with t = 0 the body is skipped. -/
def execLoop (e : Nat) (w : Insn) (s : State) : Host.Outcome State Fault Refusal :=
  match comeUp s e w 1 false [] with
  | .no => .next s
  | .passed t => .next t
  | .go t i edge =>
    let n := (slotValue i w.kindA w.a).toNat
    let reg := match w.kindC with
      | .scalar => some (slotReg w.c)
      | _ => none
    if !withinMax t i [1] n then .next (stageFail t e i stLength edge)
    else
      let j := stageDone i edge 2
      if n = 0 then .next (setInst t e (wrapLoops 5 { j with pc := i.pc + 1 + w.b.toNat }))
      else
        let f : LoopFrame := { first := i.pc + 1, last := i.pc + w.b.toNat, trip := 0, trips := n, reg := reg, depth := i.calls.length }
        let j := { j with pc := i.pc + 1, loops := f :: j.loops }
        .next (setInst t e (match reg with
          | some k => setReg j k 0
          | none => j))

/-- HALT ends the instance as halted (R104, R133), 1 cycle after it issues. -/
def execHalt (e : Nat) (w : Insn) (s : State) : Host.Outcome State Fault Refusal :=
  match comeUp s e w 0 false [] with
  | .no => .next s
  | .passed t => .next t
  | .go t i edge =>
    let (t, i) := retire (advanceTo t (edge + 1)) (stageDone i edge 1) (edge + 1)
    .next (endUncommitted t i 1)

end Sys2Proof.Machine
end

