-- ==== Sys2Proof/Machine/Frames.lean ====
section
/-! DEFINITION. Control frames and their replies (R463 to R470), attestation (R416, R418, R419, R439), the ends of the NVS commands
(R412, R438), the network ports (R462) and the test port (R498). -/

namespace Sys2Proof.Machine

open Sys2Proof

/-! ### Frames (R463, R464) -/

/-- Frame limit of an interface (R461). -/
def frameLimit : Iface → Nat
  | .spi | .uart => 4096
  | _ => 1472

/-- Payload length an op takes (R464). -/
def opLengthOk (op n : Nat) (payload : List Byte) : Bool :=
  match op with
  | 1 => n = 8 && 1 ≤ field payload 4 2 && field payload 4 2 ≤ 256
  | 2 => n % 8 = 0 && 8 ≤ n && n ≤ 1024
  | 3 => 4 ≤ n
  | 4 => n = 32
  | 5 => 5 ≤ n && n ≤ 1028
  | _ => false

/-- Op of a frame. -/
def frameOp (l : List Byte) : Nat := field l 5 1

/-- Request number of a frame. -/
def frameRequest (l : List Byte) : Nat := field l 8 4

/-- Payload of a frame. -/
def framePayload (l : List Byte) : List Byte := (l.drop 16).take (field l 12 2)

/-- Magic, version, length, op and trailer are right (R463). -/
def frameOk (i : Iface) (l : List Byte) : Bool :=
  let n := field l 12 2
  l.length = n + 24 && l.length ≤ frameLimit i && l.take 4 = ascii "BXCF" && field l 4 1 = 1 && opLengthOk (frameOp l) n (framePayload l) &&
  crc64 (l.take (n + 16)) = BitVec.ofNat 64 (field l (n + 16) 8)

/-- The bytes between a UART frame's first delimiter and its last, their escapes undone; none for any other escape sequence (R471). -/
def uartBody : List Byte → Option (List Byte)
  | [] => none
  | [b] => if b = 0xC0 then some [] else none
  | a :: b :: l =>
    if a = 0xC0 then none
    else if a ≠ 0xDB then (uartBody (b :: l)).map (a :: ·)
    else if b = 0xDC then (uartBody l).map (0xC0 :: ·)
    else if b = 0xDD then (uartBody l).map (0xDB :: ·)
    else none

/-- The frame that an interface's bytes carry. -/
def frameBody (i : Iface) (l : List Byte) : Option (List Byte) :=
  match i, l with
  | .uart, b :: r => if b = 0xC0 then uartBody r else none
  | .uart, [] => none
  | _, _ => some l

/-- A payload in pieces of at most n bytes. -/
def pieces (n : Nat) : Nat → List Byte → List (List Byte)
  | 0, _ => []
  | k + 1, l => if l.length ≤ n then [l] else l.take n :: pieces n k (l.drop n)

/-- Send a reply, in fragments under the interface's limit (R464). -/
def sendReply (s : State) (i : Iface) (op status request : Nat) (payload : List Byte) : State :=
  let l := pieces (frameLimit i - 24) 16 payload
  l.zipIdx.foldl (fun t p => sendFrame t i (frameBytes (op + 128) status (p.2 + 16 * (l.length - 1)) request p.1)) s

/-- A frame is discarded without a reply (R463). -/
def countBad (s : State) : State := { s with control := { s.control with bad := bump s.control.bad 1 } }

/-- A frame is accepted, or discarded and counted (R463, R471). -/
def acceptFrame (s : State) (i : Iface) (op : Nat) (line : List Byte) (f : List Byte → State → State) : State :=
  if !(served s i) then s
  else match frameBody i line with
    | none => countBad s
    | some l =>
      if !(frameOk i l) then countBad s
      else if frameOp l ≠ op then s
      else f l { s with control := { s.control with frames := bump s.control.frames 1 } }

/-- An address a frame may name (R465). -/
def addressOk (a : Nat) : Bool := inMap a && a % 4 = 0

/-! ### READ and WRITE (R465, R466) -/

/-- Registers read one after another on one edge. -/
def readAll (s : State) : List Nat → List Byte × State
  | [] => ([], s)
  | a :: r =>
    let (v, t) := regRead s a
    let (b, u) := readAll t r
    (bytesLe v.toNat 4 ++ b, u)

/-- Addresses of a READ. -/
def readAddresses (p : List Byte) : List Nat := (span 0 (field p 4 2)).map fun k => field p 0 4 + 4 * k

/-- READ. -/
def readFrame (i : Iface) (l : List Byte) (s : State) : State :=
  let p := framePayload l
  let as_ := readAddresses p
  if as_.all addressOk then
    let (b, t) := readAll s as_
    sendReply t i 1 stOk (frameRequest l) b
  else sendReply s i 1 stLength (frameRequest l) []

/-- Pairs of a WRITE. -/
def pairsOf (p : List Byte) : List (Nat × Nat) := (span 0 (p.length / 8)).map fun k => (field p (8 * k) 4, field p (8 * k + 4) 4)

/-- The pairs in order: the first failing index with its status, and the state after all (R466). -/
def applyPairs (i : Iface) : Nat → List (Nat × Nat) → State → Option (Nat × Nat) × State
  | _, [], s => (none, s)
  | k, (a, v) :: r, s =>
    let (st, t) := regWrite i a v s
    let (e, u) := applyPairs i (k + 1) r t
    (if st = stOk then e else some (k, st), u)

/-- First pair that names an address outside the map. -/
def badPair : Nat → List (Nat × Nat) → Option Nat
  | _, [] => none
  | k, p :: r => if addressOk p.1 then badPair (k + 1) r else some k

/-- The part is held as in reset until its cold start runs: a WRITE held SYS_RESET (R476; log 19). -/
def heldReset (s : State) : State :=
  let t := powerDown s
  { t with sys := { t.sys with powerGood := true, resetN := true } }

/-- WRITE. -/
def writeFrame (i : Iface) (l : List Byte) (s : State) : State :=
  let ps := pairsOf (framePayload l)
  match badPair 0 ps with
  | some k => sendReply s i 2 stLength (frameRequest l) (bytesLe k 2)
  | none =>
    let (e, t) := applyPairs i 0 ps s
    if !s.sys.maskRom && ps.any (fun p => p.1 = 0x18 && resets p.2) then heldReset t
    else match e with
      | some (k, st) => sendReply t i 2 st (frameRequest l) (bytesLe k 2)
      | none => sendReply t i 2 stOk (frameRequest l) (bytesLe 0xFFFF 2)

/-! ### POST and STAGE (R469) -/

/-- Header source of a message by its interface (R348, R469). -/
def postSource : Iface → Nat
  | .spi => 1
  | .uart => 2
  | _ => 0

/-- POST. -/
def postFrame (i : Iface) (l : List Byte) (s : State) : State :=
  let p := framePayload l
  if s.sys.maskRom then sendReply s i 3 stSignature (frameRequest l) []
  else if 32 ≤ field p 0 1 || 8 ≤ field p 1 1 then sendReply s i 3 stLength (frameRequest l) []
  else
    let (ok, t) := arrive s (field p 0 1) (field p 1 1) (postSource i) 0 (p.drop 4)
    sendReply t i 3 (if ok then stOk else stLength) (frameRequest l) []

/-- STAGE. -/
def stageFrame (i : Iface) (l : List Byte) (s : State) : State :=
  let p := framePayload l
  if s.sys.maskRom then sendReply s i 5 stSignature (frameRequest l) []
  else if 65536 < field p 0 4 + (p.length - 4) then sendReply s i 5 stLength (frameRequest l) []
  else sendReply { s with sec := { s.sec with staging := stageBytes s.sec.staging (field p 0 4) (p.drop 4) } } i 5 stOk (frameRequest l) []

/-! ### Attestation -/

/-- Leaves of a bottom tree. -/
def treeLeaves : Nat := 2 ^ 20

/-- Bytes 0x000 to 0x0FF of the report (R439). -/
def reportBytes (s : State) (nonce : List Byte) : List Byte :=
  let x := s.sec
  let pad (l : List Byte) := (l ++ List.replicate 32 0).take 32
  ascii "ATST" ++ bytesLe 1 2 ++ bytesLe (Config.revDigit + 256 * Config.revLetter) 2 ++ pad Config.deviceId ++ nonce ++ x.firmware ++ x.application ++
  bytesLe x.version 4 ++ bytesLe s.sys.facetNumber 1 ++ bytesLe x.facetSource 1 ++ bytesLe 0 2 ++ pad s.facet.digest ++ x.journalHash ++
  bytesLe (x.journalHead - 1) 4 ++ bytesLe x.coldStarts 4 ++ bytesLe s.lix.count.toNat 6 ++ bytesLe 0 2 ++ x.ownerKey

/-- The bound is raised before a leaf at or above it is used (R416). -/
def reserveLeaf (x : Sec) : Sec := if x.nextLeaf < x.bound then x else writeState { x with bound := x.nextLeaf + 64 }

/-- The part can sign: identity, a state record, leaves left (R403, R412, R419). -/
def canSign (x : Sec) : Bool := x.identity && x.stateOk && x.nextLeaf < 2 ^ 40

/-- ATTEST: signing starts, or the request fails (R419, R439). -/
def attestFrame (i : Iface) (l : List Byte) (s : State) : State :=
  let x := s.sec
  if s.sys.maskRom || !(canSign x) then sendReply s i 4 stSignature (frameRequest l) []
  else if x.signing.isSome || x.building then sendReply s i 4 stHeld (frameRequest l) []
  else
    let y := reserveLeaf x
    { s with sec := { y with signing := some { iface := i, request := BitVec.ofNat 32 (frameRequest l), report := reportBytes s (framePayload l),
                                               leaf := x.nextLeaf },
                             nextLeaf := x.nextLeaf + 1 } }

/-- The 3,604 bytes of a signature. -/
def signatureBytes (leaf : Nat) (report : List Byte) : List Byte := (Config.hssSign leaf report ++ List.replicate 3604 0).take 3604

/-- ATTEST_SIGNED: the report leaves with its signature; when the leaves of the tree run out the next one is built (R418, R419). -/
def execAttestSigned (s : State) : Host.Outcome State Fault Refusal :=
  let x := s.sec
  match x.signing with
  | none => .next s
  | some g =>
    let t := { s with sec := { x with signing := none, building := x.building || x.nextLeaf / treeLeaves ≠ x.bottom } }
    .next (if served t g.iface then sendReply t g.iface 4 stOk g.request.toNat (g.report ++ signatureBytes g.leaf g.report) else t)

/-- BOTTOM_TREE_BUILT: the new tree's cache and signed key are stored (R419). -/
def execBottomTreeBuilt (s : State) : Host.Outcome State Fault Refusal :=
  let x := s.sec
  if !x.building then .next s
  else
    let n := x.nextLeaf / treeLeaves
    .next { s with sec := writeState { x with building := false, bottom := n,
                                              nvs := wrBytes x.nvs (0x6000 + 16352) ((Config.bottomTreeCache n).take 16352) } }

/-! ### The rows -/

/-- READ (R464). -/
def execRead (i : Iface) (frame : List Byte) (s : State) : Host.Outcome State Fault Refusal := .next (acceptFrame s i 1 frame (readFrame i))

/-- WRITE (R464, R466). -/
def execWrite (i : Iface) (frame : List Byte) (s : State) : Host.Outcome State Fault Refusal := .next (acceptFrame s i 2 frame (writeFrame i))

/-- POST (R469). -/
def execPost (i : Iface) (frame : List Byte) (s : State) : Host.Outcome State Fault Refusal := .next (acceptFrame s i 3 frame (postFrame i))

/-- ATTEST (R439). -/
def execAttest (i : Iface) (frame : List Byte) (s : State) : Host.Outcome State Fault Refusal := .next (acceptFrame s i 4 frame (attestFrame i))

/-- STAGE (R469). -/
def execStage (i : Iface) (frame : List Byte) (s : State) : Host.Outcome State Fault Refusal := .next (acceptFrame s i 5 frame (stageFrame i))

/-- SPI_REPLY_READ: the oldest pending reply is shifted out (R470). -/
def execSpiReplyRead (s : State) : Host.Outcome State Fault Refusal :=
  if !(served s .spi) then .next s
  else match s.control.spi with
    | [] => .next s
    | b :: r => .next { s with control := { s.control with spi := r, sent := s.control.sent ++ [{ iface := .spi, bytes := b }] } }

/-! ### The end of an NVS command (R412, R437, R438, R484) -/

/-- The command is done with a status. -/
def endJob (s : State) (st : Nat) : State := { s with sec := { s.sec with job := none, result := st } }

/-- The shadow goes into its slot; a rewrite of the active facet's slot selects it again (R412, R435, R436). -/
def finishFacet (s : State) (j : NvsJob) : State :=
  let m := s.sec.nvs
  if rdBytes m 0x50000 65536 = rdBytes m (facetPlace j.index) 65536 then endJob s stOk
  else
    let t := copyShadow s j.index (ifaceCode j.iface)
    if t.sys.facetNumber ≠ j.index then endJob t stOk
    else if t.sys.nextFacet.isSome then endJob t stHeld
    else endJob (selectFacet t j.index (ifaceCode j.iface)) stOk

/-- A key hash is enrolled (R420). -/
def finishEnrol (s : State) (j : NvsJob) : State :=
  let a := keyPlace j.index
  let t := { s with sec := { s.sec with nvs := wrBytes s.sec.nvs a (j.data ++ [1]) } }
  endJob (journal t (ifaceCode j.iface) 3 a (digestWord (rdBytes s.sec.nvs a 32)) (digestWord j.data)) stOk

/-- A key slot is cleared (R420). -/
def finishRevoke (s : State) (j : NvsJob) : State :=
  let a := keyPlace j.index
  if !(keyPresent s j.index) then endJob s stOk
  else
    let t := { s with sec := { s.sec with nvs := clearRange s.sec.nvs a 33 } }
    endJob (journal t (ifaceCode j.iface) 4 a (digestWord (rdBytes s.sec.nvs a 32)) 0) stOk

/-- The boot record is written; one that would lower the minimum version is ignored (R409). -/
def finishBoot (s : State) (j : NvsJob) : State :=
  let old := bootBytes s.sec.nvs
  if j.data.drop 8 = old.drop 8 || field j.data 0x10 4 < field old 0x10 4 then endJob s stOk
  else
    let t := { s with sec := writeBoot s.sec j.data }
    endJob (journal t (ifaceCode j.iface) 5 0 (digestWord (sha256 old)) (digestWord (sha256 (bootBytes t.sec.nvs)))) stOk

/-- NVS_COMMAND_DONE. -/
def execNvsCommandDone (s : State) : Host.Outcome State Fault Refusal :=
  match s.sec.job with
  | none => .next s
  | some j =>
    match j.op with
    | 1 => .next (finishFacet s j)
    | 2 => .next (finishEnrol s j)
    | 3 => .next (finishRevoke s j)
    | _ => .next (finishBoot s j)

/-! ### Network ports (R57, R462) -/

/-- Network port p is served. -/
def netServed (s : State) (p : Nat) : Bool := p < 3 && served s (destIface p) && !s.sys.maskRom

/-- The boot record gives port p an address, so it runs no DHCP client (R413). -/
def fixedAddress (s : State) (p : Nat) : Bool := bootField s (0x1C + 12 * p) 4 ≠ 0

/-- ETHERNET_LINK_TRAINING: the link is up; RS-FEC on a 25GbE port alone. -/
def execEthernetLinkTraining (p : Nat) (rsFec : Bool) (s : State) : Host.Outcome State Fault Refusal :=
  let x := netPort s p
  .next (if netServed s p && !x.link then setNetPort s p { x with link := true, rsFec := rsFec && p ≠ 0 } else s)

/-- ETHERNET_LINK_DOWN: the port reports LINK_DOWN and trains again (R57, R402). -/
def execEthernetLinkDown (p : Nat) (s : State) : Host.Outcome State Fault Refusal :=
  let x := netPort s p
  .next (if netServed s p && x.link then chipEvent (setNetPort s p { x with link := false, rsFec := false }) stLinkDown (0xD0000 + 4 * p) else s)

/-- A frame of the port's own upkeep: it answers, takes the address a DHCP server leases, or discards what it does not support. -/
def upkeepFrame (s : State) (p : Nat) (f : NetFrame) : State :=
  let answer := { s with control := { s.control with upkeep := s.control.upkeep ++ [(p, f)] } }
  match f with
  | .arpRequest | .icmpEcho | .neighbourSolicit => answer
  | .dhcpAck a => if fixedAddress s p then s else setNetPort s p { netPort s p with ipv4 := a, dhcp := true }
  | .unsupported => s

/-- ARP_ICMP_DHCP_FRAME. -/
def execArpIcmpDhcpFrame (p : Nat) (f : NetFrame) (s : State) : Host.Outcome State Fault Refusal :=
  .next (if netServed s p && (netPort s p).link then upkeepFrame s p f else s)

/-! ### The test port (R498) -/

/-- Cells of the boundary register: the 80 mux balls and the 36 other single-ended balls (R492, R493). -/
def boundaryCells : Nat := 116

/-- IDCODE of the part (R498). -/
def jtagIdcode : Nat := (Config.revLetter - 0x41) * 2 ^ 28 + 0x1640 * 2 ^ 12 + 0x2B5 * 2 + 1

/-- The instruction that acts: EXTEST, CLAMP and HIGHZ are BYPASS while RESET_N is high. -/
def jtagActs (s : State) (op : JtagOp) : JtagOp :=
  match op with
  | .extest | .clamp | .highz => if s.sys.resetN then .bypass else op
  | _ => op

/-- JTAG_INSTRUCTION: SAMPLE/PRELOAD and EXTEST shift the boundary register; nothing else of the part changes. -/
def execJtagInstruction (op : JtagOp) (shift : List (Nat × Bool)) (s : State) : Host.Outcome State Fault Refusal :=
  let o := jtagActs s op
  let shifts := decide (o = .sample) || decide (o = .extest)
  let b := if shifts then (shift.filter fun e => e.1 < boundaryCells).foldl (fun t e => tset false t e.1 e.2) s.sys.boundary else s.sys.boundary
  .next { s with sys := { s.sys with jtag := o, boundary := b } }

end Sys2Proof.Machine
end

