-- ==== Sys2Proof/Machine/Matrix.lean ====
section
/-! DEFINITION. The matrix class: MMA, CONV, DWCONV, POOL (R144 to R146, R172 to R175, R220 to R229). -/

namespace Sys2Proof.Machine

open Sys2Proof

/-- The context's accumulator bank on the instance's engine (R200). -/
def bankOf (r : Run) : Bank := tget Bank.clear (ctxOf r.s r.slot).banks r.i.engine

def setBank (r : Run) (b : Bank) : Run :=
  { r with s := modCtx r.s r.slot fun x => { x with banks := tset Bank.clear x.banks r.i.engine b } }

/-! ### The bank's codewords (R200, R213) -/

/-- A bank entry as a read delivers it: lane `k` of a word. -/
def deliveredEntry (up : Table (BitVec 144)) (word k : Nat) (x : Int) : Int :=
  let p := tget 0 up word
  if p = 0 then x else signed 32 (lowBits 32 x ^^^ bits ((eccResidue p).toNat) (32 * k + 31) (32 * k))

/-- Tile entry and row sum as read. -/
def tileAt (b : Bank) (key : Nat) : Int := deliveredEntry b.up (key / 4) (key % 4) (tget 0 b.tile key)

def rowSumAt (b : Bank) (n : Nat) : Int := deliveredEntry b.up (1024 + n / 4) (n % 4) (tget 0 b.rows n)

/-- Words of the bank are stored as a read delivers them, with check bits afresh (R512). -/
def settleBank (b : Bank) (words : List Nat) : Bank :=
  words.foldl (fun b w =>
    if tget 0 b.up w = 0 then b
    else
      let lanes (t : Table Int) (first : Nat) (at_ : Nat → Int) : Table Int := (span first 4).foldl (fun t k => tset 0 t k (at_ k)) t
      { b with tile := if w < 1024 then lanes b.tile (4 * w) (tileAt b) else b.tile,
               rows := if w < 1024 then b.rows else lanes b.rows (4 * (w - 1024)) (rowSumAt b), up := tset 0 b.up w 0 }) b

/-- Words of the bank are read (R217, R218): an uncorrectable one tears the context down, a corrected one is counted with ES (R219). -/
def readingBank (r : Run) (words : List Nat) : Except Fail (Run × Bool) :=
  let up := (bankOf r).up
  match words.find? fun w => eccDecode (tget 0 up w) = .uncorrectable with
  | some w => failed { r with s := ctxWord r.s r.slot 1 w (r.i.engine / 4) (some r.i.engine) } stUncorrectable
  | none =>
    let n := (words.filter fun w => tget 0 up w ≠ 0).length
    .ok ({ r with s := countCorrected r.s 1 n }, n ≠ 0)

/-- output_shift48 (R173), and whether it saturated. -/
def outputShift48 (s sh : Int) : Int × Bool :=
  let a := satTo 48 s
  let b := shiftTz a sh
  (satTo 32 b, a ≠ s || satTo 32 b ≠ b)

/-- Add to a bank entry, saturating once (R172); `sh` is the shift of an int16 operand. Answers how many elements saturated. -/
def bankAdd (t : Table Int) (key : Nat) (clear : Bool) (s : Int) (sh : Option Int) : Table Int × Nat :=
  let (v, o) := match sh with
    | some k => outputShift48 s k
    | none => (s, false)
  let x := (if clear then 0 else tget 0 t key) + v
  (tset 0 t key (satTo 32 x), b2n (o || satTo 32 x ≠ x))

/-- Add to a row sum. -/
def rowAdd (t : Table Int) (key : Nat) (clear : Bool) (s : Int) : Table Int :=
  tset 0 t key (satTo 32 ((if clear then 0 else tget 0 t key) + s))

/-- The header a matrix instruction writes (R175). -/
def headerFor (wv av : View) (k kind : Nat) : Header :=
  { valid := true, zw := wv.zero, za := av.zero, ktot := k, bank := wv.bank, perChannel := wv.perChannel, scaled := wv.scaled, kind := kind,
    format := wv.format }

/-- A header's fields but Ktot, as R175 compares them. -/
def headerKey (h : Header) : Header := { h with ktot := 0, scaled := false }

/-- The header after a matrix instruction, or none where a field other than Ktot would change (R175). -/
def headerAfter (h n : Header) (clear : Bool) : Option Header :=
  if clear || !h.valid then some n
  else if headerKey h = headerKey n then some { h with ktot := h.ktot + n.ktot } else none

/-- Rows of a matrix result: for each output element (channel m, position n) its sum; row sums by position. -/
structure Product where
  cells : List (Nat × Nat × Int)
  rows : List (Nat × Int)

/-- Words of the bank that hold a product's cells and row sums, and those among them that the product covers in part. -/
def Product.words (p : Product) : List Nat :=
  (p.cells.map (fun (c : Nat × Nat × Int) => (64 * c.1 + c.2.1) / 4) ++ p.rows.map fun (x : Nat × Int) => 1024 + x.1 / 4).eraseDups

def Product.partWords (p : Product) : List Nat :=
  let keys := p.cells.map (fun (c : Nat × Nat × Int) => 64 * c.1 + c.2.1) ++ p.rows.map fun (x : Nat × Int) => 4096 + x.1
  p.words.filter fun w => !((span (4 * w) 4).all fun k => keys.contains k)

/-- Store a product into the bank. -/
def putProduct (r : Run) (p : Product) (clear : Bool) (wv : View) (h : Header) : Run :=
  let b := settleBank (bankOf r) p.words
  let sh (m : Nat) : Option Int := if wv.format = 2 then some (scaleOf r wv m).shift else none
  let (t, n) := p.cells.foldl (fun (a : Table Int × Nat) c =>
    let (t, o) := bankAdd a.1 (64 * c.1 + c.2.1) clear c.2.2 (sh c.1)
    (t, a.2 + o)) (b.tile, 0)
  let rows := p.rows.foldl (fun t x => rowAdd t x.1 clear x.2) b.rows
  let q := setBank r { b with tile := t, rows := rows, header := h }
  { q with i := { q.i with saturated := q.i.saturated + n } }

/-- Energy class of a matrix format, pJ per occupancy cycle (R130). -/
def matrixRate (f : Nat) : Nat := if f = 0 then 1000 else if f = 1 then 550 else 400

/-- Occupancy of a reduction of depth k (R146). -/
def depthTime (f k : Nat) : Nat := if f = 0 then ceilDiv k 2 else if f = 1 then k else 4 * k

/-- Count of MMA and CONV. -/
def depthCount (f k : Nat) : Nat := (if f = 2 then 4 * k else k) + 72

/-- Form checks shared by the three accumulating instructions (R144, R174): formats, channel dimension, zero points. -/
def matrixForm (r : Run) (wv av : View) (chdim : Nat) (depthwise : Bool) : Except Fail Unit := do
  need r (wv.format = av.format && wv.format < 3 && wv.chdim = chdim) stFault
  need r (!depthwise || wv.zero = 0) stFault
  need r (wv.format ≠ 2 || (wv.zero = 0 && av.zero = 0)) stFault
  need r (scaleFits wv) stLength

/-- The act of an accumulating instruction: reads its operands, writes the bank. -/
def matrixAct (r : Run) (wv av : View) (k kind : Nat) (clear : Bool) (occ count rate : Nat)
    (product : Run → Product) (more : Bool) (also : List (Nat × Nat × Nat)) : Except Fail Act := do
  let h ← match headerAfter (bankOf r).header (headerFor wv av k kind) clear with
    | some h => .ok h
    | none => failed r stFault
  let (r, c1) ← reading r wv
  let (r, c2) ← reading r av
  let (r, c3) ← if wv.format = 2 then readingScales r wv else .ok (r, false)
  let p := product r
  let (r, c4) ← readingBank r (if clear then p.partWords else p.words)
  .ok { r := putProduct r p clear wv h, status := corrected (c1 || c2 || c3 || c4 || more), queue := 2, occ := occ, count := count,
        pj := rate * occ, reads := foot wv ++ foot av ++ also ++ (if wv.format = 2 then footScale r wv else []), writes := footBank, digest := none, mark := none, size := k }

/-- The extents from dimension d upward are 1. -/
def flatFrom (v : View) (d : Nat) : Bool := (span d (5 - d)).all fun k => v.extent k = 1

/-! ### MMA (R144) -/

def mmaProduct (wv av : View) (r : Run) : Product :=
  let k := wv.extent 0
  let a (m j : Nat) : Int := ldElem r wv [j, m]
  let b (n j : Nat) : Int := ldElem r av [j, n]
  { cells := (span 0 (wv.extent 1)).flatMap fun m => (span 0 (av.extent 1)).map fun n =>
      (m, n, ((span 0 k).map fun j => a m j * b n j).foldl (· + ·) 0),
    rows := (span 0 (av.extent 1)).map fun n => (n, ((span 0 k).map (b n)).foldl (· + ·) 0) }

def mmaEffect (w : Insn) (r : Run) : Except Fail Act := do
  let wv ← check r (esView r false w.kindA w.a)
  let av ← check r (esView r false w.kindB w.b)
  matrixForm r wv av 1 false
  need r (flatFrom wv 2 && flatFrom av 2 && wv.extent 0 = av.extent 0) stFault
  need r (wv.extent 1 ≤ 64 && av.extent 1 ≤ 64) stLength
  let k := wv.extent 0
  let f := wv.format
  matrixAct r wv av k 0 (bit w.c.toNat 0) (depthTime f k) (depthCount f k) (matrixRate f) (mmaProduct wv av) false []

/-- MMA (R144). -/
def execMma (e : Nat) (w : Insn) (s : State) : Host.Outcome State Fault Refusal := .next (issue s e w 0 (mmaEffect w))

/-! ### The geometry block (R145) -/

structure Geometry where
  sy : Nat
  sx : Nat
  dy : Nat
  dx : Nat
  pt : Nat
  pl : Nat
  wout : Nat
  positions : Nat
  p0 : Nat
  kh : Nat
  kw : Nat
  average : Bool
  clear : Bool
  grouped : Bool
  cg : Nat
deriving Repr

def parseGeometry (l : List Byte) : Geometry :=
  let f := field l 0x16 1
  { sy := field l 0 2, sx := field l 2 2, dy := field l 4 2, dx := field l 6 2, pt := field l 8 2, pl := field l 10 2,
    wout := field l 12 2, positions := field l 14 2, p0 := field l 16 4, kh := field l 0x14 1, kw := field l 0x15 1,
    average := bit f 0, clear := bit f 1, grouped := bit f 2, cg := field l 0x18 2 }

/-- The geometry block at a store offset, read and ranged, for an instruction of a count that the block may decide. The window of
taps is checked for POOL alone, the one that uses it (log 102). -/
def geometryAt (r : Run) (w : Insn) (pool : Bool) (count : Geometry → Nat) : Except Fail (Geometry × Run × Bool) := do
  let v := bytesView w.c 32
  need r (w.kindC = .store && v.space < 3) stFault
  check r (checkView r false v)
  let g := parseGeometry (ldBytes r v.space (v.bit0.toNat / 8) 32)
  check r (checkArrival r v.space (count g) v.addrs)
  let (r, c) ← reading r v
  need r (1 ≤ g.wout && 1 ≤ g.positions && g.positions ≤ 64) stLength
  need r (!pool || (1 ≤ g.kh && g.kh ≤ 16 && 1 ≤ g.kw && g.kw ≤ 16)) stLength
  .ok (g, r, c)

/-- Input coordinates (x, y) of a tap of position j (R145). -/
def tapAt (g : Geometry) (j ky kx : Nat) : Int × Int :=
  let p := g.p0 + j
  let oy := p / g.wout
  let ox := p % g.wout
  ((ox * g.sx + kx * g.dx : Int) - g.pl, (oy * g.sy + ky * g.dy : Int) - g.pt)

/-- A tap lies in the input. -/
def tapInside (v : View) (t : Int × Int) : Bool := 0 ≤ t.1 && t.1 < v.extent 0 && 0 ≤ t.2 && t.2 < v.extent 1

/-- A tap's code; a padding tap reads the zero point. -/
def tapValue (r : Run) (v : View) (g : Geometry) (j ky kx c : Nat) : Int :=
  let t := tapAt g j ky kx
  if tapInside v t then ldElem r v [t.1.toNat, t.2.toNat, c] else v.zero

/-- Sum over the taps of a kernel, kx fastest. -/
def tapSum (kh kw : Nat) (f : Nat → Nat → Int) : Int :=
  ((span 0 kh).map fun ky => ((span 0 kw).map fun kx => f ky kx).foldl (· + ·) 0).foldl (· + ·) 0

/-! ### CONV (R146, R221) -/

def convProduct (g : Geometry) (av wv : View) (r : Run) : Product :=
  let kw := wv.extent 0
  let kh := wv.extent 1
  let cin := wv.extent 2
  let overAll (f : Nat → Nat → Nat → Int) : Int := ((span 0 cin).map fun c => tapSum kh kw (f c)).foldl (· + ·) 0
  { cells := (span 0 (wv.extent 3)).flatMap fun co => (span 0 g.positions).map fun j =>
      (co, j, overAll fun c ky kx => tapValue r av g j ky kx c * ldElem r wv [kx, ky, c, co]),
    rows := (span 0 g.positions).map fun j => (j, overAll fun c ky kx => tapValue r av g j ky kx c) }

def convEffect (w : Insn) (r : Run) : Except Fail Act := do
  let av ← check r (esView r false w.kindA w.a)
  let wv ← check r (esView r false w.kindB w.b)
  let k := wv.extent 2 * wv.extent 1 * wv.extent 0
  let f := wv.format
  let (g, r, c) ← geometryAt r w false fun _ => depthCount f k
  matrixForm r wv av 3 false
  need r (flatFrom av 3 && flatFrom wv 4 && wv.extent 2 = av.extent 2) stFault
  need r (wv.extent 3 ≤ 64) stLength
  matrixAct r wv av k 0 g.clear (depthTime f k) (depthCount f k) (matrixRate f) (convProduct g av wv) c (foot (bytesView w.c 32))

/-- CONV (R146). -/
def execConv (e : Nat) (w : Insn) (s : State) : Host.Outcome State Fault Refusal := .next (issue s e w 0 (convEffect w))

/-! ### DWCONV (R146, R224, R225) -/

def dwconvProduct (g : Geometry) (av wv : View) (r : Run) : Product :=
  let kw := wv.extent 0
  let kh := wv.extent 1
  let cout := if g.grouped then wv.extent 3 else wv.extent 2
  let cell (co j : Nat) : Int :=
    if g.grouped then
      let first := co * (av.extent 2 / g.cg) / cout * g.cg
      ((span 0 g.cg).map fun c => tapSum kh kw fun ky kx =>
        tapValue r av g j ky kx (first + c) * ldElem r wv [kx, ky, c, co]).foldl (· + ·) 0
    else tapSum kh kw fun ky kx => tapValue r av g j ky kx co * ldElem r wv [kx, ky, co]
  { cells := (span 0 cout).flatMap fun co => (span 0 g.positions).map fun j => (co, j, cell co j), rows := [] }

/-- The grouped form's operands (R225). -/
def groupsOk (g : Geometry) (av wv : View) : Bool :=
  let cin := av.extent 2
  if g.grouped then
    g.cg ≠ 0 && wv.extent 2 = g.cg && cin % g.cg = 0 && cin ≠ 0 && wv.extent 3 % (cin / g.cg) = 0 && flatFrom wv 4
  else wv.extent 2 = cin && flatFrom wv 3

/-- Taps and occupancy of a DWCONV (R146). -/
def dwconvTaps (g : Geometry) (wv : View) : Nat := (if g.grouped then g.cg else 1) * wv.extent 1 * wv.extent 0

def dwconvTime (g : Geometry) (wv : View) : Nat :=
  (if wv.format = 2 then 4 else 1) * ceilDiv g.positions (64 / max 1 (dwconvTaps g wv))

def dwconvEffect (w : Insn) (r : Run) : Except Fail Act := do
  let av ← check r (esView r false w.kindA w.a)
  let wv ← check r (esView r false w.kindB w.b)
  let (g, r, c) ← geometryAt r w false fun g => dwconvTime g wv + 72
  matrixForm r wv av (if g.grouped then 3 else 2) true
  need r (flatFrom av 3 && groupsOk g av wv) stFault
  need r ((if g.grouped then wv.extent 3 else wv.extent 2) ≤ 64) stLength
  let taps := dwconvTaps g wv
  need r (taps ≤ 64) stLength
  let occ := dwconvTime g wv
  matrixAct r wv av taps 1 g.clear occ (occ + 72) (if wv.format = 2 then 400 else 550) (dwconvProduct g av wv) c
    (foot (bytesView w.c 32))

/-- DWCONV (R146). -/
def execDwconv (e : Nat) (w : Insn) (s : State) : Host.Outcome State Fault Refusal := .next (issue s e w 0 (dwconvEffect w))

/-! ### POOL (R146, R229) -/

/-- The pooled value of position j, channel c. -/
def poolValue (r : Run) (v : View) (g : Geometry) (j c : Nat) : Int :=
  let taps := (span 0 g.kh).flatMap fun ky => (span 0 g.kw).filterMap fun kx =>
    let t := tapAt g j ky kx
    if tapInside v t then some (ldElem r v [t.1.toNat, t.2.toNat, c]) else none
  match taps with
  | [] => v.zero
  | x :: l => if g.average then ((x :: l).foldl (· + ·) 0).tdiv ((l.length + 1 : Nat) : Int) else l.foldl max x

/-- Output index of position j, channel c. -/
def poolIndex (g : Geometry) (j c : Nat) : List Nat := [(g.p0 + j) % g.wout, (g.p0 + j) / g.wout, c]

/-- Occupancy of a POOL (R146). -/
def poolTime (p t : Nat) : Nat := if t ≤ 64 then ceilDiv p (64 / max 1 t) else p * ceilDiv t 64

def poolEffect (w : Insn) (r : Run) : Except Fail Act := do
  let d ← check r (esView r true w.kindA w.a)
  let v ← check r (esView r false w.kindB w.b)
  let (g, r, c1) ← geometryAt r w true fun g => poolTime g.positions (g.kh * g.kw) + 72
  need r (d.format = v.format && d.zero = v.zero && flatFrom v 3 && flatFrom d 3) stFault
  need r (v.extent 2 ≤ 64 && v.extent 2 ≤ d.extent 2) stLength
  let outs := (span 0 g.positions).flatMap fun j => (span 0 (v.extent 2)).map fun c => (j, c)
  need r ((span 0 g.positions).all fun j => (g.p0 + j) % g.wout < d.extent 0 && (g.p0 + j) / g.wout < d.extent 1) stLength
  let (r, c2) ← reading r v
  let (r, c3) ← writing r d (outs.map fun o => poolIndex g o.1 o.2)
  let q := stElems r d (outs.map fun o => (poolIndex g o.1 o.2, poolValue r v g o.1 o.2))
  let occ := poolTime g.positions (g.kh * g.kw)
  .ok { r := q, status := corrected (c1 || c2 || c3), queue := 2, occ := occ, count := occ + 72, pj := 550 * occ,
        reads := foot v ++ foot (bytesView w.c 32), writes := foot d, digest := none, mark := some (viewDigest q d), size := g.kh * g.kw }

/-- POOL (R146, R229). -/
def execPool (e : Nat) (w : Insn) (s : State) : Host.Outcome State Fault Refusal := .next (issue s e w 0 (poolEffect w))

end Sys2Proof.Machine
end

