-- ==== Sys2Proof/Machine/Vector.lean ====
section
/-! DEFINITION. The vector class: VADD, VMUL, VSHIFT, VMAX, VSUM, VEXP2, VRCP, VRSQRT, VSOFTMAX, VNORM, VROPE (R147 to R152). -/

namespace Sys2Proof.Machine

open Sys2Proof

/-- An operand of a two-source instruction: a view, or one value for every element. -/
inductive Source where
  | view (v : View)
  | all (x : Int)

/-- The source in a slot (R147): a descriptor with the destination's extents, an immediate or a scalar. -/
def sourceOf (r : Run) (d : View) (k : Kind) (w : Word) : Except Fail Source :=
  match k with
  | .descriptor => do
    let v ← check r (esView r false k w)
    need r (v.ext = d.ext) stFault
    .ok (.view v)
  | .store => failed r stFault
  | k => .ok (.all (slotValue r.i k w).toInt)

/-- Read a source's words. -/
def readSource (r : Run) (x : Source) : Except Fail (Run × Bool) :=
  match x with
  | .view v => reading r v
  | .all _ => .ok (r, false)

def sourceAt (r : Run) (x : Source) (t : List Nat) : Int :=
  match x with
  | .view v => ldElem r v t
  | .all y => y

def sourceFoot : Source → List (Nat × Nat × Nat)
  | .view v => foot v
  | .all _ => []

/-- The act of a vector instruction that has written its destination. -/
def vectorAct (q : Run) (d : View) (c : Bool) (occ count rate : Nat) (reads : List (Nat × Nat × Nat)) (size : Nat) : Act :=
  { r := q, status := corrected c, queue := 3, occ := occ, count := count, pj := rate * occ, reads := reads, writes := foot d,
    digest := none, mark := some (viewDigest q d), size := size }

/-- VADD, VMUL, VSHIFT and VMAX on views or on scalars (R147, R148). -/
def binaryEffect (f : Int → Int → Int) (w : Insn) (r : Run) : Except Fail Act :=
  if w.kindA = .scalar then do
    need r (w.kindB ≠ .descriptor && w.kindB ≠ .store && w.kindC ≠ .descriptor && w.kindC ≠ .store) stFault
    let x := satTo 32 (f (slotValue r.i w.kindB w.b).toInt (slotValue r.i w.kindC w.c).toInt)
    .ok { r := { r with i := setReg r.i (slotReg w.a) (BitVec.ofInt 32 x) }, status := stOk, queue := 3, occ := 1, count := 1,
          pj := 60, reads := [], writes := footReg (slotReg w.a), digest := none, mark := none, size := 1 }
  else do
    let d ← check r (esView r true w.kindA w.a)
    let b ← sourceOf r d w.kindB w.b
    let c ← sourceOf r d w.kindC w.c
    let (r, e1) ← readSource r b
    let (r, e2) ← readSource r c
    let (r, e3) ← writing r d d.tuples
    let q := stElems r d (d.tuples.map fun t => (t, satFmt d.format (f (sourceAt r b t) (sourceAt r c t))))
    let n := lanesOf d.count
    .ok (vectorAct q d (e1 || e2 || e3) n (n + 3) 60 (sourceFoot b ++ sourceFoot c) d.count)

/-- VSHIFT's element (R147): b is clamped to -63 .. 63. -/
def shiftElem (a b : Int) : Int := shiftTz a (clamp (-63) 63 b)

/-- VADD (R147). -/
def execVadd (e : Nat) (w : Insn) (s : State) : Host.Outcome State Fault Refusal := .next (issue s e w 6 (binaryEffect (· + ·) w))

/-- VMUL (R147). -/
def execVmul (e : Nat) (w : Insn) (s : State) : Host.Outcome State Fault Refusal := .next (issue s e w 6 (binaryEffect (· * ·) w))

/-- VSHIFT (R147). -/
def execVshift (e : Nat) (w : Insn) (s : State) : Host.Outcome State Fault Refusal := .next (issue s e w 6 (binaryEffect shiftElem w))

/-- VMAX (R147). -/
def execVmax (e : Nat) (w : Insn) (s : State) : Host.Outcome State Fault Refusal := .next (issue s e w 6 (binaryEffect max w))

/-- VSUM (R147): along dimension 0. -/
def vsumEffect (w : Insn) (r : Run) : Except Fail Act := do
  let d ← check r (esView r true w.kindA w.a)
  let v ← check r (esView r false w.kindB w.b)
  need r (d.ext = v.ext.set 0 1) stFault
  let (r, c1) ← reading r v
  let (r, c2) ← writing r d d.tuples
  let c := c1 || c2
  let row (t : List Nat) : Int := ((span 0 (v.extent 0)).map fun k => ldElem r v (t.set 0 k)).foldl (· + ·) 0
  let q := stElems r d (d.tuples.map fun t => (t, satFmt d.format (row t)))
  let n := lanesOf v.count
  .ok (vectorAct q d c n (n + 9) 60 (foot v) v.count)

/-- VSUM (R147). -/
def execVsum (e : Nat) (w : Insn) (s : State) : Host.Outcome State Fault Refusal := .next (issue s e w 0 (vsumEffect w))

/-- The unary functions of R149 on Q16.16. -/
def unaryEffect (f : Int → Int) (w : Insn) (r : Run) : Except Fail Act := do
  let d ← check r (esView r true w.kindA w.a)
  let v ← check r (esView r false w.kindB w.b)
  need r (v.format = 3 && v.ext = d.ext) stFault
  let (r, c1) ← reading r v
  let (r, c2) ← writing r d d.tuples
  let q := stElems r d (d.tuples.map fun t => (t, satFmt d.format (f (ldElem r v t))))
  let n := lanesOf d.count
  .ok (vectorAct q d (c1 || c2) n (n + 11) 90 (foot v) d.count)

/-- VEXP2 (R149). -/
def execVexp2 (e : Nat) (w : Insn) (s : State) : Host.Outcome State Fault Refusal := .next (issue s e w 0 (unaryEffect vexp2 w))

/-- VRCP (R149). -/
def execVrcp (e : Nat) (w : Insn) (s : State) : Host.Outcome State Fault Refusal := .next (issue s e w 0 (unaryEffect vrcp w))

/-- VRSQRT (R149). -/
def execVrsqrt (e : Nat) (w : Insn) (s : State) : Host.Outcome State Fault Refusal := .next (issue s e w 0 (unaryEffect vrsqrt w))

/-! ### Rows -/

/-- Rows of a view: the index tuples with dimension 0 at 0. -/
def View.rows (v : View) : List (List Nat) := Machine.tuples (v.ext.set 0 1)

/-- Number of rows: the product of the other extents. -/
def View.rowCount (v : View) : Nat := v.rows.length

/-- Elements of a row. -/
def rowElems (r : Run) (v : View) (t : List Nat) : List Int := (span 0 (v.extent 0)).map fun k => ldElem r v (t.set 0 k)

/-- Write a row. -/
def rowPut (t : List Nat) (xs : List Int) : List (List Nat × Int) := xs.zipIdx.map fun p => (t.set 0 p.2, p.1)

/-- A row under VSOFTMAX (R150). -/
def softmaxRow (q : Nat) (xs : List Int) : List Int :=
  match xs with
  | [] => []
  | x :: l =>
    let mx := l.foldl max x
    let e := xs.map fun y => vexp2 (y - mx)
    let s := e.foldl (· + ·) 0
    e.map fun y => (y * 2 ^ q).tdiv s

/-- VSOFTMAX. A q above 16 fails with LENGTH_EXCEEDS (log 104). -/
def softmaxEffect (w : Insn) (r : Run) : Except Fail Act := do
  let d ← check r (esView r true w.kindA w.a)
  let v ← check r (esView r false w.kindB w.b)
  need r (v.format = 3 && v.ext = d.ext) stFault
  need r (v.extent 0 ≤ 32767 && w.c.toNat ≤ 16) stLength
  let (r, c1) ← reading r v
  let (r, c2) ← writing r d d.tuples
  let q := stElems r d (d.rows.flatMap fun t => rowPut t ((softmaxRow w.c.toNat (rowElems r v t)).map (satFmt d.format)))
  let n := 3 * v.rowCount * ceilDiv (v.extent 0) 64
  .ok (vectorAct q d (c1 || c2) n (n + 36) 90 (foot v) d.count)

/-- VSOFTMAX (R150). -/
def execVsoftmax (e : Nat) (w : Insn) (s : State) : Host.Outcome State Fault Refusal := .next (issue s e w 0 (softmaxEffect w))

/-- A row under VNORM (R151). -/
def normRow (layer : Bool) (sh : Nat) (eps : Nat) (xs gain : List Int) : List Int :=
  let m : Int := xs.length
  let mean := if layer then (xs.foldl (· + ·) 0).tdiv m else 0
  let x := xs.map fun y => y - mean
  let ms : Int := ((x.map fun y => y * y).foldl (· + ·) 0).tdiv m + eps
  let rs := vrsqrt ms
  List.zipWith (fun y g => (y * g * rs).tdiv (2 ^ sh)) x gain

/-- A descriptor that a block names by index: its words are read, and an index past the table of 1,024 fails with LENGTH_EXCEEDS
(log 104). -/
def namedView (r : Run) (write : Bool) (k : Nat) : Except Fail (View × Run × Bool) := do
  need r (k < 1024) stLength
  let (r, c) ← scanning r 2 (span ((moduleOf r.s r.slot).descKib * 1024 + 64 * k) 64)
  let v ← check r (viewAt r write k 0)
  .ok (v, r, c)

/-- VNORM. A shift above 63 fails with LENGTH_EXCEEDS (log 104). -/
def normEffect (w : Insn) (r : Run) : Except Fail Act := do
  let d ← check r (esView r true w.kindA w.a)
  let v ← check r (esView r false w.kindB w.b)
  need r (v.ext = d.ext) stFault
  let b := bytesView w.c 16
  need r (w.kindC = .store && b.space < 3) stFault
  check r (checkView r false b)
  let l := ldBytes r b.space (b.bit0.toNat / 8) 16
  let layer := bit (field l 2 1) 0
  let n := (if layer then 3 else 2) * v.rowCount * ceilDiv (v.extent 0) 64
  let count := n + if layer then 42 else 30
  check r (checkArrival r b.space count b.addrs)
  let (r, c1) ← reading r b
  let sh := field l 3 1
  need r (sh ≤ 63) stLength
  let (g, r, c4) ← namedView r false (field l 0 2)
  need r (g.space = 0 && g.ext = [v.extent 0, 1, 1, 1, 1]) stFault
  let (r, c2) ← reading r v
  let (r, c3) ← reading r g
  let (r, c5) ← writing r d d.tuples
  let gain := ldView r g
  let q := stElems r d (d.rows.flatMap fun t =>
    rowPut t ((normRow layer sh (field l 4 4) (rowElems r v t) gain).map (satFmt d.format)))
  .ok (vectorAct q d (c1 || c2 || c3 || c4 || c5) n count 90
    (foot v ++ foot g ++ foot b ++ footDesc r (field l 0 2)) d.count)

/-- VNORM (R151). -/
def execVnorm (e : Nat) (w : Insn) (s : State) : Host.Outcome State Fault Refusal := .next (issue s e w 0 (normEffect w))

/-! ### VROPE (R152) -/

/-- The rotation of R152 before any saturation: pair k is elements 2k and 2k + 1 (log 13), with its (cos, sin). -/
def ropeRow (table : Nat → Int × Int) (xs : List Int) : List Int :=
  (span 0 (xs.length / 2)).flatMap fun k =>
    let (c, s) := table k
    let a := nth xs (2 * k) 0
    let b := nth xs (2 * k + 1) 0
    [(a * c - b * s).tdiv 16384, (a * s + b * c).tdiv 16384]

/-- Cos and sin of pair k of position p: int16 Q1.14 at byte 4 * (p * d / 2 + k) of a table in XS. -/
def ropeEntry (r : Run) (base d p k : Nat) : Int × Int :=
  let a := base + 4 * (p * (d / 2) + k)
  (signed 16 (ldLe r 2 a 2), signed 16 (ldLe r 2 (a + 2) 2))

/-- Bytes of the rotary table's entries of positions. -/
def ropeAddrs (base d : Nat) (ps : List Nat) : List Nat := ps.eraseDups.flatMap fun p => span (base + 2 * d * p) (2 * d)

/-- The rotary table's entries of positions, checked and read. -/
def ropeTable (r : Run) (base d positions : Nat) (ps : List Nat) : Except Fail (Run × Bool) := do
  need r (ps.all fun p => p < positions) stLength
  match ps with
  | [] => .ok (r, false)
  | _ => do
    let hi := ps.foldl max 0
    check r (checkSpan r false 2 base (base + 2 * d * (hi + 1) - 1))
    readingBytes r 2 (ropeAddrs base d ps)

def ropeEffect (w : Insn) (r : Run) : Except Fail Act := do
  let d ← check r (esView r true w.kindA w.a)
  let v ← check r (esView r false w.kindB w.b)
  let m := v.extent 0
  need r (v.ext = d.ext && m % 2 = 0 && 16 ≤ m && m ≤ 256) stFault
  let b := bytesView w.c 16
  need r (w.kindC = .store && b.space < 3) stFault
  check r (checkView r false b)
  let k := ceilDiv d.count 16
  check r (checkArrival r b.space (k + 40) b.addrs)
  let (r, c1) ← reading r b
  let l := ldBytes r b.space (b.bit0.toNat / 8) 16
  let n := v.rowCount
  let (r, ps, c2, fp) ← if bit (field l 0xA 1) 0 then do
      let (p, r, c0) ← namedView r false (field l 8 2)
      need r (p.space = 0) stFault
      let (r, c) ← reading r p
      let xs := ldView r p
      need r (n ≤ xs.length && (xs.take n).all fun x => 0 ≤ x) stLength
      .ok (r, (xs.take n).map Int.toNat, c0 || c, foot p ++ footDesc r (field l 8 2))
    else .ok (r, (span (field l 4 4) n), false, [])
  let base := 16 * field l 0 4
  let (r, c3) ← ropeTable r base m (field l 0xB 4) ps
  check r (checkArrival r 2 (k + 40) (ropeAddrs base m ps))
  let (r, c4) ← reading r v
  let (r, c5) ← writing r d d.tuples
  let q := stElems r d ((List.zip d.rows ps).flatMap fun tp =>
    rowPut tp.1 ((ropeRow (ropeEntry r base m tp.2) (rowElems r v tp.1)).map (satFmt d.format)))
  .ok (vectorAct q d (c1 || c2 || c3 || c4 || c5) k (k + 40) 90 (foot v ++ foot b ++ fp ++ [(2, base, base + 2 * m * field l 0xB 4)]) d.count)

/-- VROPE (R152). -/
def execVrope (e : Nat) (w : Insn) (s : State) : Host.Outcome State Fault Refusal := .next (issue s e w 0 (ropeEffect w))

end Sys2Proof.Machine
end

