-- ==== Sys2Proof/Machine/KeyValue.lean ====
section
/-! DEFINITION. The key-value class: KVAPPEND, KVATTN, KVEVICT, KVDROP, and the pools behind them (chapter 09). -/

namespace Sys2Proof.Machine

open Sys2Proof

/-! ### Records -/

/-- Check, scan and mark a run of bytes as read. -/
def readSpan (r : Run) (sp a n : Nat) : Except Fail (Run × Bool) := do
  if n = 0 then .ok (r, false)
  else do
    check r (checkSpan r false sp a (a + n - 1))
    readingBytes r sp (span a n)

/-- Stage the bytes of a record that change (R261). -/
def stageDiff (r : Run) (sp a : Nat) (l : List Byte) : Run :=
  l.zipIdx.foldl (fun q e => if ldByte q sp (a + e.2) = e.1 then q else stageAt q sp (a + e.2) [e.1]) r

/-- A pool record (R236). -/
structure Pool where
  base : Nat
  d : Nat
  frames : Nat
  free : Nat
  waiting : Nat
  data : Nat
  table : Nat
deriving Repr

/-- A sequence record (R239). -/
structure Seq where
  base : Nat
  num : Nat
  state : Nat
  evict : Bool
  recomputable : Bool
  nonCausal : Bool
  save : Bool
  select : Nat
  refValid : Bool
  pool : Nat
  len : Nat
  valid : Nat
  pages : Nat
  score : Nat → Nat
  p0 : Nat
  mu : Nat
  sigma : Int
  ev0 : Int
  omega : Nat
  delta : Nat
  hq : Nat
  mref : Int
  lref : Int
  rope : Nat
  ropeLen : Nat
  stats : Nat
  log : Nat
  logCap : Nat
  logN : Nat

/-- Read a pool record, ranged (R236). -/
def poolAt (r : Run) (a : Nat) : Except Fail (Pool × Run × Bool) := do
  let (r, c) ← readSpan r 2 a 2880
  let f (o n : Nat) : Nat := ldLe r 2 (a + o) n
  let p : Pool := { base := a, d := f 0 2, frames := f 2 2, free := f 4 2, waiting := f 6 2, data := f 8 8, table := f 0x10 8 }
  need r (16 ≤ p.d && p.d ≤ 256 && p.d % 16 = 0 && 1 ≤ p.frames && p.frames ≤ 4096 && p.waiting ≤ 256 && p.data % 2048 = 0 &&
    p.table % 16 = 0) stLength
  need r ((span 0x18 40).all fun o => ldByte r 2 (a + o) = 0) stFault
  check r (checkSpan r false 3 p.table (p.table + 8 * p.frames - 1))
  check r (checkSpan r false 3 p.data (p.data + 128 * p.d * p.frames - 1))
  .ok (p, r, c)

/-- Read a sequence record, ranged (R239). -/
def seqAt (r : Run) (a : Nat) : Except Fail (Seq × Run × Bool) := do
  let (r, c) ← readSpan r 2 a 96
  let f (o n : Nat) : Nat := ldLe r 2 (a + o) n
  let st := f 2 1
  let x : Seq :=
    { base := a, num := f 1 1, state := st % 4, evict := bit st 2, recomputable := bit st 3, nonCausal := bit st 4,
      save := bit st 5, select := st / 128, refValid := bit (f 3 1) 0, pool := 16 * f 4 4, len := f 8 4, valid := f 0xC 4,
      pages := 16 * f 0x10 4, score := fun k => 16 * f (0x14 + 4 * k) 4, p0 := f 0x1C 4, mu := f 0x20 2,
      sigma := signed 8 (f 0x22 1), ev0 := signed 8 (f 0x23 1), omega := f 0x24 1, delta := f 0x25 1, hq := f 0x26 1,
      mref := signed 32 (f 0x28 4), lref := signed 32 (f 0x2C 4), rope := 16 * f 0x30 4, ropeLen := f 0x34 4,
      stats := 16 * f 0x38 4, log := f 0x48 8, logCap := f 0x50 4, logN := f 0x54 4 }
  need r (f 0 1 = 0 && x.len ≤ 131072 && x.omega ≤ 31 && x.delta ≤ 15 && 1 ≤ x.hq && x.hq ≤ 64 && x.log % 32 = 0 &&
    1 ≤ x.logCap && x.logCap ≤ 2 ^ 20) stLength
  need r (f 3 1 < 2 && f 0x27 1 = 0 && f 0x58 8 = 0) stFault
  .ok (x, r, c)

/-- Logical pages of a sequence. -/
def Seq.pageCount (x : Seq) : Nat := ceilDiv x.len 64

/-- The pool registers the record under its own number (R241). -/
def registered (r : Run) (p : Pool) (x : Seq) : Bool :=
  let a := p.base + 0x340 + 8 * x.num
  ldLe r 2 a 4 = x.base / 16 && ldLe r 2 (a + 4) 4 = 1

/-- A page-list entry (R240). -/
structure Page where
  frame : Nat
  holds : Bool
  expSet : Bool
  ek : Int
  ev : Int
  mask : Nat
deriving Repr

def pageAt (r : Run) (x : Seq) (j : Nat) : Page :=
  let a := x.pages + 16 * j
  let w := ldLe r 2 a 4
  { frame := w % 4096, holds := bit w 12, expSet := bit w 13, ek := signed 8 (ldLe r 2 (a + 4) 1),
    ev := signed 8 (ldLe r 2 (a + 5) 1), mask := ldLe r 2 (a + 8) 8 }

def putPage (r : Run) (x : Seq) (j : Nat) (p : Page) : Run :=
  stageDiff r 2 (x.pages + 16 * j) (bytesLe (p.frame + 4096 * b2n p.holds + 8192 * b2n p.expSet) 4 ++
    bytesLe (lowBits 8 p.ek) 1 ++ bytesLe (lowBits 8 p.ev) 1 ++ bytesLe 0 2 ++ bytesLe p.mask 8)

/-- An entry that holds a frame names one the sequence holds for this page (R241). -/
def pageOk (r : Run) (p : Pool) (x : Seq) (j : Nat) : Bool :=
  let e := pageAt r x j
  !e.holds || (e.frame < p.frames &&
    (let t := ldLe r 3 (p.table + 8 * e.frame) 8
     t % 256 = x.num && bit t 8 && bits t 26 16 = j))

/-- The sequence, its pool and its pages, checked before anything moves (R241). -/
def openSeq (r : Run) (a d : Nat) : Except Fail (Seq × Pool × Run × Bool) := do
  let (x, r, c1) ← seqAt r a
  let (p, r, c2) ← poolAt r x.pool
  need r (registered r p x && p.d = d) stFault
  let (r, c3) ← readSpan r 2 x.pages (16 * x.pageCount)
  let held := (span 0 x.pageCount).filter fun j => (pageAt r x j).holds
  need r (held.all fun j => (pageAt r x j).frame < p.frames) stFault
  let (r, c4) ← readingBytes r 3 (held.flatMap fun j => span (p.table + 8 * (pageAt r x j).frame) 8)
  need r ((span 0 x.pageCount).all (pageOk r p x)) stFault
  .ok (x, p, r, c1 || c2 || c3 || c4)

/-- Fields of the pool that move. -/
def putPool (r : Run) (p : Pool) : Run := stageDiff r 2 (p.base + 4) (bytesLe p.free 2 ++ bytesLe p.waiting 2)

/-- A frame is free when its bit of the free map is set and its entry is not held (R238). -/
def frameFree (r : Run) (p : Pool) (f : Nat) : Bool :=
  bit (ldLe r 2 (p.base + 0x40 + f / 8) 1) (f % 8) && !bit (ldLe r 3 (p.table + 8 * f) 8) 8

def putFree (r : Run) (p : Pool) (f : Nat) (b : Bool) : Run :=
  let a := p.base + 0x40 + f / 8
  let o := ldLe r 2 a 1
  let m := 2 ^ (f % 8)
  stageDiff r 2 a [BitVec.ofNat 8 (if bit o (f % 8) then (if b then o else o - m) else (if b then o + m else o))]

/-- The waiter queue, oldest first. -/
def waiters (r : Run) (p : Pool) : List Nat := (ldBytes r 2 (p.base + 0x240) p.waiting).map BitVec.toNat

/-- Remove a sequence from the queue. -/
def unqueue (r : Run) (p : Pool) (num : Nat) : Run × Pool :=
  let l := (waiters r p).filter fun n => n ≠ num
  let q := { p with waiting := l.length }
  (putPool (stageDiff r 2 (p.base + 0x240) (l.map (BitVec.ofNat 8))) q, q)

/-- The lowest free frame. -/
def lowestFree (r : Run) (p : Pool) : Option Nat := (span 0 p.frames).find? (frameFree r p)

/-- Take a frame for a logical page. -/
def takeFrame (r : Run) (p : Pool) (x : Seq) (j f : Nat) : Run × Pool :=
  let q := { p with free := p.free - 1 }
  let r := putFree r p f false
  let r := stageDiff r 3 (p.table + 8 * f) (bytesLe (x.num + 256 + 65536 * j) 8)
  (putPool (putPage r x j { frame := f, holds := true, expSet := false, ek := 0, ev := 0, mask := 0 }) q, q)

/-- Release a page's frame (R256). -/
def releaseFrame (r : Run) (p : Pool) (x : Seq) (j : Nat) : Run × Pool :=
  let e := pageAt r x j
  let q := { p with free := p.free + 1 }
  let t := ldLe r 3 (p.table + 8 * e.frame) 8
  let r := stageDiff r 3 (p.table + 8 * e.frame) (bytesLe (if bit t 8 then t - 256 else t) 8)
  let r := putFree r p e.frame true
  (putPool (putPage r x j { e with holds := false, expSet := false }) q, q)

/-- Score of a position in the table the select bit names. -/
def scoreOf (r : Run) (x : Seq) (pos : Nat) : Nat := ldLe r 2 (x.score x.select + 2 * pos) 2

/-- Live positions at or above z. -/
def liveFrom (r : Run) (x : Seq) (z : Nat) : List Nat :=
  (span 0 x.pageCount).flatMap fun j =>
    let m := (pageAt r x j).mask
    ((span 0 64).filter fun t => bit m t && z ≤ 64 * j + t).map fun t => 64 * j + t

/-- The position of lowest score, ties to the lower. -/
def lowest (score : Nat → Nat) : List Nat → Option Nat
  | [] => none
  | a :: l => some (l.foldl (fun b c => if score c < score b then c else b) a)

/-- Evict one position: mask, valid count, log record, and the frame when the page is empty (R254, R255). -/
def evictOne (r : Run) (p : Pool) (x : Seq) (pos cause : Nat) : Run × Pool × Seq :=
  let j := pos / 64
  let e := pageAt r x j
  let sc := scoreOf r x pos
  let y := { x with valid := x.valid - 1, logN := (x.logN + 1) % 2 ^ 32 }
  let q := putPage r x j { e with mask := e.mask - 2 ^ (pos % 64) }
  let q := stBytes q 3 (x.log + 32 * (x.logN % x.logCap))
    (bytesLe pos 4 ++ bytesLe sc 2 ++ bytesLe cause 1 ++ bytesLe 0 1 ++ bytesLe x.len 4 ++ bytesLe 0 4 ++
     bytesLe r.i.stepAtStart.toNat 8 ++ bytesLe x.logN 8)
  let q := stageDiff q 2 (x.base + 0xC) (bytesLe y.valid 4)
  let q := stageDiff q 2 (x.base + 0x54) (bytesLe y.logN 4)
  if e.mask = 2 ^ (pos % 64) && e.holds then
    let (q, p) := releaseFrame q p x j
    (q, p, y)
  else (q, p, y)

/-- Evict n positions of a list, lowest score first. -/
def evictLoop : Nat → Nat → Run × Pool × Seq → List Nat → Run × Pool × Seq
  | 0, _, a, _ => a
  | n + 1, cause, a, l =>
    match lowest (scoreOf a.1 a.2.2) l with
    | none => a
    | some pos => evictLoop n cause (evictOne a.1 a.2.1 a.2.2 pos cause) (l.filter fun q => q ≠ pos)

/-- Count of KVEVICT and of KVDROP (R156). -/
def evictCount (len e : Nat) : Nat := 60 + ceilDiv len 32 + 24 * e

def dropCount (pages : Nat) : Nat := 40 + 4 * pages

/-- Drop a sequence (R258, R260). -/
def dropSeq (r : Run) (p : Pool) (x : Seq) : Run × Pool :=
  let (r, p) := (span 0 x.pageCount).foldl (fun (a : Run × Pool) j =>
    if (pageAt a.1 x j).holds then releaseFrame a.1 a.2 x j else a) (r, p)
  let (r, p) := unqueue r p x.num
  let st := ldLe r 2 (x.base + 2) 1
  let r := stageDiff r 2 (x.base + 2) [BitVec.ofNat 8 (st / 4 * 4 + 3)]
  let r := stageDiff r 2 (x.base + 3) [0]
  let r := stageDiff r 2 (x.base + 0x3C) (bytesLe x.len 4)
  (stageDiff r 2 (x.base + 8) (bytesLe 0 8), p)

/-! ### KVAPPEND (R154, R244, R245, R257, R259) -/

/-- A key-value operand: int8, zero point 0, one scale, extents d and n (R242). -/
def kvOperand (r : Run) (v : View) : Except Fail Unit := do
  need r (v.format = 1 && v.zero = 0 && !v.perChannel && flatFrom v 2) stFault
  need r (scaleFits v) stLength

/-- The head dimension is a multiple of 16 from 16 to 256. -/
def headOk (d : Nat) : Bool := d % 16 = 0 && 16 ≤ d && d ≤ 256

/-- What taking frames has come to: the state, extra cycles, evicted positions, and sequences dropped. -/
structure Take where
  r : Run
  p : Pool
  x : Seq
  extra : Nat
  evicted : Nat
  drops : Nat

/-- Victim page of step 2 (R257). -/
def victimPage (r : Run) (x : Seq) (sinks : Nat) : Option Nat :=
  let js := (span (ceilDiv sinks 64) (x.pageCount - 1 - ceilDiv sinks 64)).filter fun j => (pageAt r x j).holds
  let sum (j : Nat) : Nat := (((span 0 64).filter fun t => bit (pageAt r x j).mask t).map fun t => scoreOf r x (64 * j + t)).foldl (· + ·) 0
  lowest sum js

/-- The first sequence of a pool's table, from the given numbers on, that step 3 may drop (R257): suspended or waiting, recomputable and
holding frames. Every entry and record that the search reads is held to R236, R239 and R241. -/
def dropVictim (p : Pool) (x : Seq) : List Nat → Run → Except Fail (Option Seq × Run)
  | [], r => .ok (none, r)
  | n :: l, r =>
    let a := p.base + 0x340 + 8 * n
    if n = x.num || ldLe r 2 (a + 4) 4 = 0 then dropVictim p x l r
    else do
      need r (ldLe r 2 (a + 4) 4 = 1) stFault
      let (y, r, _) ← seqAt r (16 * ldLe r 2 a 4)
      need r (y.num = n && y.pool = p.base) stFault
      if (y.state = 1 || y.state = 2) && y.recomputable then do
        let (y, _, r, _) ← openSeq r y.base p.d
        if (span 0 y.pageCount).any (fun j => (pageAt r y j).holds) then .ok (some y, r) else dropVictim p x l r
      else dropVictim p x l r

/-- The frame that step 1 takes, its frame-table words read (R238, R257). -/
def freeFrame (r : Run) (p : Pool) : Except Fail (Option Nat × Run) := do
  match lowestFree r p with
  | none => .ok (none, r)
  | some f => do
    let (r, _) ← readingBytes r 3 (span (p.table + 8 * f) 8)
    .ok (some f, r)

/-- Take one frame for logical page j, or none: KV_WAIT. A free count that the map does not bear out leaves step 1 no frame to take, and
the later steps follow (log 103). -/
def takeOne (sinks j : Nat) (alone : Bool) (k : Take) : Nat → Except Fail (Option Take)
  | 0 => .ok none
  | n + 1 => do
    let q := waiters k.r k.p
    let (f, r) ← if 0 < k.p.free && (alone || q = [] || q.head? = some k.x.num) then freeFrame k.r k.p else .ok (none, k.r)
    match f with
    | some f =>
      let (r, p) := takeFrame r k.p k.x j f
      .ok (some { k with r := r, p := p })
    | none => do
      let (r, _) ← if k.x.evict then readSpan r 2 (k.x.score k.x.select) (2 * k.x.len) else .ok (r, false)
      match (if k.x.evict then victimPage r k.x sinks else none) with
      | some v =>
        let frame := (pageAt r k.x v).frame
        let l := (liveFrom r k.x 0).filter fun t => t / 64 = v
        let (r, p, x) := evictLoop l.length 1 (r, k.p, k.x) l
        let (r, p) := if (pageAt r x v).holds then releaseFrame r p x v else (r, p)
        let (r, p) := takeFrame r p x j frame
        .ok (some { k with r := r, p := p, x := x, extra := k.extra + evictCount x.len l.length, evicted := k.evicted + l.length })
      | none => do
        let (y, r) ← dropVictim k.p k.x (span 0 256) r
        match y with
        | some y =>
          let (r, p) := dropSeq r k.p y
          takeOne sinks j true { k with r := r, p := p, extra := k.extra + dropCount y.pageCount, drops := k.drops + 1 } n
        | none => .ok none

/-- Take frames for pages from j on; answers how many were taken before it failed. -/
def takeAll (sinks : Nat) : Nat → Nat → Nat → Take → Except Fail (Take × Option Nat)
  | 0, _, _, k => .ok (k, none)
  | n + 1, j, done, k => do
    match ← takeOne sinks j false k 257 with
    | some k' => takeAll sinks n (j + 1) (done + 1) k'
    | none => .ok (k, some done)

/-- The one effect a KV_WAIT keeps (R259), on the state the instance does not stage: the sequence waits. -/
def markWaiting (r : Run) (x : Seq) : Run :=
  let c := r.slot
  let plain : Run := { r with i := { r.i with staged := [], stagedUp := [] } }
  let put (s : State) (a : Nat) (l : List Byte) : State := xsPut s c a l
  let st := ldLe plain 2 (x.base + 2) 1
  let n := ldLe plain 2 (x.pool + 6) 2
  let q := (ldBytes plain 2 (x.pool + 0x240) n).map BitVec.toNat
  let s := put r.s (x.base + 2) [BitVec.ofNat 8 (st / 4 * 4 + 2)]
  let s := if q.contains x.num then s
    else put (put s (x.pool + 0x240 + n) [BitVec.ofNat 8 x.num]) (x.pool + 6) (bytesLe (n + 1) 2)
  { r with s := s }

/-- Operand exponent (R242). -/
def exponentOf (r : Run) (v : View) : Int := if v.scaled then (entryAt r v.bank 0).shift else 0

/-- Row j of a rank-2 view. -/
def rowAt (r : Run) (v : View) (j : Nat) : List Int := (span 0 (v.extent 0)).map fun i => ldElem r v [i, j]

/-- Saturate a row to int8 after a shift; how many elements saturated. -/
def narrowRow (k : Int) (xs : List Int) : List Int × Nat :=
  let ys := xs.map fun x => shiftTz x k
  (ys.map (satTo 8), (ys.filter fun y => satTo 8 y ≠ y).length)

/-- Append position pos: keys, values, mask, exponents, scores (R244). -/
def appendOne (p : Pool) (x : Seq) (kv vv : View) (L : Nat) (ein vin : Int) (r : Run) (j : Nat) : Run × List Byte × List Byte :=
  let d := p.d
  let pos := L + j
  let lp := pos / 64
  let t := pos % 64
  let e := pageAt r x lp
  let e := if e.expSet then e else { e with ek := ein, ev := vin, expSet := true }
  let kr := ropeRow (ropeEntry r x.rope d pos) (rowAt r kv j)
  let (ks, n1) := narrowRow (e.ek - ein) kr
  let (vs, n2) := narrowRow (e.ev - vin) (rowAt r vv j)
  let kb := ks.map fun y => BitVec.ofInt 8 y
  let vb := vs.map fun y => BitVec.ofInt 8 y
  let base := p.data + 128 * d * e.frame
  let q := if e.holds then stBytes (stBytes r 3 (base + t * d) kb) 3 (base + 64 * d + t * d) vb else r
  let q := putPage q x lp { e with mask := if bit e.mask t then e.mask else e.mask + 2 ^ t }
  let q := stBytes (stBytes q 2 (x.score 0 + 2 * pos) [0, 0]) 2 (x.score 1 + 2 * pos) [0, 0]
  ({ q with i := { q.i with saturated := q.i.saturated + n1 + n2 } }, kb, vb)

/-- The n positions of a KVAPPEND after its frames are taken (R244): keys, values and their entries, the sequence out of the queue, active,
with its length and valid count. Answers the bytes of keys and of values. -/
def appendWrites (k : Take) (kv vv : View) (L n : Nat) (ein vin : Int) : Run × List Byte × List Byte :=
  let (q, kb, vb) := (span 0 n).foldl (fun (a : Run × List Byte × List Byte) j =>
    let (q, kb, vb) := appendOne k.p k.x kv vv L ein vin a.1 j
    (q, a.2.1 ++ kb, a.2.2 ++ vb)) (k.r, [], [])
  let (q, _) := unqueue q k.p k.x.num
  let st := ldLe q 2 (k.x.base + 2) 1
  let q := stageDiff q 2 (k.x.base + 2) [BitVec.ofNat 8 (st / 4 * 4)]
  (stageDiff q 2 (k.x.base + 8) (bytesLe (L + n) 4 ++ bytesLe (k.x.valid + n) 4), kb, vb)

def appendEffect (w : Insn) (r : Run) : Except Fail Act := do
  let kv ← check r (esView r false w.kindB w.b)
  let vv ← check r (esView r false w.kindC w.c)
  need r (w.kindA = .store && storeSpace w.a = 2 && kv.ext = vv.ext && headOk (kv.extent 0)) stFault
  kvOperand r kv
  kvOperand r vv
  let d := kv.extent 0
  let n := kv.extent 1
  let (x, p, r, c1) ← openSeq r (storeByte w.a) d
  need r (x.len + n ≤ 131072) stLength
  let (r, c2) ← reading r kv
  let (r, c3) ← reading r vv
  let (r, c4) ← readingScales r kv
  let (r, c5) ← readingScales r vv
  let (r, c6) ← ropeTable r x.rope d x.ropeLen (span x.len n)
  let run (a : Nat) : Nat × Nat := (a + 2 * x.len, 2 * n)
  need r (n = 0 || (checkSpan r true 2 x.pages (x.pages + 16 * ceilDiv (x.len + n) 64 - 1)).isOk) stLength
  need r (n = 0 || ([x.score 0, x.score 1].all fun a => (checkSpan r true 2 a (a + 2 * (x.len + n) - 1)).isOk)) stLength
  need r (!x.evict || (checkSpan r true 3 x.log (x.log + 32 * x.logCap - 1)).isOk) stLength
  let (r, c7) ← scanning r 2 ([x.score 0, x.score 1].flatMap fun a => partialAddrs (span (run a).1 (run a).2))
  let g := ceilDiv (x.len + n) 64 - x.pageCount
  let sinks := (ctxOf r.s r.slot).granted.sinks
  let (k, bad) ← takeAll sinks g x.pageCount 0 { r := r, p := p, x := x, extra := 0, evicted := 0, drops := 0 }
  match bad with
  | some done => .error { r := markWaiting r x, status := stKvWait, count := some (200 + 40 * done + k.extra), pj := 0 }
  | none => do
    let lines := ceilDiv (n * d) 16
    let count := 200 + lines + 48 * ceilDiv (n * d) 1024 + 40 * g + k.extra
    check r (checkArrival r 2 count (ropeAddrs x.rope d (span x.len n)))
    let (q, kb, vb) := appendWrites k kv vv x.len n (exponentOf r kv) (exponentOf r vv)
    .ok { r := q, status := if 0 < k.drops then stKvDropped else corrected (c1 || c2 || c3 || c4 || c5 || c6 || c7), queue := 1,
          occ := count, count := count, pj := 90 * lines + 150 * (n * d / 8),
          reads := foot kv ++ foot vv ++ footScale r kv ++ footScale r vv ++ [(2, x.base, x.base + 95), (2, x.rope, x.rope + 2 * d * x.ropeLen)],
          writes := [(2, x.base, x.base + 95), (2, x.pages, x.pages + 16 * ceilDiv (x.len + n) 64 - 1),
                     (2, p.base, p.base + 2879), (3, p.data, p.data + 128 * d * p.frames - 1),
                     (2, x.score 0, x.score 0 + 2 * (x.len + n) - 1), (2, x.score 1, x.score 1 + 2 * (x.len + n) - 1)] ++
            (if x.evict then [(3, x.log, x.log + 32 * x.logCap)] else []),
          digest := some (crc64 (kb ++ vb)), mark := some (crc64 (kb ++ vb)), size := max g (max k.evicted k.drops), sizeKinds := [2] }

/-- KVAPPEND (R154). -/
def execKvappend (e : Nat) (w : Insn) (s : State) : Host.Outcome State Fault Refusal := .next (issue s e w 0 (appendEffect w))

/-! ### KVATTN (R155, R246 to R252) -/

/-- What a row has come to. -/
structure Attn where
  have_ : Bool
  M : Int
  sum : Int
  acc : List Int
  /-- Attended positions with their z. -/
  zs : List (Nat × Int)

/-- One page of a row (R246). -/
def attnPage (r : Run) (p : Pool) (x : Seq) (qr : List Int) (eq pj : Int) (a : Attn) (lp : Nat) : Attn :=
  let e := pageAt r x lp
  if !e.holds then a
  else
    let d := p.d
    let base := p.data + 128 * d * e.frame
    let ts := (span 0 64).filter fun t => bit e.mask t && (x.nonCausal || ((64 * lp + t : Nat) : Int) ≤ pj)
    let row (o t : Nat) : List Int := (ldBytes r 3 (base + o + t * d) d).map fun b => b.toInt
    let z (t : Nat) : Int :=
      let s := (List.zipWith (· * ·) qr (row 0 t)).foldl (· + ·) 0
      satTo 32 (shiftTz (satTo 32 (s * x.mu)) (x.sigma - eq - e.ek))
    let zs := ts.map fun t => (t, z t)
    match zs with
    | [] => a
    | z0 :: rest =>
      let mp := rest.foldl (fun m y => max m y.2) z0.2
      let b : Attn :=
        if !a.have_ then { a with M := mp, have_ := true }
        else if a.M < mp then
          let f := vexp2 (a.M - mp)
          { a with sum := (a.sum * f).tdiv 65536, acc := a.acc.map fun y => (y * f).tdiv 65536, M := mp }
        else a
      let b := zs.foldl (fun (b : Attn) y =>
        let ee := vexp2 (y.2 - b.M)
        { b with sum := b.sum + ee,
                 acc := List.zipWith (fun ac v => ac + shiftTz (ee * v) (x.ev0 - e.ev)) b.acc (row (64 * d) y.1) }) b
      { b with zs := b.zs ++ zs.map fun y => (64 * lp + y.1, y.2) }

/-- A row: its output, statistics, whether it attends, and its z values. A dropped sequence has no page to attend (R250). -/
def attnRow (r : Run) (p : Pool) (x : Seq) (row : List Int) (eq : Int) (pos : Nat) : List Int × (Int × Int) × Bool × List (Nat × Int) :=
  let qr := (ropeRow (ropeEntry r x.rope p.d pos) row).map (satTo 8)
  let a := (span 0 (if x.state = 3 then 0 else x.pageCount)).foldl (attnPage r p x qr eq pos)
    { have_ := false, M := 0, sum := 0, acc := List.replicate p.d 0, zs := [] }
  if a.have_ then (a.acc.map fun y => satTo 32 ((y * 2 ^ x.omega).tdiv a.sum), (a.M, logSum a.sum.toNat), true, a.zs)
  else (List.replicate p.d 0, (-(2 ^ 31), 0), false, [])

/-- A row of a KVATTN: the sequence, the position it attends from; none for a padding row. -/
abbrev RowPlan := Option (Seq × Nat)

/-- The plan of a KVATTN: rows, sequences, pool, p of its count. -/
structure Plan where
  rows : List RowPlan
  seqs : List Seq
  pool : Pool
  pages : Nat

/-- Open the sequences of a batch record. -/
def openAll (d : Nat) : List Nat → Run → Bool → Except Fail (List (Seq × Pool) × Run × Bool)
  | [], r, c => .ok ([], r, c)
  | a :: l, r, c => do
    let (x, p, r, c1) ← openSeq r a d
    let (xs, r, c2) ← openAll d l r (c || c1)
    .ok ((x, p) :: xs, r, c2)

/-- A batch record (R251, R252). -/
def batchPlan (r : Run) (a d q : Nat) : Except Fail (Plan × Run × Bool) := do
  let (r, c) ← readSpan r 2 a 0x110
  let kind := ldLe r 2 a 1
  let rows := ldLe r 2 (a + 1) 1
  let b := ldLe r 2 (a + 2) 1
  let bucket := ldLe r 2 (a + 4) 2
  let mask := ldLe r 2 (a + 8) 8
  need r ((kind = 1 || kind = 2) && 1 ≤ rows && rows ≤ 64 && 1 ≤ b && b ≤ 64 && (kind = 1 || (1 ≤ bucket && bucket ≤ 2048))) stLength
  need r (rows = q && ldLe r 2 (a + 3) 1 = 0 && ldLe r 2 (a + 6) 2 = 0) stFault
  let (r, c2) ← readSpan r 2 (a + 0x110) (4 * b)
  let (xs, r, c3) ← openAll d ((span 0 b).map fun k => 16 * ldLe r 2 (a + 0x110 + 4 * k) 4) r (c || c2)
  let entry (j : Nat) : Nat := ldLe r 2 (a + 0x10 + 4 * j) 4
  let valid := (span 0 rows).filter (bit mask)
  need r ((span 0 rows).all fun j => entry j < 2 ^ 23) stFault
  need r (valid.all fun j => entry j / 2 ^ 17 < b) stFault
  need r ((span 0 b).all fun k => valid.any fun j => entry j / 2 ^ 17 = k) stFault
  match xs with
  | [] => failed r stFault
  | (_, p) :: _ => do
    need r (xs.all fun x => x.1.pool = p.base) stFault
    need r (kind = 1 || xs.all fun x => x.1.pageCount = bucket) stLength
    let seqs := xs.map (·.1)
    let plan : List RowPlan := (span 0 rows).map fun j =>
      if bit mask j then (seqs[entry j / 2 ^ 17]?).map fun x => (x, entry j % 2 ^ 17) else none
    .ok ({ rows := plan, seqs := seqs, pool := p,
           pages := if kind = 2 then b * bucket else (seqs.map Seq.pageCount).foldl (· + ·) 0 }, r, c3)

/-- The plan of a KVATTN on a sequence record or on a batch record. -/
def attnPlan (r : Run) (a d q : Nat) : Except Fail (Plan × Run × Bool) := do
  let (r, _) ← readSpan r 2 a 1
  if ldLe r 2 a 1 = 0 then do
    let (x, p, r, c) ← openSeq r a d
    .ok ({ rows := (span 0 q).map fun j => some (x, x.p0 + j / x.hq), seqs := [x], pool := p, pages := x.pageCount }, r, c)
  else batchPlan r a d q

/-- New scores of a sequence and its staged record (R249). -/
def scoreSeq (x : Seq) (rows : List (Seq × (Int × Int) × Bool × List (Nat × Int))) (r : Run) : Run :=
  if !x.evict then r
  else
    let mine := rows.filter fun y => y.1.base = x.base
    let mass (pos : Nat) : Int :=
      if !x.refValid then 0
      else (mine.flatMap fun y => (y.2.2.2.filter fun z => z.1 = pos).map fun z =>
        min 65536 (vexp2 (satTo 32 (z.2 - x.mref - x.lref)))).foldl (· + ·) 0
    let q := (liveFrom r x 0).foldl (fun q pos =>
      let old : Int := scoreOf r x pos
      let kept := if x.delta = 0 then old else old - shiftTz old x.delta
      stBytes q 2 (x.score (1 - x.select) + 2 * pos) (bytesLe (min 65535 (kept + (mass pos).tdiv 4)).toNat 2)) r
    let st := ldLe q 2 (x.base + 2) 1
    let q := stageDiff q 2 (x.base + 2) [BitVec.ofNat 8 ((st + 128) % 256)]
    match (mine.filter fun y => y.2.2.1).getLast? with
    | some y =>
      let q := stageDiff q 2 (x.base + 3) [1]
      stageDiff q 2 (x.base + 0x28) (bytesLe (lowBits 32 y.2.1.1) 4 ++ bytesLe (lowBits 32 y.2.1.2) 4)
    | none => q

/-- The rows of a KVATTN that attend: the sequence, the position, the row. -/
def Plan.fed (plan : Plan) : List (Seq × Nat × Nat) := plan.rows.zipIdx.filterMap fun y => y.1.map fun p => (p.1, p.2, y.2)

/-- Those of a sequence that was not dropped (R250). -/
def Plan.active (plan : Plan) : List (Seq × Nat × Nat) := plan.fed.filter fun y => y.1.state ≠ 3

/-- The sequences of a KVATTN, each once. -/
def Plan.distinct (plan : Plan) : List Seq := plan.seqs.eraseDupsBy fun a b => a.base == b.base

/-- The key and value bytes that a KVATTN reads: of the live positions of its sequences. -/
def attnFrames (r : Run) (plan : Plan) (hd : Nat) : List Nat :=
  plan.distinct.flatMap fun x => (liveFrom r x 0).flatMap fun pos =>
    let e := pageAt r x (pos / 64)
    if e.holds then
      let b := plan.pool.data + 128 * hd * e.frame + pos % 64 * hd
      span b hd ++ span (b + 64 * hd) hd
    else []

/-- Bytes of a score table's entries of a sequence's live positions. -/
def scoreBytes (r : Run) (x : Seq) (k : Nat) : List Nat := (liveFrom r x 0).flatMap fun pos => span (x.score k + 2 * pos) 2

/-- The score bytes that a KVATTN reads (R249). -/
def attnScores (r : Run) (plan : Plan) : List Nat := (plan.distinct.filter (·.evict)).flatMap fun x => scoreBytes r x x.select

/-- The results of a KVATTN by row: the sequence, the output, the statistics, whether it attends, its z values. -/
def attnResults (r : Run) (v : View) (plan : Plan) : List (Nat × Seq × List Int × (Int × Int) × Bool × List (Nat × Int)) :=
  plan.fed.map fun y => (y.2.2, y.1, attnRow r plan.pool y.1 (rowAt r v y.2.2) (exponentOf r v) y.2.1)

/-- The output elements of q rows of hd: zeros in a row that nothing feeds. -/
def attnOuts (r : Run) (v : View) (plan : Plan) (hd q : Nat) : List (List Nat × Int) :=
  let res := attnResults r v plan
  (span 0 q).flatMap fun j =>
    let xs := match res.find? fun y => y.1 = j with
      | some y => y.2.2.1
      | none => List.replicate hd 0
    xs.zipIdx.map fun p => ([p.2, j], p.1)

/-- What a KVATTN writes: the output, the saved statistics (R248), the scores (R249). -/
def attnWrites (r : Run) (d v : View) (plan : Plan) (hd q : Nat) : Run :=
  let res := attnResults r v plan
  let p := res.foldl (fun p y =>
    if y.2.1.save then stBytes p 2 (y.2.1.stats + 8 * y.1) (bytesLe (lowBits 32 y.2.2.2.1.1) 4 ++ bytesLe (lowBits 32 y.2.2.2.1.2) 4)
    else p) (stElems r d (attnOuts r v plan hd q))
  plan.distinct.foldl (fun p x => scoreSeq x (res.map fun y => (y.2.1, y.2.2.2)) p) p

/-- A row of a KVATTN is of a dropped sequence. -/
def Plan.dropped (plan : Plan) : Bool := plan.rows.any fun y => match y with
  | some (x, _) => x.state = 3
  | none => false

/-- The statistics and the score tables that a KVATTN writes lie in places its context may write (R248, R249). -/
def attnPlaces (r : Run) (plan : Plan) (q : Nat) : Bool :=
  (plan.fed.all fun y => !y.1.save || (checkSpan r true 2 y.1.stats (y.1.stats + 8 * q - 1)).isOk) &&
  plan.distinct.all fun x => !x.evict || x.len = 0 ||
    ((checkSpan r true 2 (x.score 0) (x.score 0 + 2 * x.len - 1)).isOk &&
     (checkSpan r true 2 (x.score 1) (x.score 1 + 2 * x.len - 1)).isOk)

/-- The rotary entries of a KVATTN's rows, checked and read. -/
def attnRopes (hd : Nat) (plan : Plan) (r : Run) : Except Fail (Run × Bool) :=
  plan.active.foldlM (fun (a : Run × Bool) y => do
    let (r, c) ← ropeTable a.1 y.1.rope hd y.1.ropeLen [y.2.1]
    .ok (r, a.2 || c)) (r, false)

def attnEffect (w : Insn) (r : Run) : Except Fail Act := do
  let d ← check r (esView r true w.kindA w.a)
  let v ← check r (esView r false w.kindB w.b)
  need r (w.kindC = .store && storeSpace w.c = 2 && d.format = 3 && d.ext = v.ext && headOk (v.extent 0)) stFault
  kvOperand r v
  let hd := v.extent 0
  let q := v.extent 1
  need r (q ≤ 64) stLength
  let (plan, r, c1) ← attnPlan r (storeByte w.c) hd q
  let (r, c2) ← reading r v
  let (r, c3) ← attnRopes hd plan r
  need r (attnPlaces r plan q) stLength
  let (r, c4) ← readingBytes r 3 (attnFrames r plan hd)
  let (r, c5) ← readingScales r v
  let scored := plan.distinct.filter (·.evict)
  let (r, c6) ← readingBytes r 2 (attnScores r plan)
  let (r, c7) ← scanning r 2 (scored.flatMap (fun x => partialAddrs (scoreBytes r x (1 - x.select))) ++
    partialAddrs ((plan.fed.filter fun y => y.1.save).flatMap fun y => span (y.1.stats + 8 * y.2.2) 8))
  let (r, c8) ← writing r d d.tuples
  let lines := ceilDiv (q * hd) 16
  let count := 240 + lines + 3 * hd * plan.pages
  check r (checkArrival r 2 count (plan.active.flatMap fun y => ropeAddrs y.1.rope hd [y.2.1]))
  let p := attnWrites r d v plan hd q
  let fed := (attnOuts r v plan hd q).filter fun o => (plan.rows.getD (o.1.getD 1 0) none).isSome
  .ok { r := p, status := if plan.dropped then stKvDropped else corrected (c1 || c2 || c3 || c4 || c5 || c6 || c7 || c8), queue := 2, occ := count,
        count := count, pj := 550 * (2 * hd * plan.pages) + 150 * (8 * hd * plan.pages) + 90 * lines,
        reads := foot v ++ plan.seqs.flatMap (fun x => [(2, x.base, x.base + 95), (2, x.pages, x.pages + 16 * x.pageCount),
            (2, x.rope, x.rope + 2 * hd * x.ropeLen), (2, x.score x.select, x.score x.select + 2 * x.len)]) ++ footScale r v ++
          [(3, plan.pool.data, plan.pool.data + 128 * hd * plan.pool.frames)],
        writes := foot d ++ ((plan.seqs.filter (·.evict)).flatMap fun x =>
          [(2, x.base, x.base + 95), (2, x.score (1 - x.select), x.score (1 - x.select) + 2 * x.len)]) ++
            (plan.seqs.filter (·.save)).map fun x => (2, x.stats, x.stats + 8 * q),
        digest := none, mark := some (crc64 (elemBytes 3 (fed.map (·.2)))), size := plan.pages }

/-- KVATTN (R155). -/
def execKvattn (e : Nat) (w : Insn) (s : State) : Host.Outcome State Fault Refusal := .next (issue s e w 0 (attnEffect w))

/-! ### KVEVICT, KVDROP (R156, R254, R258) -/

/-- Head dimension of the pool behind a record, for an instruction without an operand. -/
def poolDim (r : Run) (a : Nat) : Nat := ldLe r 2 (16 * ldLe r 2 (a + 4) 4) 2

def evictEffect (w : Insn) (r : Run) : Except Fail Act := do
  need r (w.kindA = .store && storeSpace w.a = 2) stFault
  let a := storeByte w.a
  let (r, _) ← readSpan r 2 a 96
  let (x, p, r, c) ← openSeq r a (poolDim r a)
  let n := (slotValue r.i w.kindB w.b).toNat
  let live := liveFrom r x (ctxOf r.s r.slot).granted.sinks
  need r (n ≤ live.length) stLength
  let (r, c2) ← if n = 0 then .ok (r, false) else readSpan r 2 (x.score x.select) (2 * x.len)
  need r (n = 0 || (checkSpan r true 3 x.log (x.log + 32 * x.logCap - 1)).isOk) stLength
  let (q, _, _) := evictLoop n 0 (r, p, x) live
  let count := evictCount x.len n
  .ok { r := q, status := corrected (c || c2), queue := 1, occ := count, count := count, pj := 300 * n,
        reads := [(2, a, a + 95), (2, x.score x.select, x.score x.select + 2 * x.len)],
        writes := [(2, a, a + 95), (2, p.base, p.base + 2879), (2, x.pages, x.pages + 16 * x.pageCount),
                   (3, x.log, x.log + 32 * x.logCap)], digest := none, mark := none, size := n }

/-- KVEVICT (R156). -/
def execKvevict (e : Nat) (w : Insn) (s : State) : Host.Outcome State Fault Refusal := .next (issue s e w 2 (evictEffect w))

def dropEffect (w : Insn) (r : Run) : Except Fail Act := do
  need r (w.kindA = .store && storeSpace w.a = 2) stFault
  let a := storeByte w.a
  let (r, _) ← readSpan r 2 a 96
  let (x, p, r, c) ← openSeq r a (poolDim r a)
  let (q, _) := dropSeq r p x
  let count := dropCount x.pageCount
  .ok { r := q, status := corrected c, queue := 1, occ := count, count := count, pj := 0, reads := [(2, a, a + 95)],
        writes := [(2, a, a + 95), (2, p.base, p.base + 2879), (2, x.pages, x.pages + 16 * x.pageCount)],
        digest := none, mark := none, size := x.pageCount }

/-- KVDROP (R156). -/
def execKvdrop (e : Nat) (w : Insn) (s : State) : Host.Outcome State Fault Refusal := .next (issue s e w 0 (dropEffect w))

end Sys2Proof.Machine
end

