-- ==== Sys2Proof/Machine/Text.lean ====
section
/-! DEFINITION. The text class: TOKENIZE, DETOK, MASKGEN, SAMPLE, STOPCHK (R157, R158, chapter 10). -/

namespace Sys2Proof.Machine

open Sys2Proof

/-! ### Records and tables -/

/-- A record that the instruction also writes: readable, and writable by the context (R101, R281, R284). -/
def ownRecord (r : Run) (a n : Nat) : Except Fail (Run × Bool) := do
  let x ← readSpan r 2 a n
  check r (checkSpan r true 2 a (a + n - 1))
  .ok x

/-- An image check failed (R266): counted, and CONTEXT_FAULT. -/
def imageFault {α : Type} (r : Run) : Except Fail α :=
  failed { r with s := { r.s with media := { r.s.media with tkuFaults := bump r.s.media.tkuFaults 1 } } } stFault

/-- An image check. -/
def image (r : Run) (p : Bool) : Except Fail Unit := if p then .ok () else imageFault r

/-- The text record (R264). -/
structure TextRec where
  V : Nat
  M : Nat
  image : Nat
  control : Nat
  split : Nat
  lmax : Nat
  spell : Bool
deriving Repr

/-- The text record, the first 64 elements of the view of descriptor 1,023. -/
def textRecord (r : Run) : Except Fail (TextRec × Run × Bool) := do
  let (r, c0) ← scanning r 2 (span ((moduleOf r.s r.slot).descKib * 1024 + 64 * 1023) 64)
  let v ← check r (viewAt r false 1023 0)
  need r (v.format = 1 && v.rank = 1 && v.space = 2 && 64 ≤ v.extent 0) stFault
  let addrs := (span 0 64).flatMap fun k => v.bytesOf [k]
  let (r, c) ← readingBytes r 2 addrs
  let l := addrs.map (ldByte r 2)
  let f (o n : Nat) : Nat := field l o n
  let t : TextRec := { V := f 0 4, M := f 4 4, image := f 8 8, control := 16 * f 0x10 4, split := 16 * f 0x14 4,
                       lmax := f 0x18 2, spell := bit (f 0x1A 1) 0 }
  need r (256 ≤ t.V && t.V ≤ 262144 && t.M ≤ 262144 && t.image % 2048 = 0 && 1 ≤ t.lmax && t.lmax ≤ 256) stLength
  need r (f 0x1A 1 < 2 && (l.drop 0x1B).all fun b => b = 0) stFault
  .ok (t, r, c0 || c)

/-- Byte length of the string area. -/
def stringArea (r : Run) (t : TextRec) : Nat := ldLe r 3 (t.image + 12) 4

/-- Offset of the string area. -/
def stringBase (t : TextRec) : Nat := t.image + 0x440 + 8 * t.V + 16 * t.M

/-- The vocabulary image: its header is checked (R265, R266). -/
def openImage (r : Run) (t : TextRec) : Except Fail (Run × Bool) := do
  let (r, c1) ← readSpan r 3 t.image 0x440
  image r (ldBytes r 3 t.image 4 = ascii "VOCB" && ldLe r 3 (t.image + 4) 4 = t.V && ldLe r 3 (t.image + 8) 4 = t.M)
  check r (checkSpan r false 3 t.image (stringBase t + stringArea r t - 1))
  let (r, c2) ← readSpan r 2 t.control (ceilDiv t.V 8)
  .ok (r, c1 || c2)

/-- The control map marks an ID. -/
def isControl (r : Run) (t : TextRec) (x : Nat) : Bool := bit (ldByte r 2 (t.control + x / 8)).toNat (x % 8)

/-- A text operand: in XS, or in ES where the instruction accepts it. -/
def textView (r : Run) (write : Bool) (k : Kind) (w : Word) (format : Nat) (es : Bool) : Except Fail View := do
  let v ← check r (slotView r write k w)
  need r ((v.space = 2 || (es && v.space = 0)) && v.format = format) stFault
  .ok v

/-- The act of a text instruction. It runs at any Stop at which its context runs (log 106). -/
def textAct (q : Run) (status count size : Nat) (reads writes : List (Nat × Nat × Nat)) (d : Option (BitVec 64))
    (m : Option (BitVec 64)) : Act :=
  { r := q, status := status, queue := 4, occ := count, count := count, pj := 50 * count, reads := reads, writes := writes,
    digest := d, mark := m, size := size }

/-- Write values to the first elements of a view, in canonical order. -/
def putFirst (r : Run) (v : View) (xs : List Int) : Run := stElems r v (List.zip v.tuples xs)

/-- The digest of what `putFirst` writes: its elements in no padding slot (R317, R441). -/
def firstDigest (r : Run) (v : View) (xs : List Int) : BitVec 64 :=
  crc64 (elemBytes v.format (((List.zip v.tuples xs).filter fun p => !padded r v p.1).map (·.2)))

/-- The scalar register in slot C receives a number. -/
def putCount (r : Run) (w : Insn) (n : Nat) : Run := { r with i := setReg r.i (slotReg w.c) (BitVec.ofNat 32 n) }

/-! ### Characters (R268) -/

/-- Continuation byte within lo .. hi. -/
def inRange (lo hi : Nat) (b : Nat) : Bool := lo ≤ b && b ≤ hi

/-- Range of the second byte after a lead byte of 3 or 4. -/
def secondRange (b : Nat) : Nat × Nat :=
  if b = 0xE0 then (0xA0, 0xBF) else if b = 0xED then (0x80, 0x9F) else if b = 0xF0 then (0x90, 0xBF)
  else if b = 0xF4 then (0x80, 0x8F) else (0x80, 0xBF)

/-- The character a byte list begins with: its length and scalar value, or an invalid byte. -/
def firstChar : List Nat → Nat × Option Nat
  | [] => (0, none)
  | a :: l =>
    if a < 0x80 then (1, some a)
    else match l with
      | b :: l2 =>
        if inRange 0xC2 0xDF a && inRange 0x80 0xBF b then (2, some ((a - 0xC0) * 64 + (b - 0x80)))
        else if inRange 0xE0 0xEF a && inRange (secondRange a).1 (secondRange a).2 b then
          match l2 with
          | c :: _ => if inRange 0x80 0xBF c then (3, some ((a - 0xE0) * 4096 + (b - 0x80) * 64 + (c - 0x80))) else (1, none)
          | _ => (1, none)
        else if inRange 0xF0 0xF4 a && inRange (secondRange a).1 (secondRange a).2 b then
          match l2 with
          | c :: d :: _ =>
            if inRange 0x80 0xBF c && inRange 0x80 0xBF d then
              (4, some ((a - 0xF0) * 262144 + (b - 0x80) * 4096 + (c - 0x80) * 64 + (d - 0x80)))
            else (1, none)
          | _ => (1, none)
        else (1, none)
      | [] => (1, none)

/-- The characters of a byte list: bytes and scalar value of each. -/
def charsOf : Nat → List Nat → List (List Nat × Option Nat)
  | 0, _ => []
  | n + 1, l =>
    match l with
    | [] => []
    | _ =>
      let (k, x) := firstChar l
      (l.take k, x) :: charsOf n (l.drop k)

/-- A list of bytes is an incomplete character: a proper prefix of a well-formed sequence. -/
def incomplete : List Nat → Bool
  | [a] => inRange 0xC2 0xF4 a
  | [a, b] => inRange 0xE0 0xF4 a && inRange (secondRange a).1 (secondRange a).2 b
  | [a, b, c] => inRange 0xF0 0xF4 a && inRange (secondRange a).1 (secondRange a).2 b && inRange 0x80 0xBF c
  | _ => false

/-! ### TOKENIZE (R157, R269 to R272) -/

/-- Class of a character: 15 for an invalid byte; none where a block holds 15. -/
def classOf (r : Run) (t : TextRec) (x : Option Nat) : Except Fail Nat :=
  match x with
  | none => .ok 15
  | some c => do
    let k := ldLe r 2 (t.split + 2 * (c / 256)) 2
    let a := t.split + 0x2220 + 128 * k + c % 256 / 2
    check r (checkSpan r false 2 a a)
    let b := (ldByte r 2 a).toNat
    let y := if c % 2 = 0 then b % 16 else b / 16
    image r (y ≠ 15)
    .ok y

/-- Classes of a text. -/
def classesOf (r : Run) (t : TextRec) : List (List Nat × Option Nat) → Except Fail (List (List Nat × Nat))
  | [] => .ok []
  | c :: l => do
    let k ← classOf r t c.2
    let m ← classesOf r t l
    .ok ((c.1, k) :: m)

/-- A boundary falls between two classes (R269). -/
def breaks (r : Run) (t : TextRec) (a b : Nat) : Bool :=
  a = 15 || b = 15 || bit (ldLe r 2 (t.split + 0x2200 + 2 * a) 2) b

/-- Pieces: lists of characters with classes (R269, R270), each at most 256 bytes. -/
def piecesOf (r : Run) (t : TextRec) : List (List Nat × Nat) → List (List (List Nat × Nat))
  | [] => []
  | c :: l =>
    match piecesOf r t l with
    | (d :: p) :: rest =>
      if breaks r t c.2 d.2 then [c] :: (d :: p) :: rest else (c :: d :: p) :: rest
    | rest => [c] :: rest

/-- Cut a piece at its last character that ends at or before byte 256. -/
def cutPiece : List (List Nat × Nat) → Nat → List (List Nat × Nat) → List (List (List Nat × Nat))
  | [], _, cur => if cur = [] then [] else [cur]
  | c :: l, n, cur =>
    if 256 < n + c.1.length then cur :: cutPiece l c.1.length [c] else cutPiece l (n + c.1.length) (cur ++ [c])

/-- A merge: left, right, result. Its rank is its place in the list. -/
abbrev Merge := Nat × Nat × Nat

def mergesOf (r : Run) (t : TextRec) : List Merge :=
  (span 0 t.M).map fun k =>
    let a := t.image + 0x440 + 8 * t.V + 16 * k
    (ldLe r 3 a 4, ldLe r 3 (a + 4) 4, ldLe r 3 (a + 8) 4)

/-- Rank and result of the lowest merge of a pair that is applied; every result read on the way must be an ID, or the answer is none
(R266, R271). -/
def rankOf (V : Nat) (control : Nat → Bool) (a b : Nat) : List (Nat × Merge) → Option (Option (Nat × Nat))
  | [] => some none
  | (k, l, r, x) :: rest =>
    if l = a && r = b then
      if V ≤ x then none else if control x then rankOf V control a b rest else some (some (k, x))
    else rankOf V control a b rest

/-- Best merge of a token list: (rank, index, result); ties to the leftmost. None where a check failed. -/
def bestMerge (rank : Nat → Nat → Option (Option (Nat × Nat))) : Nat → List Nat → Option (Option (Nat × Nat × Nat))
  | k, a :: b :: l => do
    let here ← rank a b
    let rest ← bestMerge rank (k + 1) (b :: l)
    some (match here, rest with
      | some (r, x), some (r', k', x') => if r ≤ r' then some (r, k, x) else some (r', k', x')
      | some (r, x), none => some (r, k, x)
      | none, y => y)
  | _, _ => some none

/-- Apply merges until none is left; none where a check failed. -/
def mergeLoop (rank : Nat → Nat → Option (Option (Nat × Nat))) : Nat → List Nat → Option (List Nat)
  | 0, l => some l
  | n + 1, l => do
    match ← bestMerge rank 0 l with
    | none => some l
    | some (_, k, x) => mergeLoop rank n (l.take k ++ x :: l.drop (k + 2))

/-- Tokens of a text. -/
def tokensOf (r : Run) (t : TextRec) (text : List Nat) : Except Fail (List Nat × Run × Bool) := do
  let (r, c1) ← readSpan r 2 t.split 0x2220
  let (r, c2) ← readSpan r 3 (t.image + 0x440 + 8 * t.V) (16 * t.M)
  let byteId (b : Nat) : Nat := ldLe r 3 (t.image + 0x40 + 4 * b) 4
  image r (text.all fun b => byteId b < t.V && !isControl r t (byteId b))
  let ms := (mergesOf r t).zipIdx.map fun m => (m.2, m.1)
  let rank (a b : Nat) : Option (Option (Nat × Nat)) := rankOf t.V (isControl r t) a b ms
  let cs ← classesOf r t (charsOf text.length text)
  let pieces := (piecesOf r t cs).flatMap fun p => cutPiece p 0 []
  let ids := pieces.map fun p =>
    let ids := (p.flatMap (·.1)).map byteId
    if p.length = 1 && (p.headD ([], 0)).2 = 15 then some ids else mergeLoop rank ids.length ids
  image r (ids.all Option.isSome)
  .ok ((ids.filterMap id).flatten, r, c1 || c2)

def tokenizeEffect (w : Insn) (r : Run) : Except Fail Act := do
  let (t, r, c0) ← textRecord r
  let d ← textView r true w.kindA w.a 3 true
  let (r, c1) ← openImage r t
  if w.kindB = .immediate then do
    let x := w.b.toNat
    need r (x < t.V && 1 ≤ d.count) stLength
    need r (isControl r t x) stFault
    let (r, c2) ← writing r d (d.tuples.take 1)
    let q := putCount (putFirst r d [(x : Int)]) w 1
    let g := firstDigest r d [(x : Int)]
    .ok (textAct q (corrected (c0 || c1 || c2)) 24 1 [] (foot d ++ footReg (slotReg w.c)) (published d g) (some g))
  else do
    let v ← textView r false w.kindB w.b 1 true
    check r (checkArrival r v.space (v.count + 24) v.addrs)
    let (r, c2) ← reading r v
    let text := (ldView r v).map (lowBits 8)
    need r (text.length ≤ d.count) stLength
    let (ids, r, c3) ← tokensOf r t text
    let xs := ids.map fun (x : Nat) => (x : Int)
    let (r, c4) ← writing r d (d.tuples.take ids.length)
    let q := putCount (putFirst r d xs) w ids.length
    let g := firstDigest r d xs
    .ok (textAct q (corrected (c0 || c1 || c2 || c3 || c4)) (text.length + 24) text.length (foot v)
      (foot d ++ footReg (slotReg w.c)) (published d g) (some g))

/-- TOKENIZE (R157). -/
def execTokenize (e : Nat) (w : Insn) (s : State) : Host.Outcome State Fault Refusal := .next (issue s e w 0 (tokenizeEffect w))

/-! ### DETOK (R273) -/

/-- Spelling of a token; none where an image check fails. -/
def spelling (r : Run) (t : TextRec) (x : Nat) : Option (List Byte) :=
  let a := t.image + 0x440 + 8 * x
  let off := ldLe r 3 a 4
  let n := ldLe r 3 (a + 4) 2
  if 1 ≤ n && n ≤ t.lmax && off + n ≤ stringArea r t then some (ldBytes r 3 (stringBase t + off) n) else none

def detokEffect (w : Insn) (r : Run) : Except Fail Act := do
  let (t, r, c0) ← textRecord r
  let d ← textView r true w.kindA w.a 1 true
  let v ← textView r false w.kindB w.b 3 true
  let (r, c2) ← reading r v
  let ids := ldView r v
  need r (ids.all fun x => 0 ≤ x && x < t.V) stLength
  need r (ids.length * t.lmax ≤ d.count) stLength
  let (r, c1) ← openImage r t
  let shown := (ids.map Int.toNat).filter fun x => t.spell || !isControl r t x
  let sp := shown.map (spelling r t)
  image r (sp.all Option.isSome)
  let (r, c3) ← readSpan r 3 (t.image + 0x440) (8 * t.V)
  let out := (sp.filterMap id).flatten
  let xs := out.map fun b => b.toInt
  let (r, c5) ← readSpan r 3 (stringBase t) (stringArea r t)
  check r (checkArrival r v.space (24 + ids.length + out.length) v.addrs)
  let (r, c4) ← writing r d (d.tuples.take out.length)
  let q := putCount (putFirst r d xs) w out.length
  let g := firstDigest r d xs
  .ok (textAct q (corrected (c0 || c1 || c2 || c3 || c4 || c5)) (24 + ids.length + out.length) ids.length (foot v)
    (foot d ++ footReg (slotReg w.c)) (published d g) (some g))

/-- DETOK (R157, R273). -/
def execDetok (e : Nat) (w : Insn) (s : State) : Host.Outcome State Fault Refusal := .next (issue s e w 0 (detokEffect w))

/-! ### The automaton (R274 to R278) -/

/-- An entry of the sequence list (R277). -/
structure Sequence where
  forced : Bool
  trigger : Nat
  ids : List Nat
deriving Repr

/-- The automaton record. -/
structure Automaton where
  base : Nat
  Q : Nat
  state : Nat
  mask : Nat
  trans : Nat
  escape : Option (Nat × Nat)
  dead : Bool
  run : Option (Nat × Nat)
  history : List Nat
  seqs : List Sequence
deriving Repr

/-- Read the sequence list, ranged. -/
def sequencesAt (r : Run) (V a n : Nat) : Except Fail (List Sequence × Run × Bool) := do
  let (r, c) ← readSpan r 3 a (144 * n)
  let entry (k : Nat) : Sequence × Bool × Bool :=
    let b := a + 144 * k
    let len := ldLe r 3 b 1
    let kind := ldLe r 3 (b + 1) 1
    let t := ldLe r 3 (b + 2) 1
    let ids := (span 0 (min len 32)).map fun i => ldLe r 3 (b + 0x10 + 4 * i) 4
    ({ forced := kind = 1, trigger := t, ids := ids },
     1 ≤ len && len ≤ 32 && kind ≤ 1 && (kind = 0 || (2 ≤ len && 1 ≤ t && t < len)) && ids.all fun x => x < V,
     (span (b + 3) 13).all fun o => ldByte r 3 o = 0)
  let l := (span 0 n).map entry
  need r (l.all fun e => e.2.1) stLength
  need r (l.all fun e => e.2.2) stFault
  .ok (l.map (·.1), r, c)

/-- Read an automaton record, ranged (R274). -/
def automatonAt (r : Run) (t : TextRec) (a : Nat) : Except Fail (Automaton × Run × Bool) := do
  let (r, c1) ← readSpan r 2 a 176
  let f (o n : Nat) : Nat := ldLe r 2 (a + o) n
  let fl := f 0x22 1
  let n := f 0x23 1
  need r (1 ≤ f 0 4 && f 0 4 ≤ 65536 && f 4 4 < f 0 4 && f 8 8 % 16 = 0 && f 0x10 8 % 16 = 0 && f 0x18 8 % 16 = 0 &&
    f 0x20 2 ≤ 4096 && n ≤ 31) stLength
  need r (fl < 8 && f 0x2F 1 = 0 && f 0xAC 4 = 0) stFault
  let (seqs, r, c2) ← sequencesAt r t.V (f 0x18 8) (f 0x20 2)
  let hist := (span 0 n).map fun k => f (0x30 + 4 * k) 4
  image r (hist.all fun x => x < 2 ^ 18)
  let run := if bit fl 2 then some (f 0x2C 2, f 0x2E 1) else none
  need r (match run with
    | some (i, p) => (seqs[i]?).any fun s => p < s.ids.length
    | none => true) stLength
  need r (!bit fl 0 || f 0x24 4 < t.V) stLength
  .ok ({ base := a, Q := f 0 4, state := f 4 4, mask := f 8 8, trans := f 0x10 8,
         escape := if bit fl 0 then some (f 0x24 4, f 0x28 4) else none, dead := bit fl 1, run := run, history := hist,
         seqs := seqs }, r, c1 || c2)

/-- The history ends with a list. -/
def endsWith (h s : List Nat) : Bool := h.drop (h.length - s.length) = s && s.length ≤ h.length

/-- The token a run forces. -/
def forcedToken (a : Automaton) : Option Nat :=
  a.run.bind fun p => (a.seqs[p.1]?).bind fun s => s.ids[p.2]?

/-- The mask of a state as allowed bits (R275). -/
def stateMask (r : Run) (t : TextRec) (a : Automaton) (q : Nat) : Except Fail (List Bool × Run × Bool) := do
  let blocks := ceilDiv t.V 4096
  let dir := a.mask + 256 * q
  let (r, c1) ← readSpan r 3 dir (4 * blocks)
  let rec build (r : Run) (c : Bool) : List Nat → Except Fail (List Bool × Run × Bool)
    | [] => .ok ([], r, c)
    | j :: l => do
      let e := ldLe r 3 (dir + 4 * j) 4
      image r (e % 4 ≠ 3)
      let base := a.mask + 256 * a.Q + 512 * (e / 4)
      let (r, c2) ← if e % 4 = 2 then readSpan r 3 base 512 else .ok (r, false)
      let here := (span 0 (min 4096 (t.V - 4096 * j))).map fun k =>
        if e % 4 = 0 then false else if e % 4 = 1 then true else bit (ldByte r 3 (base + k / 8)).toNat (k % 8)
      let (rest, r, c) ← build r (c || c2) l
      .ok (here ++ rest, r, c)
  build r c1 (span 0 blocks)

/-- Clear the completions of the banned entries. -/
def banned (a : Automaton) (m : List Bool) : List Bool :=
  a.seqs.foldl (fun m s =>
    if !s.forced && endsWith a.history s.ids.dropLast then m.set (s.ids.getLastD 0) false else m) m

/-- Mask bytes. -/
def maskBytes (m : List Bool) (V : Nat) : List Int :=
  (span 0 (ceilDiv V 8)).map fun y =>
    signed 8 (((span 0 8).map fun z => b2n (m.getD (8 * y + z) false) * 2 ^ z).foldl (· + ·) 0)

/-- A mask of one token. -/
def onlyToken (V x : Nat) : List Bool := (span 0 V).map fun k => decide (k = x)

/-- A GRAMMAR_DEAD return is counted. -/
def countDead (r : Run) : Run := { r with s := { r.s with media := { r.s.media with tkuDead := bump r.s.media.tkuDead 1 } } }

/-- The mask of an automaton in a state (R278), none where the grammar is dead. -/
def maskOf (r : Run) (t : TextRec) (a : Automaton) (q : Nat) : Except Fail (Option (List Bool) × Run × Bool) :=
  if a.dead then .ok (none, r, false)
  else match forcedToken a with
    | some x => .ok (some (onlyToken t.V x), r, false)
    | none => do
      let (m, r, c) ← stateMask r t a q
      let m := banned a m
      .ok (if m.any id then some m else a.escape.map fun x => onlyToken t.V x.1, r, c)

/-- A mask in a view; an empty one, counted, where the grammar is dead. -/
def putMask (r : Run) (d : View) (V : Nat) : Option (List Bool) → Run
  | some m => putFirst r d (maskBytes m V)
  | none => countDead (putFirst r d (maskBytes [] V))

def maskgenEffect (w : Insn) (r : Run) : Except Fail Act := do
  let (t, r, c0) ← textRecord r
  let d ← textView r true w.kindA w.a 1 false
  need r (w.kindC = .store && storeSpace w.c = 2) stFault
  need r (ceilDiv t.V 8 ≤ d.count) stLength
  let (a, r, c1) ← automatonAt r t (storeByte w.c)
  let q := (slotValue r.i w.kindB w.b).toNat
  need r (q < a.Q) stLength
  let (m, r, c2) ← maskOf r t a q
  let (r, c3) ← writing r d (d.tuples.take (ceilDiv t.V 8))
  let p := putMask r d t.V m
  .ok (textAct p (if m.isSome then corrected (c0 || c1 || c2 || c3) else stGrammarDead) (ceilDiv t.V 4096) t.V
    [(2, a.base, a.base + 175)] (foot d) none (some (viewDigest p d)))

/-- MASKGEN (R158, R278). -/
def execMaskgen (e : Nat) (w : Insn) (s : State) : Host.Outcome State Fault Refusal := .next (issue s e w 2 (maskgenEffect w))

/-! ### SAMPLE (R279 to R282) -/

/-- Search of R276 in a list of (ID, next); none where an ID it reads is no ID (R265). -/
def searchNext (l : List (Nat × Nat)) (x : Nat) : Nat → Nat → Nat → Option Nat
  | 0, lo, _ => some lo
  | n + 1, lo, hi =>
    if lo < hi then
      let mid := (lo + hi) / 2
      let y := (l.getD mid (0, 0)).1
      if 2 ^ 18 ≤ y then none else if y < x then searchNext l x n (mid + 1) hi else searchNext l x n lo mid
    else some lo

/-- next_state (R276). -/
def nextState (r : Run) (a : Automaton) (x : Nat) : Except Fail (Nat × Run × Bool) := do
  let h := a.trans + 16 * a.state
  let (r, c1) ← readSpan r 3 h 16
  let n := ldLe r 3 (h + 4) 4
  need r (n ≤ 262144) stLength
  let at_ := ldLe r 3 (h + 8) 8
  let (r, c2) ← readSpan r 3 at_ (8 * n)
  let l := (span 0 n).map fun k => (ldLe r 3 (at_ + 8 * k) 4, ldLe r 3 (at_ + 8 * k + 4) 4)
  let found := (searchNext l x 20 0 n).map fun k => l[k]?
  image r (match found with
    | none => false
    | some e => e.all fun y => y.1 < 2 ^ 18)
  let q := match found.join with
    | some e => if e.1 = x then e.2 else ldLe r 3 h 4
    | none => ldLe r 3 h 4
  image r (q < a.Q)
  .ok (q, r, c1 || c2)

/-- A token is emitted: history, state, forced runs (R281); the record's writes are staged. -/
def emitToken (r : Run) (a : Automaton) (x : Nat) (escaped : Bool) : Except Fail (Run × Bool) := do
  let (q, r, c) ← if escaped then (do
      let q := (a.escape.map (·.2)).getD 0
      image r (q < a.Q)
      .ok (q, r, false))
    else nextState r a x
  let h := a.history ++ [x]
  let h := h.drop (h.length - 31)
  let moved := a.run.map fun y => (y.1, y.2 + 1)
  let run := match a.run with
    | some (i, p) => if p + 1 = ((a.seqs[i]?).map fun (s : Sequence) => s.ids.length).getD 0 then none else some (i, p + 1)
    | none => none
  let run := match run with
    | some y => some y
    | none => (a.seqs.zipIdx.find? fun (s : Sequence × Nat) => s.1.forced && endsWith h (s.1.ids.take s.1.trigger)).map fun (s : Sequence × Nat) => (s.2, s.1.trigger)
  let fl := b2n a.escape.isSome + 2 * b2n a.dead + 4 * b2n run.isSome
  let (i, p) := run.getD (moved.getD (ldLe r 2 (a.base + 0x2C) 2, ldLe r 2 (a.base + 0x2E) 1))
  let r := stageAt r 2 (a.base + 4) (bytesLe q 4)
  let r := stageAt r 2 (a.base + 0x22) (bytesLe fl 1 ++ bytesLe h.length 1)
  let r := stageAt r 2 (a.base + 0x2C) (bytesLe i 2 ++ bytesLe p 1)
  .ok (stageAt r 2 (a.base + 0x30) (h.flatMap fun y => bytesLe y 4), c)

/-- Insert into an order by e descending, ties to the lower ID. -/
def insertDesc (x : Nat × Int) : List (Nat × Int) → List (Nat × Int)
  | [] => [x]
  | y :: l => if y.2 < x.2 || (y.2 = x.2 && x.1 < y.1) then x :: y :: l else y :: insertDesc x l

def sortDesc (l : List (Nat × Int)) : List (Nat × Int) := l.foldl (fun a x => insertDesc x a) []

/-- The shortest prefix whose weight reaches topp / 65,536 of the whole. -/
def prefixOf (need_ : Int) : List (Nat × Int) → Int → List (Nat × Int)
  | [], _ => []
  | x :: l, s => if need_ ≤ 65536 * (s + x.2) then [x] else x :: prefixOf need_ l (s + x.2)

def weight (l : List (Nat × Int)) : Int := (l.map (·.2)).foldl (· + ·) 0

/-- The first token, in ID order, at which the running sum exceeds the target. -/
def drawAt (target : Int) : List (Nat × Int) → Int → Nat
  | [], _ => 0
  | x :: l, s => if target < s + x.2 then x.1 else drawAt target l (s + x.2)

/-- Insert by ID. -/
def insertId (x : Nat × Int) : List (Nat × Int) → List (Nat × Int)
  | [] => [x]
  | y :: l => if x.1 < y.1 then x :: y :: l else y :: insertId x l

/-- The sampling record. -/
structure SampleRec where
  base : Nat
  mask : Nat
  automaton : Option Nat
  topk : Nat
  topp : Nat
  tau : Int
  greedy : Bool
deriving Repr

def sampleRec (r : Run) (a : Nat) : Except Fail (SampleRec × Run × Bool) := do
  let (r, c) ← readSpan r 2 a 64
  let f (o n : Nat) : Nat := ldLe r 2 (a + o) n
  let x : SampleRec :=
    { base := a, mask := 16 * f 0x20 4, automaton := if f 0x24 4 = 0xFFFFFFFF then none else some (16 * f 0x24 4),
      topk := f 0x28 4, topp := f 0x2C 4, tau := signed 8 (f 0x30 1), greedy := bit (f 0x31 1) 0 }
  need r (x.topk ≤ 262144 && 1 ≤ x.topp && x.topp ≤ 65536 && -8 ≤ x.tau && x.tau ≤ 15) stLength
  need r (f 0x31 1 < 2 && (span 0x32 14).all fun o => ldByte r 2 (a + o) = 0) stFault
  .ok (x, r, c)

/-- Choose a token from the allowed ones (R280): the token, and whether it is drawn. The hash covers the 32 bytes that seed, stream and
counter take in the record of R279 (log 105). -/
def chooseToken (r : Run) (x : SampleRec) (allowed : List Nat) (logit : Nat → Int) : Nat × Bool :=
  let v := allowed.map fun i => (i, shiftTz (logit i) x.tau)
  let mx := match v with
    | [] => 0
    | y :: l => l.foldl (fun m z => max m z.2) y.2
  let order := sortDesc (v.map fun y => (y.1, vexp2 (satTo 32 ((y.2 - mx) * 256))))
  if x.greedy then ((order.headD (0, 0)).1, false)
  else
    let keep := if x.topk = 0 then order else order.take x.topk
    let keep := if x.topp < 65536 then prefixOf (x.topp * weight keep) keep 0 else keep
    let h := sha256 (ldBytes r 2 x.base 32)
    let target : Int := ((beValue (h.take 8) : Nat) : Int) * weight keep / 2 ^ 64
    (drawAt target (keep.foldl (fun l y => insertId y l) []) 0, true)

/-- The allowed tokens of the mask of a sampling record. -/
def allowedOf (r : Run) (x : SampleRec) (V : Nat) : List Nat :=
  (span 0 V).filter fun k => bit (ldByte r 2 (x.mask + k / 8)).toNat (k % 8)

/-- The counter of a sampling record goes on by one (R279); the record must be the context's to write (R101). -/
def advanceCounter (r q : Run) (x : SampleRec) : Except Fail Run := do
  check r (checkSpan r true 2 x.base (x.base + 63))
  .ok (stageAt q 2 (x.base + 0x18) (bytesBe (beValue (ldBytes r 2 (x.base + 0x18) 8) + 1) 8))

/-- A sampling step that ends in GRAMMAR_DEAD: the automaton is dead from here on, and the return is counted. -/
def deadStep (r : Run) (a : Option Automaton) : Run :=
  countDead (match a with
    | some y => stageAt r 2 (y.base + 0x22) [BitVec.ofNat 8 (b2n y.escape.isSome + 2 + 4 * b2n y.run.isSome)]
    | none => r)

/-- One step of SAMPLE (R280): the token with its flag, none where the grammar is dead, and what the step stages. An escape step leaves
the counter unchanged, as R280 says below its pseudocode (log 105). -/
def sampleStep (r : Run) (x : SampleRec) (a : Option Automaton) (allowed : List Nat) (logit : Nat → Int) :
    Except Fail (Option (Nat × Nat) × Run × Bool) :=
  match a with
  | some y =>
    if y.dead then .ok (none, deadStep r a, false)
    else match forcedToken y with
      | some tok => do
        let (q, c) ← emitToken r y tok false
        .ok (some (tok, 1), q, c)
      | none =>
        if allowed = [] then .ok (none, deadStep r a, false)
        else do
          let (tok, drawn) := chooseToken r x allowed logit
          let esc := (y.escape.map (·.1)) = some tok && allowed = [tok]
          let (q, c) ← emitToken r y tok esc
          let q ← if drawn && !esc then advanceCounter r q x else .ok q
          .ok (some (tok, if esc then 2 else 0), q, c)
  | none =>
    if allowed = [] then .ok (none, deadStep r none, false)
    else do
      let (tok, drawn) := chooseToken r x allowed logit
      let q ← if drawn then advanceCounter r r x else .ok r
      .ok (some (tok, 0), q, false)

def sampleEffect (w : Insn) (r : Run) : Except Fail Act := do
  let (t, r, c0) ← textRecord r
  need r (w.kindA = .store && storeSpace w.a = 2 && w.kindC = .store && storeSpace w.c = 2) stFault
  let res := bytesView w.a 8
  check r (checkView r true res)
  let v ← textView r false w.kindB w.b 2 false
  need r (t.V ≤ v.count) stLength
  let (x, r, c1) ← sampleRec r (storeByte w.c)
  let (r, c2) ← readSpan r 2 x.mask (ceilDiv t.V 8)
  let (a, r, c3) ← match x.automaton with
    | some o => do
      let (a, r, c) ← automatonAt r t o
      check r (checkSpan r true 2 o (o + 175))
      .ok (some a, r, c)
    | none => .ok (none, r, false)
  let count := 32 + ceilDiv t.V 4096
  check r (checkArrival r v.space count v.addrs)
  let (r, c4) ← reading r v
  let (r, c5) ← writing r res res.tuples
  let (out, q, c6) ← sampleStep r x a (allowedOf r x t.V) (fun k => (ldView r v).getD k 0)
  let l := bytesLe (out.getD (0, 4)).1 4 ++ bytesLe (out.getD (0, 4)).2 4
  let record := a.toList.map fun y => (2, y.base, y.base + 175)
  .ok (textAct (stBytes q 2 (storeByte w.a) l) (if out.isSome then corrected (c0 || c1 || c2 || c3 || c4 || c5 || c6) else stGrammarDead)
    count t.V (foot v ++ [(2, x.base, x.base + 63), (2, x.mask, x.mask + ceilDiv t.V 8)] ++ record)
    ([(2, storeByte w.a, storeByte w.a + 7), (2, x.base, x.base + 63)] ++ record) (some (crc64 l)) (some (crc64 l)))

/-- SAMPLE (R158, R280). -/
def execSample (e : Nat) (w : Insn) (s : State) : Host.Outcome State Fault Refusal := .next (issue s e w 0 (sampleEffect w))

/-! ### STOPCHK (R283 to R285) -/

/-- Positions at which characters of a buffer begin. -/
def boundaries (buf : List Nat) : List Nat :=
  ((charsOf buf.length buf).foldl (fun (a : List Nat × Nat) c => (a.1 ++ [a.2], a.2 + c.1.length)) ([], 0)).1

/-- A stop string matches at i, ending past the held bytes. -/
def matchAt (buf : List Nat) (h i : Nat) (s : List Nat) : Bool := (buf.drop i).take s.length = s && h < i + s.length && i + s.length ≤ buf.length

/-- Bytes to keep: the longest suffix on a boundary that may still grow into a stop string or a character. -/
def keepOf (buf : List Nat) (stops : List (List Nat)) : Nat :=
  match (boundaries buf).find? fun i =>
    let s := buf.drop i
    (stops.any fun t => s.length < t.length && t.take s.length = s) || incomplete s with
  | some i => buf.length - i
  | none => 0

/-- The stop record (R283). -/
structure StopRec where
  base : Nat
  flags : Nat
  output : Nat
  /-- Bytes of output so far. -/
  outLen : Nat
  held : List Nat
  stops : List (List Nat)
deriving Repr

/-- The stop record, ranged. -/
def stopRecord (r : Run) (base : Nat) : Except Fail (StopRec × Run × Bool) := do
  let (r, c) ← ownRecord r base 1120
  let f (o n : Nat) : Nat := ldLe r 2 (base + o) n
  let n := f 0 1
  let h := f 1 1
  need r (n ≤ 16 && h ≤ 63 && (span 0 n).all fun i => 1 ≤ f (0x10 + i) 1 && f (0x10 + i) 1 ≤ 64) stLength
  need r (f 2 1 < 8 && f 6 2 = 0) stFault
  .ok ({ base := base, flags := f 2 1, output := f 4 2, outLen := f 8 4, held := (ldBytes r 2 (base + 0x20) h).map BitVec.toNat,
         stops := (span 0 n).map fun i => (ldBytes r 2 (base + 0x60 + 64 * i) (f (0x10 + i) 1)).map BitVec.toNat }, r, c)

/-- The match that STOPCHK takes: where it begins, its string, where it ends; the one that ends first, then the one that begins first. -/
def stopHit (x : StopRec) (buf : List Nat) : Option (Nat × Nat × Nat) :=
  let hits := (boundaries buf).flatMap fun i =>
    (x.stops.zipIdx.filter fun s => matchAt buf x.held.length i s.1).map fun s => (i, s.2, i + s.1.length)
  (lowest (fun k => 65536 * (hits.getD k (0, 0, 0)).2.2 + (hits.getD k (0, 0, 0)).1) (span 0 hits.length)).map fun k => hits.getD k (0, 0, 0)

/-- The first k bytes of a buffer as elements of the output. -/
def releasedElems (x : StopRec) (buf : List Nat) (k : Nat) : List (List Nat × Int) :=
  (buf.take k).zipIdx.map fun p => ([x.outLen + p.2], signed 8 p.1)

/-- The release of the first k bytes of a buffer. -/
def releaseBytes (r : Run) (o : View) (x : StopRec) (buf : List Nat) (k : Nat) : Except Fail (Run × Bool) :=
  (writing r o ((releasedElems x buf k).map (·.1))).map fun y => (stElems y.1 o (releasedElems x buf k), y.2)

/-- One step of STOPCHK over a buffer (R284): how many bytes it releases, whether a match splits the new bytes, and what it writes. -/
def stopStep (r : Run) (o : View) (x : StopRec) (buf : List Nat) : Except Fail (Nat × Bool × Run × Bool) :=
  if bit x.flags 0 then .ok (0, false, r, false)
  else match stopHit x buf with
    | some (i, s, e) => do
      let disc := buf.length - e
      let (q, c) ← releaseBytes r o x buf i
      let q := stageAt q 2 (x.base + 1) [0, BitVec.ofNat 8 (1 + 2 * b2n (0 < disc) + x.flags / 4 * 4), BitVec.ofNat 8 s]
      .ok (i, decide (0 < disc), stageAt q 2 (x.base + 8) (bytesLe (x.outLen + i) 4 ++ bytesLe disc 4), c)
    | none => do
      let keep := if bit x.flags 2 then 0 else keepOf buf x.stops
      let rel := buf.length - keep
      let (q, c) ← releaseBytes r o x buf rel
      let q := stageAt q 2 (x.base + 1) [BitVec.ofNat 8 keep]
      let q := stageAt q 2 (x.base + 8) (bytesLe (x.outLen + rel) 4)
      .ok (rel, false, stageAt q 2 (x.base + 0x20) ((buf.drop rel).map (BitVec.ofNat 8)), c)

def stopchkEffect (w : Insn) (r : Run) : Except Fail Act := do
  let (_, r, c0) ← textRecord r
  need r (w.kindA = .store && storeSpace w.a = 2) stFault
  let (x, r, c1) ← stopRecord r (storeByte w.a)
  let v ← textView r false w.kindB w.b 1 false
  let (o, r, c3) ← namedView r true x.output
  need r ((o.space = 0 || o.space = 2) && o.format = 1 && o.rank = 1) stFault
  let count := 8 + v.count + x.held.length
  check r (checkArrival r v.space count v.addrs)
  let (r, c2) ← reading r v
  let buf := x.held ++ (ldView r v).map (lowBits 8)
  need r (x.outLen + buf.length ≤ o.extent 0) stLength
  let (rel, split, q, c4) ← stopStep r o x buf
  let g := crc64 (elemBytes 1 (((releasedElems x buf rel).filter fun p => !padded q o p.1).map (·.2)))
  .ok (textAct (putCount q w rel) (if split then stSplit else corrected (c0 || c1 || c2 || c3 || c4)) count v.count
    (foot v ++ [(2, x.base, x.base + 1119)]) (foot o ++ [(2, x.base, x.base + 1119)] ++ footReg (slotReg w.c)) (some g) (some g))

/-- STOPCHK (R158, R284). -/
def execStopchk (e : Nat) (w : Insn) (s : State) : Host.Outcome State Fault Refusal := .next (issue s e w 0 (stopchkEffect w))

end Sys2Proof.Machine
end

