-- ==== Sys2Proof/Machine/Media.lean ====
section
/-! DEFINITION. The media class and the decoders: DECODE, FETCHSAMPLE, BATCHCLOSE, the deferred queue, RTP input (R159 to
R161, R299 to R319). -/

namespace Sys2Proof.Machine

open Sys2Proof

/-! ### Records (R309, R315) -/

/-- A stream record. -/
structure StreamRec where
  /-- XS byte offset. -/
  base : Nat
  format : Nat
  pipe : Nat
  stream : Nat
  flags : Nat
  nominal : Nat
  width : Nat
  height : Nat
  semDeferred : Nat
  semUnit : Nat
  entries : Nat
  areaAt : Nat
  entrySize : Nat
  dpbAt : Nat
  dpbSize : Nat
  ringAt : Nat
  ringSize : Nat
  index : Nat
  udp : Nat
  net : Nat
  payloadType : Nat
  ssrc : Nat
  written : Nat
  given : Nat
deriving Repr

/-- A stream record from its 96 bytes. -/
def parseStream (base : Nat) (l : List Byte) : StreamRec :=
  { base := base, format := field l 0 1, pipe := field l 1 1 % 16, stream := field l 1 1 / 16, flags := field l 2 1,
    nominal := field l 4 4, width := field l 8 2, height := field l 0xA 2, semDeferred := field l 0xC 1,
    semUnit := field l 0xD 1, entries := field l 0xE 1, areaAt := field l 0x10 8, entrySize := 2048 * field l 0x18 4,
    dpbAt := field l 0x20 8, dpbSize := 2048 * field l 0x1C 4, ringAt := field l 0x28 8, ringSize := 2048 * field l 0x30 4,
    index := 16 * field l 0x34 4, udp := field l 0x38 2, net := field l 0x3A 1, payloadType := field l 0x3B 1,
    ssrc := field l 0x3C 4, written := field l 0x40 4, given := field l 0x44 4 }

/-- Fields in their ranges (R309). -/
def streamRanged (x : StreamRec) : Bool :=
  x.format ≤ 6 && (if x.format < 3 then x.pipe ≤ 3 && x.stream ≤ 11 else x.pipe ≤ 7) && 1 ≤ x.nominal &&
  (x.format < 4 || (1 ≤ x.width && 1 ≤ x.height)) && x.semDeferred ≤ 63 && x.semUnit ≤ 63 && x.entries ≤ 64 &&
  x.areaAt % 2048 = 0 && x.dpbAt % 2048 = 0 && x.ringAt % 2048 = 0 && x.payloadType ≤ 127

/-- Reserved fields are zero. -/
def streamClean (x : StreamRec) (l : List Byte) : Bool :=
  x.flags < 8 && field l 3 1 = 0 && x.net < 4 && field l 0x50 16 = 0

/-- The stream state that a record names (R299): 16 * pipeline + state of a video pipeline, or 64 + a page pipeline, which has one. -/
def StreamRec.key (x : StreamRec) : Nat := if x.format < 3 then 16 * x.pipe + x.stream else 64 + x.pipe

/-- The pipeline of a stream state, and its record in the facet. -/
def pipeOf (s : State) (key : Nat) : PipeCfg :=
  if key < 64 then tget PipeCfg.none s.facet.videos (key / 16) else { slots := 1, owners := [s.facet.pages.getD (key - 64) 0xFF] }

/-- Time slots of a stream's pipeline, and the slot that serves it: its state modulo w (R299, log 15). -/
def slotsOf (s : State) (key : Nat) : Nat := if key < 64 then max 1 (pipeOf s key).slots else 1

def slotOf (s : State) (key : Nat) : Nat := if key < 64 then key % 16 % slotsOf s key else 0

/-- Two stream states share a slot: the same page pipeline, or the same slot of a video pipeline. -/
def sameSlot (s : State) (k l : Nat) : Bool := if k < 64 && l < 64 then k / 16 = l / 16 && slotOf s k = slotOf s l else k = l

/-- The slot of a stream state belongs to context c under the facet (R161). -/
def ownsSlot (s : State) (c key : Nat) : Bool := (pipeOf s key).owners[slotOf s key]? = some c

/-- Parameters of a stream that its decoder takes: format, flags, and the size of a T.4 or T.6 image. -/
def StreamRec.kind (x : StreamRec) : Nat :=
  x.format + 256 * x.flags + (if 4 ≤ x.format then 2 ^ 16 * x.width + 2 ^ 32 * x.height else 0)

/-- What the headers of a sample say; a T.4 or T.6 image has none, and an access unit of no bytes nothing (R301, R308, R309). A JPEG of
another number of components or other sampling factors than R301 lists is excluded. -/
def sampleInfo (kind : Nat) (empty : Bool) (coded : List Byte) : Config.SampleInfo :=
  let x := if kind % 256 < 4 then Config.parseSample kind coded else default
  let w := kind / 2 ^ 16 % 2 ^ 16
  let h := kind / 2 ^ 32
  if empty then { x with header := 0, width := 0, height := 0, codedWidth := 0, codedHeight := 0, components := [], excluded := false, dpbBytes := 0 }
  else if 4 ≤ kind % 256 then
    { header := 0, width := w, height := h, codedWidth := w, codedHeight := h, deep := false, mono := true, components := [],
      excluded := false, dpbBytes := 0, order := 0, filmGrain := false }
  else if kind % 256 = 3 then
    { x with excluded := x.excluded || !([1, 3, 4].contains x.components.length) ||
        !(x.components.all fun p => 1 ≤ p.1 && p.1 ≤ 2 && 1 ≤ p.2 && p.2 ≤ 2) }
  else x

/-- Planes of a sample: width and height of each (R302). -/
def samplePlanes (kind : Nat) (empty : Bool) (x : Config.SampleInfo) : List (Nat × Nat) :=
  if empty then []
  else if kind % 256 = 3 then
    let hm := (x.components.map (·.1)).foldl max 1
    let vm := (x.components.map (·.2)).foldl max 1
    x.components.map fun p => (ceilDiv (x.width * p.1) hm, ceilDiv (x.height * p.2) vm)
  else
    let c := (ceilDiv x.width 2, ceilDiv x.height 2)
    (x.width, x.height) :: if x.mono then [] else [c, c]

/-- N_b or N_8 of a sample (R303). -/
def sampleBlocks (kind : Nat) (x : Config.SampleInfo) (planes : List (Nat × Nat)) : Nat :=
  if kind % 256 = 3 then planes.foldl (fun n p => n + ceilDiv p.1 8 * ceilDiv p.2 8) 0
  else ceilDiv x.codedWidth 16 * ceilDiv x.codedHeight 16

/-- D_m (R303). -/
def decodeCount (kind slots coded : Nat) (x : Config.SampleInfo) (blocks : Nat) : Nat :=
  let f := kind % 256
  let b := coded - x.header
  if f < 3 then slots * (1024 + 128 * blocks + 4 * b)
  else if f = 3 then 256 + 2 * b + (if x.deep then 24 else 16) * blocks
  else 128 + 2 * b + x.height * (4 + ceilDiv x.width 64)

/-- Bytes of an element (R302). -/
def elemSize (x : Config.SampleInfo) : Nat := if x.deep then 2 else 1

/-- Pitch of a row. -/
def planePitch (w e : Nat) : Nat := 16 * ceilDiv (w * e) 16

/-- Bytes of the planes. -/
def planesBytes (e : Nat) (l : List (Nat × Nat)) : Nat := l.foldl (fun n p => n + planePitch p.1 e * p.2) 0

/-- Rows of a sample's planes: byte offset and elements of each, in order. -/
def planeRows (e : Nat) : Nat → List (Nat × Nat) → List (Nat × Nat)
  | _, [] => []
  | a, (w, h) :: l => ((span 0 h).map fun y => (a + planePitch w e * y, w)) ++ planeRows e (a + planePitch w e * h) l

/-- Byte offsets of a sample's elements, in plane and row order. -/
def planeOffsets (e : Nat) (l : List (Nat × Nat)) : List Nat :=
  (planeRows e 0 l).flatMap fun r => (span 0 r.2).map fun x => r.1 + e * x

/-- Code of a value (R302). -/
def sampleCode (kind : Nat) (deep : Bool) (p : Nat) : Int :=
  if 4 ≤ kind % 256 then (if p = 0 then -128 else 127)
  else if !deep then (p : Int) - 128
  else if kind % 256 = 3 then 16 * (p : Int) - 32768
  else 64 * (p : Int) - 32768

/-- A code as its element holds it. -/
def elemCode (e : Nat) (x : Int) : Int := signed (8 * e) (lowBits (8 * e) x)

/-- The codes of a sample, the background where its data ends early (R302, R305), and whether it is short. -/
def sampleCodes (kind : Nat) (from_ : Config.DecodeInput) (x : Config.SampleInfo) (planes : List (Nat × Nat)) (coded : List Byte) :
    List Int × Bool :=
  let n := (planeOffsets (elemSize x) planes).length
  let got := ((Config.decodeSample kind from_ coded).map (sampleCode kind x.deep)).take n
  ((got ++ List.replicate (n - got.length) (from_.background : Int)).map (elemCode (elemSize x)), got.length < n)

/-- Write a sample's planes. -/
def putPlanes (r : Run) (sp a e : Nat) (planes : List (Nat × Nat)) (xs : List Int) : Run :=
  (List.zip (planeOffsets e planes) xs).foldl (fun q p => stBytes q sp (a + p.1) (bytesLe (lowBits (8 * e) p.2) e)) r

/-- Digest of the planes (R442). -/
def planesDigest (e : Nat) (xs : List Int) : BitVec 64 := crc64 (elemBytes e xs)

/-- Bytes that a picture writes into a DPB area: those that lie in it (R310, log 43). -/
def dpbBytes (kind : Nat) (from_ : Config.DecodeInput) (at_ size : Nat) (coded : List Byte) : List (Nat × Byte) :=
  if 3 ≤ kind % 256 then []
  else ((Config.dpbPicture kind from_ coded).filter fun p => p.1 < size).map fun p => (at_ + p.1, p.2)

/-- A batch descriptor (R315). -/
structure Batch where
  base : Nat
  sealed_ : Bool
  slots : Nat
  background : Nat
  stream : Nat
  filled : Nat
  bound : List Nat
  size : Nat
deriving Repr

/-- Buffer field of slot c. -/
def slotField (r : Run) (b : Batch) (c : Nat) : Nat := ldLe r 2 (b.base + 0x40 + 16 * c) 8

/-- Byte offset and space of a slot's buffer. -/
def bufferAt (r : Run) (b : Batch) (c : Nat) : Nat := slotField r b c % 2 ^ 40

def bufferSpace (r : Run) (b : Batch) (c : Nat) : Nat := slotField r b c / 2 ^ 40 % 4

/-- Read a batch descriptor, ranged; the part knows the batch from now on. Every media instruction may write it (R101). -/
def batchAt (w : Insn) (r : Run) : Except Fail (Batch × Run × Bool) := do
  need r (w.kindA = .store && storeSpace w.a = 2) stFault
  let a := storeByte w.a
  let (r, c) ← ownRecord r a 1088
  let f (o n : Nat) : Nat := ldLe r 2 (a + o) n
  let b : Batch := { base := a, sealed_ := f 0 1 = 1, slots := f 1 1, background := f 2 2, stream := 16 * f 4 4, filled := f 0x10 8,
                     bound := ((span 0 4).map fun k => f (0x18 + 2 * k) 2).filter fun d => d ≠ 0xFFFF, size := 2048 * f 0x20 4 }
  need r (f 0 1 ≤ 1 && 1 ≤ b.slots && b.slots ≤ 64 && b.bound.all fun d => d < 1024) stLength
  need r (leValue (ldBytes r 2 (a + 0x24) 28) = 0) stFault
  need r ((span 0 b.slots).all fun k => 2 ≤ bufferSpace r b k) stLength
  need r ((span 0 64).all fun k => slotField r b k < 2 ^ 42 && f (0x4D + 16 * k) 1 < 8) stFault
  .ok (b, { r with s := modCtx r.s r.slot fun x => { x with batches := tset false x.batches (a / 16) true } }, c)

/-- Read the stream record a batch names. A stream whose slot the facet gives to no context or to another fails with RESOURCE_HELD
(R161, log 40). -/
def streamAt (r : Run) (a : Nat) : Except Fail (StreamRec × Run × Bool) := do
  let (r, c) ← readSpan r 2 a 96
  let l := ldBytes r 2 a 96
  let x := parseStream a l
  need r (streamRanged x) stLength
  need r (streamClean x l) stFault
  need r (ownsSlot r.s r.slot x.key) stHeld
  .ok (x, r, c)

/-- Element bytes of a batch's padding: two where its first bound view is int16 (log 15). -/
def padBytes (r : Run) (b : Batch) : List Byte :=
  match b.bound with
  | d :: _ => if (descAt r d).format = 2 then bytesLe b.background 2 else bytesLe b.background 1
  | [] => bytesLe b.background 1

/-- n bytes of a repeated pattern. -/
def fillBytes (p : List Byte) (n : Nat) : List Byte := ((span 0 (ceilDiv n (max 1 p.length))).flatMap fun _ => p).take n

/-- Fill a slot's buffer with the background (R317). -/
def fillSlot (r : Run) (b : Batch) (c : Nat) : Run := stBytes r (bufferSpace r b c) (bufferAt r b c) (fillBytes (padBytes r b) b.size)

/-- A fill or deferral stays within the context's grant (R318). -/
def grantFits (r : Run) (n : Nat) : Bool :=
  let x := ctxOf r.s r.slot
  let waiting := ((allInsts r.s).filter fun j => j.origin.slot = r.slot && j.origin.cmd ≠ r.i.origin.cmd).foldl
    (fun k j => k + j.deferred.length) r.i.deferred.length
  x.batchHeld + x.batchFlight + waiting + n ≤ x.granted.batch

/-- Fetches of a batch, committed and by this instance. -/
def fetchesOf (r : Run) (b : Nat) : List (Nat × Nat × Nat × Nat) :=
  ((ctxOf r.s r.slot).fetched ++ r.i.fetched).filter fun f => f.1 / 64 = b

/-- A batch as a DECODE or FETCHSAMPLE finds it: a sealed one has no slot filled once it is reopened (R316). -/
def opened (b : Batch) : Batch := if b.sealed_ then { b with sealed_ := false, filled := 0 } else b

/-- What reopening a sealed batch makes of its record and of the ledger (R316, R318): staged writes to the descriptor, the slots back to
the ledger, fetched slots' buffers restored. -/
def reopen (r : Run) (b : Batch) : Run :=
  if !b.sealed_ then r
  else
    let k := b.base / 16
    let r := (fetchesOf r k).foldl (fun q f => stageAt q 2 (b.base + 0x40 + 16 * (f.1 % 64)) (bytesLe f.2.1 8)) r
    let r := stageAt r 2 b.base [0]
    let r := stageAt r 2 (b.base + 8) (List.replicate 16 0)
    let flight := (r.i.fills.filter fun n => n = k).length
    let back := ones b.filled 64 - flight + ((ctxOf r.s r.slot).fetched.filter fun f => f.1 / 64 = k).length
    let i := { r.i with fills := r.i.fills.filter (fun n => n ≠ k), fetched := r.i.fetched.filter (fun f => f.1 / 64 ≠ k),
                        reopened := r.i.reopened ++ [(k, back)] }
    { s := modCtx r.s r.slot fun x => { x with batchHeld := x.batchHeld - back, batchFlight := x.batchFlight - flight }, i := i }

/-- The buffers of a batch being reopened can be written. -/
def buffersFit (r : Run) (b : Batch) : Bool :=
  !b.sealed_ || b.size = 0 ||
  (span 0 b.slots).all fun c => (checkSpan r true (bufferSpace r b c) (bufferAt r b c) (bufferAt r b c + b.size - 1)).isOk

/-- The padding of a reopened batch, in words it covers in part read first (R317, R512). -/
def fillAll (r : Run) (b : Batch) : Except Fail (Run × Bool) :=
  if !b.sealed_ then .ok (r, false)
  else (span 0 b.slots).foldlM (fun (x : Run × Bool) c =>
    (scanning x.1 (bufferSpace x.1 b c) (edgeWords (bufferAt x.1 b c) b.size)).map fun y => (fillSlot y.1 b c, x.2 || y.2)) (r, false)

/-- Slots c to c + k - 1 may be filled (R316). -/
def slotsFree (b : Batch) (c k : Nat) : Bool := c + k ≤ b.slots && (span c k).all fun n => !bit b.filled n

/-- Stage a slot's entry beside its buffer field (R315). -/
def putSlot (r : Run) (b : Batch) (c w h st fl order : Nat) : Run :=
  stageAt r 2 (b.base + 0x48 + 16 * c) (bytesLe w 2 ++ bytesLe h 2 ++ bytesLe st 1 ++ bytesLe fl 1 ++ bytesLe order 2)

/-- A slot is filled: the filled mask is staged, the slot is in flight. -/
def slotFilled (r : Run) (b : Batch) (c : Nat) : Run :=
  let r := stageAt r 2 (b.base + 0x10) (bytesLe (ldLe r 2 (b.base + 0x10) 8 ||| 2 ^ c) 8)
  { s := modCtx r.s r.slot fun x => { x with batchFlight := x.batchFlight + 1 }, i := { r.i with fills := r.i.fills ++ [b.base / 16] } }

/-! ### DECODE (R159, R302 to R314) -/

/-- The stream's reference state as the instance sees it. -/
def referenceOf (r : Run) (k : Nat) : Nat :=
  match (r.i.references.filter fun x => x.1 = k).getLast? with
  | some x => x.2.2
  | none => (streamOf r.s r.slot k).reference

/-- Deferred samples of a stream, queued or about to be. -/
def queuedOf (r : Run) (k : Nat) : List Deferred :=
  (streamOf r.s r.slot k).queue ++ (r.i.deferred.filter fun d => d.1 = k).map (·.2)

/-- A free entry of the deferred area (R313). -/
def deferredEntry (r : Run) (x : StreamRec) : Option Nat :=
  (span 0 x.entries).find? fun e =>
    !((queuedOf r x.key).any fun d => d.entry = e) && !((streamOf r.s r.slot x.key).bound.contains e)

/-- The access unit of coded data carries a gap (R308): the newest index entry of that place and length says so. -/
def unitGap (r : Run) (x : StreamRec) (v : View) (n : Nat) : Bool :=
  let written := x.written + (streamOf r.s r.slot x.key).unitsDue
  let at_ (k : Nat) : Nat := x.index + 16 * ((written - 1 - k) % 256)
  bit x.flags 0 &&
  ((span 0 (min 256 written)).find? fun k =>
    (ldLe r 2 (at_ k) 4 + x.ringAt : Int) * 8 = v.bit0 && ldLe r 2 (at_ k + 4) 4 = n).any fun k => bit (ldLe r 2 (at_ k + 12) 4) 0

/-- Coded data: int8, in XS or DS. -/
def codedView (r : Run) (w : Insn) : Except Fail View := do
  let v ← check r (slotView r false w.kindB w.b)
  need r ((v.space = 2 || v.space = 3) && v.format = 1) stFault
  .ok v

/-- What the decoder of a stream starts a sample with. -/
def decodeInput (r : Run) (x : StreamRec) (b : Batch) : Config.DecodeInput :=
  { reference := referenceOf r x.key, stored := if x.format < 3 then ldBytes r 3 x.dpbAt x.dpbSize else [], background := b.background }

/-- The run after a DECODE that decodes at once: planes or background in the slot's buffer, the picture in the DPB, the slot's entry, the
filled mask and the ledger, the stream's reference. -/
def decodedNow (q : Run) (b : Batch) (x : StreamRec) (c sp a : Nat) (info : Config.SampleInfo) (planes : List (Nat × Nat)) (xs : List Int)
    (picture : List (Nat × Byte)) (short empty : Bool) (next : Nat) : Run :=
  let q := if empty then fillSlot q b c else putPlanes q sp a (elemSize info) planes xs
  let q := picture.foldl (fun q p => stByte q 3 p.1 p.2) q
  let q := putSlot q b c info.width info.height (if short then stShort else stOk) (b2n short + 4 * b2n info.filmGrain) info.order
  let q := slotFilled q b c
  { q with i := { q.i with references := q.i.references ++ [(x.key, x.base / 16, next)] } }

/-- A sample that a DECODE defers, in an entry of the deferred area (R313). -/
def deferredSample (b : Batch) (x : StreamRec) (info : Config.SampleInfo) (short empty : Bool) (coded : List Byte) (entry : Nat) : Deferred :=
  { entry := entry, width := info.width, height := info.height, order := info.order, format := x.kind, short := short,
    grain := info.filmGrain, background := b.background, record := x.base / 16, place := x.areaAt + entry * x.entrySize,
    size := x.entrySize, dpbAt := x.dpbAt, dpbSize := if x.format < 3 then x.dpbSize else 0, empty := empty, decoded := false,
    digest := 0, coded := coded }

/-- The run after a DECODE that defers its sample. -/
def decodedLater (q : Run) (b : Batch) (k c : Nat) (info : Config.SampleInfo) (sample : Deferred) : Run :=
  let q := { q with i := { q.i with deferred := q.i.deferred ++ [(k, sample)] } }
  putSlot q b c info.width info.height stDeferred 0 info.order

/-- DECODE. Its checks come before the batch is reopened, and nothing of a failing one stays (R128, R311). It runs at any Stop at which its
context runs (log 106). -/
def decodeEffect (w : Insn) (r : Run) : Except Fail Act := do
  let (b0, r, c0) ← batchAt w r
  let v ← codedView r w
  let (x, r, c1) ← streamAt r b0.stream
  let b := opened b0
  let c := w.c.toNat % 64
  need r (slotsFree b c 1 && buffersFit r b0) stLength
  need r (3 ≤ x.format || x.dpbSize = 0 || (checkSpan r true 3 x.dpbAt (x.dpbAt + x.dpbSize - 1)).isOk) stLength
  let (r, c2) ← reading r v
  let (r, c3) ← if x.format < 3 then scanning r 3 (span x.dpbAt x.dpbSize) else .ok (r, false)
  let coded := (ldView r v).map fun y => BitVec.ofNat 8 (lowBits 8 y)
  let k := x.key
  let n := coded.length
  let empty : Bool := bit x.flags 0 && n = 0
  let info := sampleInfo x.kind empty coded
  let planes := samplePlanes x.kind empty info
  let e := elemSize info
  let short := 32 + ceilDiv info.header 16
  let d := decodeCount x.kind (slotsOf r.s k) n info (sampleBlocks x.kind info planes)
  let g := (ctxOf r.s r.slot).granted
  let f := r.s.facet
  let stop (st : Nat) : Except Fail Act := .error { r := r, status := st, count := some short, pj := 250 * short }
  if f.widthCeiling < info.width || f.heightCeiling < info.height || f.pixelCeiling < info.width * info.height ||
      b.size < planesBytes e planes || (x.format < 3 && x.dpbSize < info.dpbBytes) then stop stDims
  else if info.excluded || g.hard * x.nominal < d then stop stOverrun
  else
    let late := g.soft * x.nominal < d || (x.format < 3 && (queuedOf r k).any fun q => !q.decoded)
    let count := short + if late then 0 else ceilDiv (5 * d) 6
    check r (checkArrival r v.space count v.addrs)
    let o := reopen r b0
    need r (grantFits o 1) stLength
    let a := bufferAt o b c
    let sp := bufferSpace o b c
    let act (q : Run) (c4 : Bool) (st count pj : Nat) (dg : Option (BitVec 64)) : Act :=
      { r := q, status := if st = stOk then corrected (c0 || c1 || c2 || c3 || c4) else st, queue := 5, occ := count, count := count, pj := pj,
        reads := foot v ++ [(2, b.base, b.base + 1087), (2, x.base, x.base + 95)],
        writes := [(2, b.base, b.base + 1087), (sp, a, a + b.size)] ++ (if x.format < 3 then [(3, x.dpbAt, x.dpbAt + x.dpbSize)] else []),
        digest := dg, mark := dg, size := n }
    let gap := unitGap r x v n
    if late then do
      need r (planesBytes e planes ≤ x.entrySize) stLength
      match deferredEntry r x with
      | none => failed r stLength
      | some entry => do
        check r (checkSpan r true 3 x.areaAt (x.areaAt + x.entries * x.entrySize - 1))
        let (q, c4) ← fillAll o b0
        let q := decodedLater q b k c info (deferredSample b x info (gap || empty) empty coded entry)
        .ok (act q c4 stDeferred short (250 * short + 250 * ceilDiv (5 * d) 6) none)
    else do
      need r (planesBytes e planes = 0 || (checkSpan r true sp a (a + planesBytes e planes - 1)).isOk) stLength
      let from_ := decodeInput o x b
      let (xs, cut) := sampleCodes x.kind from_ info planes coded
      let picture := if empty then [] else dpbBytes x.kind from_ x.dpbAt x.dpbSize coded
      let (q, c4) ← fillAll o b0
      let (q, c5) ← scanning q sp ((planeRows e 0 planes).flatMap fun l => edgeWords (a + l.1) (e * l.2))
      let isShort := cut || gap || empty
      let st := if isShort then stShort else stOk
      let q := decodedNow q b x c sp a info planes xs picture isShort empty
        (if x.format < 3 && !empty then Config.nextReference x.kind from_ coded else from_.reference)
      .ok (act q (c4 || c5) st count (250 * count) (some (planesDigest e xs)))

/-- DECODE (R159). -/
def execDecode (e : Nat) (w : Insn) (s : State) : Host.Outcome State Fault Refusal := .next (issue s e w 0 (decodeEffect w))

/-! ### FETCHSAMPLE, BATCHCLOSE (R160, R316) -/

/-- Deferred samples bound into slots from c on: the buffer field of the entry, the slot, the ledger (R316). -/
def fetchSamples (q : Run) (b : Batch) (c key : Nat) (l : List Deferred) : Run :=
  l.zipIdx.foldl (fun q p =>
    let d := p.1
    let n := c + p.2
    let old := slotField q b n
    let q := stageAt q 2 (b.base + 0x40 + 16 * n) (bytesLe (d.place % 2 ^ 40 + 3 * 2 ^ 40) 8)
    let q := putSlot q b n d.width d.height (if d.short then stShort else stOk) (b2n d.short + 2 + 4 * b2n d.grain) d.order
    let q := slotFilled q b n
    { q with i := { q.i with fetched := q.i.fetched ++ [(64 * (b.base / 16) + n, old, key, d.entry)] } }) q

/-- Samples of a stream that a FETCHSAMPLE may take: decoded, and not taken by this instance (R160). -/
def fetchable (r : Run) (key : Nat) : List Deferred :=
  let taken := r.i.fetched.filterMap fun f => if f.2.2.1 = key then some f.2.2.2 else none
  (streamOf r.s r.slot key).queue.filter fun d => d.decoded && !(taken.contains d.entry)

def fetchEffect (w : Insn) (r : Run) : Except Fail Act := do
  let (b0, r, c0) ← batchAt w r
  let (x, r, c1) ← streamAt r b0.stream
  let b := opened b0
  let k := (slotValue r.i w.kindB w.b).toNat
  let c := w.c.toNat % 64
  need r (1 ≤ k && k ≤ 64 && slotsFree b c k && buffersFit r b0) stLength
  let key := x.key
  let ready := fetchable r key
  let o := reopen r b0
  need r (k ≤ ready.length && grantFits o k) stLength
  let (q, c2) ← fillAll o b0
  let q := fetchSamples q b c key (ready.take k)
  let dg := crc64 ((ready.take k).flatMap fun d => word64 d.digest)
  let count := 24 + 8 * k
  .ok { r := q, status := corrected (c0 || c1 || c2), queue := 5, occ := count, count := count, pj := 250 * count,
        reads := [(2, b.base, b.base + 1087), (2, x.base, x.base + 95)], writes := [(2, b.base, b.base + 1087)],
        digest := some dg, mark := some dg, size := k }

/-- FETCHSAMPLE (R160). -/
def execFetchsample (e : Nat) (w : Insn) (s : State) : Host.Outcome State Fault Refusal := .next (issue s e w 2 (fetchEffect w))

def closeEffect (w : Insn) (r : Run) : Except Fail Act := do
  let (b, r, c) ← batchAt w r
  let q := if b.sealed_ then r else stageAt (stageAt r 2 b.base [1]) 2 (b.base + 8) (bytesLe b.filled 8)
  .ok { r := q, status := corrected c, queue := 5, occ := 80, count := 80, pj := 250 * 80,
        reads := [(2, b.base, b.base + 1087)], writes := [(2, b.base, b.base + 1087)], digest := none, mark := none, size := 0 }

/-- BATCHCLOSE (R316). -/
def execBatchclose (e : Nat) (w : Insn) (s : State) : Host.Outcome State Fault Refusal := .next (issue s e w 0 (closeEffect w))

/-! ### The deferred queue (R313) -/

/-- A stream record as it stands in XS, by its word offset. -/
def committedStream (s : State) (c k : Nat) : StreamRec := parseStream (16 * k) ((span (16 * k) 96).map (xsByte s c))

/-- A DECODE of the stream state's slot runs. -/
def slotBusy (s : State) (c key : Nat) : Bool :=
  (allInsts s).any fun i => i.origin.slot = c && i.queue.any fun e => e.queue = 5 && s.now < e.done &&
    e.reads.any fun f => f.1 = 2 && f.2.2 = f.2.1 + 95 && sameSlot s (committedStream s c (f.2.1 / 16)).key key

/-- Write planes into DS as a unit. -/
def unitPlanes (s : State) (c a e : Nat) (planes : List (Nat × Nat)) (xs : List Int) : State :=
  (List.zip (planeOffsets e planes) xs).foldl (fun t p => dsPut t c (a + p.1) (bytesLe (lowBits (8 * e) p.2) e)) s

/-- Decode the oldest queued sample of a stream: its planes, its picture in the DPB, its digest, the counts and the post. -/
def decodeDeferred (s : State) (c key : Nat) (d : Deferred) : State :=
  let info := sampleInfo d.format d.empty d.coded
  let planes := samplePlanes d.format d.empty info
  let y := streamOf s c key
  let from_ : Config.DecodeInput :=
    { reference := y.reference, stored := (span d.dpbAt d.dpbSize).map (rdStore (ctxOf s c).stores.ds (ctxOf s c).stores.upDs),
      background := d.background }
  let (xs, cut) := sampleCodes d.format from_ info planes d.coded
  let t := if d.empty then dsPut s c d.place (List.replicate d.size (BitVec.ofNat 8 d.background))
    else unitPlanes s c d.place (elemSize info) planes xs
  let t := if d.empty then t else (dpbBytes d.format from_ d.dpbAt d.dpbSize d.coded).foldl (fun t p => dsPut t c p.1 [p.2]) t
  let d' := { d with decoded := true, short := d.short || cut, digest := planesDigest (elemSize info) xs, coded := [] }
  let t := setStream t c key { y with
    queue := y.queue.map (fun q => if q.entry = d.entry then d' else q), samplesDue := y.samplesDue + 1,
    reference := if d.format % 256 < 3 && !d.empty then Config.nextReference d.format from_ d.coded else y.reference }
  unitPostBound t c (committedStream s c d.record).semDeferred

/-- A queued deferred sample of a stream state finishes decoding (R313): the oldest one not decoded, in a slot where no DECODE runs. -/
def execDeferredDecodeDone (c stream : Nat) (s : State) : Host.Outcome State Fault Refusal :=
  match (streamOf s c stream).queue.find? fun d => !d.decoded with
  | none => .next s
  | some d => if s.iris.stop < 2 || slotBusy s c stream then .next s else .next (decodeDeferred s c stream d)

/-! ### RTP input (R306 to R308) -/

def countDiscard (s : State) : State := { s with media := { s.media with rtpDiscard := bump s.media.rtpDiscard 1 } }

/-- The payload has a form that R306 supports: of H.264, a single NAL unit, a STAP-A or an FU-A; of H.265, a single NAL unit, an aggregation
packet or a fragmentation unit. -/
def payloadOk (format : Nat) (l : List Byte) : Bool :=
  match l with
  | [] => false
  | b :: _ =>
    if format = 0 then let n := b.toNat % 32; (1 ≤ n && n ≤ 24) || n = 28
    else format = 1 && 2 ≤ l.length && b.toNat / 2 % 64 ≤ 49

/-- The packet is one the stream's port accepts (R306). -/
def rtpAccepted (p : RtpPacket) (x : StreamRec) (y : Stream) : Bool :=
  p.version = 2 && p.unicast && payloadOk x.format p.payload && p.payloadType = x.payloadType && p.port = x.net % 2 &&
  p.ipv6 = bit x.net 1 && p.udp = x.udp && (if x.ssrc ≠ 0 then p.ssrc.toNat = x.ssrc else y.ssrc.all fun q => q = p.ssrc)

/-- A sequence number is above the last accepted one (R308). -/
def rtpAbove (y : Stream) (q : BitVec 16) : Bool :=
  match y.lastSeq with
  | none => true
  | some l => 1 ≤ (q - l).toNat && (q - l).toNat ≤ 32767

/-- Units written and not yet given to a DECODE: the port counts its own, which the record shows at a COMMIT (R308, R309). -/
def unitsOut (x : StreamRec) (y : Stream) : Nat := (x.written + y.unitsDue + 2 ^ 32 - x.given) % 2 ^ 32

/-- Offsets and lengths of the units not yet given to a DECODE. -/
def outstanding (s : State) (c : Nat) (x : StreamRec) (y : Stream) : List (Nat × Nat) :=
  (span 0 (min 256 (unitsOut x y))).map fun k =>
    let a := x.index + 16 * ((x.given + k) % 256)
    (leValue ((span a 4).map (xsByte s c)), leValue ((span (a + 4) 4).map (xsByte s c)))

/-- Where a unit of n bytes goes in the ring; none where too little is free (R307, R308). -/
def ringPlace (s : State) (c : Nat) (x : StreamRec) (y : Stream) (n : Nat) : Option Nat :=
  let a := if x.ringSize < y.ringAt + n then 0 else y.ringAt
  if a + n ≤ x.ringSize && (outstanding s c x y).all fun o => o.2 = 0 || a + n ≤ o.1 || o.1 + o.2 ≤ a then some a else none

/-- An access unit of the stream state `k` with the record at word `rec_` is complete (R307, R308): ring bytes, index entry, trace, post;
or it is discarded for a full index. -/
def unitDone (s : State) (c k rec_ : Nat) (bytes : List Byte) (gap : Bool) : State :=
  let x := committedStream s c rec_
  let y := streamOf s c k
  let n := x.written + y.unitsDue
  if 256 ≤ unitsOut x y then countDiscard (setStream s c k { y with discarded := true })
  else
    let place := ringPlace s c x y bytes.length
    let (at_, len, overflows) := match place with
      | some a => (a, bytes.length, false)
      | none => (y.ringAt, 0, true)
    let t := if overflows then s else dsPut s c (x.ringAt + at_) bytes
    let flags := b2n gap + 2 * b2n overflows + 4 * b2n y.discarded
    let t := xsPut t c (x.index + 16 * (n % 256))
      (bytesLe at_ 4 ++ bytesLe len 4 ++ bytesLe (y.unitTime.getD 0).toNat 4 ++ bytesLe flags 4)
    let t := setStream t c k { y with record := rec_, discarded := false, ringAt := if overflows then y.ringAt else at_ + len,
                                      unitsDue := y.unitsDue + 1 }
    let t := trace t 12 c (x.pipe + 16 * x.stream) (n % 2 ^ 32)
      (BitVec.ofNat 64 (len + 2 ^ 32 * b2n gap + 2 ^ 33 * b2n overflows + 2 ^ 34 * b2n y.discarded))
    unitPostBound t c x.semUnit

/-- The unit in progress ends. -/
def closeUnit (s : State) (c k rec_ : Nat) : State :=
  let y := streamOf s c k
  if y.unitTime.isNone then s
  else
    let t := unitDone s c k rec_ y.unitBytes y.gap
    setStream t c k { streamOf t c k with unitTime := none, unitBytes := [], gap := false }

/-- A packet of the stream, in order: a gap truncates the unit, a new timestamp ends it, a marker ends it (R307, R308). -/
def rtpTake (s : State) (c k : Nat) (p : RtpPacket) (format : Nat) : State :=
  let y := streamOf s c k
  let missing := y.lastSeq.any fun l => p.seq ≠ l + 1
  let s := setStream s c k { y with record := p.record, lastSeq := some p.seq, ssrc := some p.ssrc, gap := y.gap || (missing && y.unitTime.isSome) }
  let s := if y.unitTime.any fun t => t ≠ p.timestamp then closeUnit s c k p.record else s
  let y := streamOf s c k
  let y := { y with unitTime := some p.timestamp, unitBytes := if y.gap then y.unitBytes else y.unitBytes ++ Config.annexB format p.payload }
  let s := setStream s c k y
  if p.marker then closeUnit s c k p.record else s

/-- An RTP packet arrives (R306 to R308, R319). -/
def execRtpPacket (p : RtpPacket) (s : State) : Host.Outcome State Fault Refusal :=
  let net := if p.port = 0 then Iface.net0 else Iface.net1
  if !served s net then .next s
  else
    let x := committedStream s p.slot p.record
    let l := (span (16 * p.record) 96).map (xsByte s p.slot)
    let y := streamOf s p.slot x.key
    let state := (ctxOf s p.slot).state
    if !((state = .active || state = .stopped) && streamRanged x && streamClean x l && bit x.flags 0 && ownsSlot s p.slot x.key && rtpAccepted p x y &&
        x.index + 4096 ≤ spaceSize s p.slot 2 && x.ringAt + x.ringSize ≤ spaceSize s p.slot 3) then
      .next (countDiscard s)
    else if !rtpAbove y p.seq then .next { s with media := { s.media with rtpOrder := bump s.media.rtpOrder 1 } }
    else .next (rtpTake s p.slot x.key p x.format)

end Sys2Proof.Machine
end

