-- ==== Sys2Proof/Machine/Quant.lean ====
section
/-! DEFINITION. The quantisation and training classes: QCAL, QCVT, QSTAT, GRADQ, OPTSTEP (R153, R166, R170 to R195). -/

namespace Sys2Proof.Machine

open Sys2Proof

/-- x of a descriptor source (R179): the bias of a constant channel, else the code less the zero point. -/
def sourceValue (r : Run) (v : View) (t : List Nat) : Int :=
  let e := scaleOf r v (v.chanOf t)
  if e.isConst then e.bias else ldElem r v t - v.zero

/-- The code a value converts to (R179), and whether it saturated. -/
def codeOf (f : Nat) (zero : Int) (e : Entry16) (x : Int) : Int × Bool :=
  if e.isConst then (0, false)
  else
    let y := shiftTz x e.shift + zero
    (satFmt f y, satFmt f y ≠ y)

/-- Source and destination agree in extents and channel dimension. -/
def sameShape (a b : View) : Bool := a.ext = b.ext && a.chdim = b.chdim

/-- The value of R176 for bank element (m, n). -/
def correctedBank (r : Run) (b : Bank) (m n : Nat) : Int :=
  let h := b.header
  let e := if h.valid && h.scaled then entryAt r h.bank (if h.perChannel then m else 0) else Entry16.zero
  let row := if h.kind = 1 then 0 else h.zw * rowSumAt b n
  let x := tileAt b (64 * m + n)
  if h.format = 2 then x else x - h.za * e.colsum - row + h.ktot * h.zw * h.za

/-- The column sums that the correction of R176 reads, as a footprint. -/
def footCorrection (r : Run) (h : Header) : List (Nat × Nat × Nat) :=
  if h.valid && h.scaled && h.format ≠ 2 then
    [(2, scaleAt r.s r.slot h.bank 0, scaleAt r.s r.slot h.bank (if h.perChannel then 63 else 0) + 15)]
  else []

/-- The words that the correction of R176 reads for channels below n. -/
def readingCorrection (r : Run) (h : Header) (n : Nat) : Except Fail (Run × Bool) :=
  if h.valid && h.scaled && h.format ≠ 2 then
    scanning r 2 (span (scaleAt r.s r.slot h.bank 0) (16 * if h.perChannel then n else 1))
  else .ok (r, false)

/-- Write codes, counting what saturates (R180). -/
def putCodes (r : Run) (d : View) (xs : List (List Nat × Int × Bool)) : Run :=
  let q := stElems r d (xs.map fun x => (x.1, x.2.1))
  { q with i := { q.i with saturated := q.i.saturated + (xs.filter fun x => x.2.2).length } }

/-- QCVT (R153, R179). -/
def qcvtEffect (w : Insn) (r : Run) : Except Fail Act := do
  let d ← check r (esView r true w.kindA w.a)
  let corr := bit w.c.toNat 0
  let addBias := bit w.c.toNat 1
  need r (scaleFits d) stLength
  let conv (r : Run) (t : List Nat) (x : Int) : List Nat × Int × Bool :=
    let e := scaleOf r d (d.chanOf t)
    (t, codeOf d.format d.zero e (if addBias then x + e.bias else x))
  let n := lanesOf d.count
  let act (q : Run) (c : Bool) (reads : List (Nat × Nat × Nat)) : Act :=
    { r := q, status := corrected c, queue := 3, occ := n, count := n + 5, pj := 60 * n, reads := reads, writes := foot d,
      digest := none, mark := some (viewDigest q d), size := d.count }
  match w.kindB with
  | .descriptor => do
    let v ← check r (esView r false w.kindB w.b)
    need r (!corr && sameShape d v) stFault
    need r (scaleFits v) stLength
    let (r, c1) ← reading r v
    let (r, c2) ← readingScales r v
    let (r, c3) ← readingScales r d
    let (r, c4) ← writing r d d.tuples
    .ok (act (putCodes r d (d.tuples.map fun t => conv r t (sourceValue r v t))) (c1 || c2 || c3 || c4) (foot v ++ footScale r v ++ footScale r d))
  | _ => do
    need r (d.rank = 2 && d.extent 0 ≤ 64 && d.extent 1 ≤ 64) stFault
    let b := bankOf r
    need r (!corr || !b.header.valid || b.header.format = 2 || b.header.bank < 1024) stLength
    let at_ (t : List Nat) : Nat × Nat := (t.getD d.chdim 0, t.getD (1 - d.chdim) 0)
    let val (r : Run) (t : List Nat) : Int :=
      if corr then correctedBank r b (at_ t).1 (at_ t).2 else tileAt b (64 * (at_ t).1 + (at_ t).2)
    let words := (d.tuples.flatMap fun t => [(64 * (at_ t).1 + (at_ t).2) / 4] ++ if corr then [1024 + (at_ t).2 / 4] else []).eraseDups
    let (r, c1) ← readingBank r words
    let (r, c2) ← if corr then readingCorrection r b.header (d.extent d.chdim) else .ok (r, false)
    let (r, c3) ← readingScales r d
    let (r, c4) ← writing r d d.tuples
    .ok (act (putCodes r d (d.tuples.map fun t => conv r t (val r t))) (c1 || c2 || c3 || c4) (footBank ++ footScale r d ++ if corr then footCorrection r b.header else []))

/-- QCVT (R153). -/
def execQcvt (e : Nat) (w : Insn) (s : State) : Host.Outcome State Fault Refusal := .next (issue s e w 0 (qcvtEffect w))

/-! ### QCAL, QSTAT, GRADQ -/

/-- Channels that a target's entries stand for, and the elements of each, padding slots left out (R171, R317). -/
def channelTuples (r : Run) (tgt src : View) : List (Nat × List (List Nat)) :=
  let ts := src.tuples.filter fun t => !padded r src t && !padded r tgt t
  (span 0 tgt.channels).map fun c => (c, ts.filter fun t => tgt.channel (tgt.chanOf t) = c)

/-- The smallest shift that fits both ends, else 31 (R181). -/
def fitShift (f : Nat) (zero lo hi : Int) : Int :=
  let ok (v t : Int) : Bool := let y := shiftTz v t + zero; satFmt f y = y
  match ((span 0 64).map fun (k : Nat) => ((k : Int) - 32)).find? fun t => ok lo t && ok hi t with
  | some t => t
  | none => 31

/-- What calibration makes of a channel's entry (R181, R182): the entry, whether it is constant, and the record's words. -/
def calibrate (f : Nat) (zero : Int) (e : Entry16) (xs : List Int) : Entry16 × Bool × Int × Int :=
  match xs with
  | [] => (e, false, 2 ^ 31 - 1, -(2 ^ 31))
  | x :: l =>
    let lo := l.foldl min x
    let hi := l.foldl max x
    if lo = hi then ({ e with isConst := true, bias := lo }, true, lo, hi)
    else ({ e with isConst := false, shift := if e.override then e.shift else fitShift f zero lo hi }, false, lo, hi)

/-- Calibrate every channel of a target from a source. Answers the run, whether a channel is constant, and the record. -/
def calibrateAll (r : Run) (tgt src : View) : Run × Bool × List (Int × Int) :=
  (channelTuples r tgt src).foldl (fun (a : Run × Bool × List (Int × Int)) c =>
    let (e, k, lo, hi) := calibrate tgt.format tgt.zero (entryAt r tgt.bank c.1) (c.2.map (sourceValue r src))
    (if c.2 = [] then a.1 else putScale a.1 tgt c.1 e, a.2.1 || k, a.2.2 ++ [(lo, hi)])) (r, false, [])

/-- The record of an instruction at a store offset in XS, n bytes long; none where slot C is unused. -/
def recordView (r : Run) (w : Insn) (n : Nat) : Except Fail (Option View) :=
  match w.kindC with
  | .store => do
    let v := bytesView w.c n
    need r (v.space = 2) stFault
    check r (checkView r true v)
    .ok (some v)
  | _ => .ok none

/-- The words that calibration or its statistics read: the source, both views' entries, and what the record's write covers in part. -/
def readingCalibration (r : Run) (tgt src : View) (rec_ : Option View) : Except Fail (Run × Bool) := do
  let (r, c1) ← reading r src
  let (r, c2) ← readingScales r src
  let (r, c3) ← readingScales r tgt
  let (r, c4) ← match rec_ with
    | some v => writing r v v.tuples
    | none => .ok (r, false)
  .ok (r, c1 || c2 || c3 || c4)

/-- QCAL (R153, R181). -/
def qcalEffect (w : Insn) (r : Run) : Except Fail Act := do
  let tgt ← check r (esView r false w.kindA w.a)
  let src ← check r (esView r false w.kindB w.b)
  need r (tgt.scaled && (src.format = 2 || src.format = 3) && sameShape tgt src) stFault
  need r (scaleFits tgt && scaleFits src) stLength
  let rec_ ← recordView r w (8 * tgt.channels)
  let (r, c) ← readingCalibration r tgt src rec_
  let (q, k, l) := calibrateAll r tgt src
  let q := match rec_ with
    | some v => stBytes q 2 (v.bit0.toNat / 8) (l.flatMap fun p => bytesLe (word32 p.1) 4 ++ bytesLe (word32 p.2) 4)
    | none => q
  let n := lanesOf src.count + 2 * ceilDiv tgt.channels 64
  .ok { r := q, status := if k then stConst else corrected c, queue := 3, occ := n, count := n + 12, pj := 60 * n,
        reads := foot src ++ footScale r src ++ footScale r tgt, writes := (rec_.map foot).getD [] ++ footScale r tgt, digest := none,
        mark := none, size := src.count }

/-- QCAL (R153). -/
def execQcal (e : Nat) (w : Insn) (s : State) : Host.Outcome State Fault Refusal := .next (issue s e w 0 (qcalEffect w))

/-- The clip test (R185). -/
def clipped (theta n k : Nat) : Bool := theta * n < k * 65536

/-- An instance that returns SAT_EVENT. -/
def raiseSat (q : Run) (p : Bool) : Run := if p then { q with i := { q.i with satEvent := true } } else q

/-- QSTAT (R184, R185). -/
def qstatEffect (w : Insn) (r : Run) : Except Fail Act := do
  let tgt ← check r (esView r false w.kindA w.a)
  let src ← check r (esView r false w.kindB w.b)
  need r ((src.format = 2 || src.format = 3) && sameShape tgt src && w.kindC = .store) stFault
  need r (scaleFits tgt && scaleFits src) stLength
  let rec_ ← recordView r w (4 * tgt.channels)
  let (r, c) ← readingCalibration r tgt src rec_
  let counts := (channelTuples r tgt src).map fun ch =>
    let e := scaleOf r tgt ch.1
    let out := ch.2.filter fun t => (codeOf tgt.format tgt.zero e (sourceValue r src t)).2
    (ch.2.length, out.length)
  let hit := counts.any fun p => clipped r.i.theta p.1 p.2
  let q := match rec_ with
    | some v => stBytes r 2 (v.bit0.toNat / 8) (counts.flatMap fun p => bytesLe (min p.2 0xFFFFFFFF) 4)
    | none => r
  let n := lanesOf src.count + 2 * ceilDiv tgt.channels 64
  .ok { r := raiseSat q hit, status := if hit then stSat else corrected c, queue := 3, occ := n, count := n + 8, pj := 60 * n,
        reads := foot src ++ footScale r src ++ footScale r tgt, writes := (rec_.map foot).getD [], digest := none, mark := none,
        size := src.count }

/-- QSTAT (R153). -/
def execQstat (e : Nat) (w : Insn) (s : State) : Host.Outcome State Fault Refusal := .next (issue s e w 0 (qstatEffect w))

/-- GRADQ (R166, R188): calibrates as QCAL and converts as QCVT. -/
def gradqEffect (w : Insn) (r : Run) : Except Fail Act := do
  let d ← check r (esView r true w.kindA w.a)
  let v ← check r (esView r false w.kindB w.b)
  need r (d.format = 1 && v.format = 3 && d.scaled && sameShape d v) stFault
  need r (scaleFits d && scaleFits v) stLength
  let (r, c1) ← readingCalibration r d v none
  let (r, c2) ← writing r d d.tuples
  let c := c1 || c2
  let (q, k, _) := calibrateAll r d v
  let q := putCodes q d (d.tuples.map fun t => (t, codeOf d.format d.zero (scaleOf q d (d.chanOf t)) (sourceValue r v t)))
  let n := 2 * lanesOf d.count + 2 * ceilDiv d.channels 64
  .ok { r := q, status := if k then stConst else corrected c, queue := 3, occ := n, count := n + 16, pj := 60 * n,
        reads := foot v ++ footScale r v ++ footScale r d, writes := foot d ++ footScale r d, digest := none,
        mark := some (viewDigest q d), size := d.count }

/-- GRADQ (R166). -/
def execGradq (e : Nat) (w : Insn) (s : State) : Host.Outcome State Fault Refusal := .next (issue s e w 0 (gradqEffect w))

/-! ### OPTSTEP (R189 to R195) -/

/-- The optimiser block. -/
structure OptBlock where
  wOut : Nat
  mIn : Nat
  mOut : Nat
  vIn : Nat
  vOut : Nat
  rIn : Nat
  rOut : Nat
  adaptive : Bool
  refresh : Bool
  b1 : Nat
  b2 : Nat
  ge : Int
  sv : Nat
  sl : Nat
  sd : Nat
  lr : Nat
  eps : Nat
  reserved : Bool
deriving Repr

def parseOpt (l : List Byte) : OptBlock :=
  let m := field l 0x0E 1
  { wOut := field l 0 2, mIn := field l 2 2, mOut := field l 4 2, vIn := field l 6 2, vOut := field l 8 2, rIn := field l 10 2,
    rOut := field l 12 2, adaptive := bit m 0, refresh := bit m 1, b1 := field l 0x0F 1 % 16, b2 := field l 0x0F 1 / 16,
    ge := signed 8 (field l 0x10 1), sv := field l 0x11 1, sl := field l 0x12 1, sd := field l 0x13 1, lr := field l 0x14 2,
    eps := field l 0x16 2, reserved := 4 ≤ m || field l 0x18 8 ≠ 0 }

/-- One element's new weight, moments and residue, and whether it saturated (R191, R193, R194). -/
def optElem (b : OptBlock) (g w m v r : Int) : Int × Int × Int × Int × Bool :=
  let a := m + shiftTz (g - m) b.b1
  let m1 := satTo 16 a
  let q := shiftTz (g * g) b.sv
  let c := v + shiftTz (q - v) b.b2
  let v1 := if b.adaptive then clamp 0 32767 c else v
  let rs := if b.adaptive then vrsqrt (v1 + b.eps) else 2 ^ 24
  let u := shiftTz (b.lr * m1 * rs) b.sl
  let u := if b.sd ≠ 0 then u + shiftTz (w * 2 ^ 15) b.sd else u
  let t := satTo 32 u + r
  let d := t.tdiv (2 ^ 15)
  let w1 := w - d
  let exceeds := satTo 16 w1 ≠ w1
  (satTo 16 w1, m1, v1, if exceeds then 0 else t - d * 2 ^ 15,
   a ≠ m1 || (b.adaptive && c ≠ v1) || satTo 32 u ≠ u || exceeds)

/-- The gradient of an element in moment units (R191). -/
def gradOf (r : Run) (b : OptBlock) (gv : View) (t : List Nat) : Int :=
  let e := scaleOf r gv (gv.chanOf t)
  satTo 32 (if e.isConst then shiftTz e.bias b.ge else shiftTz (ldElem r gv t - gv.zero) (b.ge - e.shift))

/-- Two views touch a byte in common (R190). -/
def viewsOverlap (a b : View) : Bool := a.space = b.space && a.addrs.any fun x => b.addrs.contains x

/-- Refresh the column sums of a weights view (R195). -/
def refreshSums (r : Run) (v : View) : Run :=
  if v.scaled && v.perChannel then
    (span 0 v.channels).foldl (fun q c =>
      putColsum q v c (((v.tuples.filter fun t => v.chanOf t = c).map (ldElem q v)).foldl (· + ·) 0)) r
  else r

def optEffect (w : Insn) (r : Run) : Except Fail Act := do
  let wv ← check r (esView r false w.kindA w.a)
  let gv ← check r (esView r false w.kindB w.b)
  let bv := bytesView w.c 32
  need r (w.kindC = .store && bv.space < 3) stFault
  check r (checkView r false bv)
  let n := 4 * lanesOf wv.count
  check r (checkArrival r bv.space (n + 24) bv.addrs)
  let (r, c0) ← reading r bv
  let b := parseOpt (ldBytes r bv.space (bv.bit0.toNat / 8) 32)
  need r (!b.reserved) stFault
  need r (-64 ≤ b.ge && b.ge ≤ 63 && b.sv ≤ 63 && b.sl ≤ 63 && b.sd ≤ 63) stLength
  let names := [b.wOut, b.mIn, b.mOut, b.rIn, b.rOut] ++ if b.adaptive then [b.vIn, b.vOut] else []
  need r (names.all fun k => k < 1024) stLength
  need r (wv.format = 2 && gv.format = 1 && sameShape wv gv) stFault
  let (r, cd) ← scanning r 2 (names.flatMap fun k => span ((moduleOf r.s r.slot).descKib * 1024 + 64 * k) 64)
  let named (k : Nat) : Except Fail View := do
    let v ← check r (viewAt r false k 0)
    need r (v.space = 0 && v.format = 2 && v.ext = wv.ext) stFault
    .ok v
  let wo ← named b.wOut
  let mi ← named b.mIn
  let mo ← named b.mOut
  let ri ← named b.rIn
  let ro ← named b.rOut
  let vi ← if b.adaptive then named b.vIn else .ok mi
  let vo ← if b.adaptive then named b.vOut else .ok mo
  need r (scaleFits gv && (!b.refresh || scaleFits wo)) stLength
  need r (([wo, mo, ro, vo].all fun o => [wv, gv, mi, ri, vi].all fun i => !viewsOverlap o i)) stFault
  let (r, c1) ← reading r wv
  let (r, c2) ← reading r gv
  let (r, c3) ← reading r mi
  let (r, c4) ← reading r ri
  let (r, c5) ← if b.adaptive then reading r vi else .ok (r, false)
  let (r, c6) ← readingScales r gv
  let (r, c7) ← if b.refresh && wo.perChannel then readingScales r wo else .ok (r, false)
  let (r, c8) ← ([wo, mo, ro] ++ if b.adaptive then [vo] else []).foldlM (fun (x : Run × Bool) v =>
    (writing x.1 v v.tuples).map fun y => (y.1, x.2 || y.2)) (r, false)
  let out := wv.tuples.map fun t =>
    (t, optElem b (gradOf r b gv t) (ldElem r wv t) (ldElem r mi t) (if b.adaptive then ldElem r vi t else 0) (ldElem r ri t))
  let q := stElems r wo (out.map fun o => (o.1, o.2.1))
  let q := stElems q mo (out.map fun o => (o.1, o.2.2.1))
  let q := if b.adaptive then stElems q vo (out.map fun o => (o.1, o.2.2.2.1)) else q
  let q := stElems q ro (out.map fun o => (o.1, o.2.2.2.2.1))
  let q := if b.refresh then refreshSums q wo else q
  let k := (out.filter fun o => o.2.2.2.2.2).length
  let hit := clipped r.i.theta wv.count k
  let q := raiseSat { q with i := { q.i with saturated := q.i.saturated + k } } hit
  .ok { r := q, status := if hit then stSat else corrected (c0 || c1 || c2 || c3 || c4 || c5 || c6 || c7 || c8 || cd), queue := 3, occ := n,
        count := n + 24, pj := 60 * n,
        reads := foot wv ++ foot gv ++ foot mi ++ foot ri ++ foot vi ++ foot bv ++ footScale r gv ++
          names.flatMap (footDesc r),
        writes := foot wo ++ foot mo ++ foot ro ++ foot vo ++ (if b.refresh && wo.perChannel then footScale r wo else []), digest := none, mark := some (viewDigest q wo), size := wv.count }

/-- OPTSTEP (R166, R191). -/
def execOptstep (e : Nat) (w : Insn) (s : State) : Host.Outcome State Fault Refusal := .next (issue s e w 0 (optEffect w))

end Sys2Proof.Machine
end

