-- ==== Sys2Proof/Machine/Scrub.lean ====
section
/-! DEFINITION. Scrub of the SRAMs and of the stack (R210, R216 to R219): one word or one block at a time. -/

namespace Sys2Proof.Machine

open Sys2Proof

/-! ### Words of contexts -/

/-- The store of a scrubbed word with its upsets: ES and CS of context c by virtual engine or group, XS of context c. -/
def scrubStore (x : Stores) : StoreKind → Option (Memory × Table (BitVec 144))
  | .es => some (x.es, x.upEs)
  | .cs => some (x.cs, x.upCs)
  | .xs => some (x.xs, x.upXs)
  | .ds => some (x.ds, x.upDs)
  | _ => none

/-- Put a scrubbed store back. -/
def withScrubbed (x : Stores) (k : StoreKind) (m : Memory) (u : Table (BitVec 144)) : Stores :=
  match k with
  | .es => { x with es := m, upEs := u }
  | .cs => { x with cs := m, upCs := u }
  | .xs => { x with xs := m, upXs := u }
  | .ds => { x with ds := m, upDs := u }
  | _ => x

/-- The address that MEM_ECC_LAST names for a word of a store: within its virtual engine's or group's space (log 9). -/
def wordName (k : StoreKind) (w : Nat) : Nat := if k = .es || k = .cs then w % 2 ^ 26 else w

/-- Read one word at key 16 * w of a context's store: a corrected word is rewritten and counted, an uncorrectable one tears its
context down (R217, R218). -/
def scrubWord (s : State) (c : Nat) (k : StoreKind) (w : Nat) (core : Nat) : State :=
  match scrubStore (ctxOf s c).stores k with
  | none => s
  | some (m, u) =>
    match eccDecode (tget 0 u w) with
    | .good => s
    | .corrected _ =>
      let (m, u) := wrStore m u (16 * w) (rdStore m u (16 * w))
      countCorrected (modCtx s c fun x => { x with stores := withScrubbed x.stores k m u }) (kindCode k) 1
    | .uncorrectable => ctxWord s c (kindCode k) (wordName k w) core none

/-- Read one word of the accumulator bank of context c on an engine (R200). -/
def scrubBank (s : State) (c engine w : Nat) : State :=
  let b := tget Bank.clear (ctxOf s c).banks engine
  match eccDecode (tget 0 b.up w) with
  | .good => s
  | .corrected _ => countCorrected (modCtx s c fun x => { x with banks := tset Bank.clear x.banks engine (settleBank b [w]) }) 1 1
  | .uncorrectable => ctxWord s c 1 w (engine / 4) none

/-- Words of the part's reserved XS (R198). -/
def reservedXsWords : Nat := 16384

/-- The core that holds a scrubbed word. -/
def scrubCore (s : State) (k : StoreKind) (c index : Nat) : Nat :=
  match k with
  | .es => tget 0 (ctxOf s c).bindings index / 4
  | .cs => tget 0 (ctxOf s c).cores index
  | _ => 0

/-! ### Words outside the contexts' shares (R218) -/

/-- Read a word of a table of upsets outside every share: what is read corrected is rewritten by `fix` and counted, what is not is reported
and, where its row of R218 rewrites it, rewritten as well. -/
def scrubPart (s : State) (code w : Nat) (up : Table (BitVec 144)) (rewrites : Bool) (fix : State → State) : State :=
  match eccDecode (tget 0 up w) with
  | .good => s
  | .corrected _ => countCorrected (fix s) code 1
  | .uncorrectable => let t := partWord s code w; if rewrites then fix t else t

/-- A byte of a line ring's slot takes its delivered value. -/
def fixLineByte (p : Port) (pitch off : Nat) : Port :=
  let x := tget { line := 0, bytes := [] } p.ring (off / pitch)
  let b := delivered p.upRing off (x.bytes.getD (off % pitch) 0)
  { p with ring := tset { line := 0, bytes := [] } p.ring (off / pitch) { x with bytes := x.bytes.set (off % pitch) b } }

/-- A word of port p's line ring is rewritten as delivered. -/
def fixLine (s : State) (p w : Nat) : State :=
  let x := (span (16 * w) 16).foldl (fun x off => fixLineByte x (max 1 (linePitch s p)) off) (portOf s p)
  setPort s p { x with upRing := tset 0 x.upRing w 0 }

/-- A word of the audio ring is rewritten as delivered; a bad one as silence. -/
def fixRing (s : State) (w : Nat) : State :=
  let i := s.island
  { s with island := { i with ring := wrBytes i.ring (16 * w) ((span (16 * w) 16).map (audioByte i)), upRing := tset 0 i.upRing w 0 } }

/-- A word of one of Glint's banks is rewritten as delivered. -/
def fixGlint (s : State) (active : Bool) (w : Nat) : State :=
  let g := s.glint
  let word (m : Memory) (u : Table (BitVec 144)) := wrBytes m (16 * w) ((span (16 * w) 16).map (rdStore m u))
  { s with glint := if active then { g with active := word g.active g.upActive, upActive := tset 0 g.upActive w 0 }
                    else { g with window := word g.window g.upWindow, upWindow := tset 0 g.upWindow w 0 } }

/-- Glint's banks: the active one is lost with a bad word, the window's is its owner's (R218). -/
def scrubGlint (s : State) (active : Bool) (w : Nat) : State :=
  let g := s.glint
  match eccDecode (tget 0 (if active then g.upActive else g.upWindow) w) with
  | .good => s
  | .corrected _ => countCorrected (fixGlint s active w) 3 1
  | .uncorrectable =>
    let t := ctxWord s s.facet.glintOwner 3 w 0 none
    if active then clearBanks t else t

/-- The part's own areas: its reserved XS, a port's line buffer, the audio ring (index 0) and the island's other SRAM, the warden's SRAM. -/
def scrubOwn (s : State) (k : StoreKind) (index w : Nat) : State :=
  match k with
  | .xs => scrubPart s 3 w s.mem.upPartXs true fun t => { t with mem := { t.mem with upPartXs := tset 0 t.mem.upPartXs w 0 } }
  | .lineBuffer => scrubPart s 5 w (portOf s index).upRing false fun t => fixLine t index w
  | .island =>
    if index = 0 then scrubPart s 6 w s.island.upRing true fun t => fixRing t w
    else scrubPart s 6 w s.mem.upIsland true fun t => { t with mem := { t.mem with upIsland := tset 0 t.mem.upIsland w 0 } }
  | .warden => scrubPart s 7 w s.mem.upWarden true fun t => { t with mem := { t.mem with upWarden := tset 0 t.mem.upWarden w 0 } }
  | _ => s

/-- A word of a step that is free or being cleared; only a clear rewrites one that cannot be corrected. -/
def scrubFree (s : State) (k : StoreKind) (step w : Nat) : State :=
  let key := freeKey k step + w
  match eccDecode (tget 0 s.mem.upFree key) with
  | .good => s
  | .corrected _ => countCorrected { s with mem := { s.mem with upFree := tset 0 s.mem.upFree key 0 } } (kindCode k) 1
  | .uncorrectable => partWord s (kindCode k) w

/-- A pass ends with the last word of the part's own XS. -/
def endPass (s : State) (k : StoreKind) (word : Nat) : State :=
  if k = .xs && word = reservedXsWords - 1 then counterEvent { s with mem := { s.mem with sramPasses := bump s.mem.sramPasses 1 } } 0x70024 stOk
  else s

/-- SRAM_SCRUB (R216): word `word` of virtual engine, group or engine's bank `index` of slot c. Slot 32 is the part's own areas, the last word of
its own XS ending a pass; 33 the steps that no context holds, by step; 34 Glint's banks, index 0 the active one (log 9). -/
def execSramScrub (k : StoreKind) (c : Nat) (index : Nat) (word : Nat) (s : State) : Host.Outcome State Fault Refusal :=
  if s.iris.stop = 0 || s.sys.halted then .next s
  else if c = 34 then .next (scrubGlint s (index = 0) word)
  else if c = 33 then .next (scrubFree s k index word)
  else if 32 ≤ c then .next (endPass (scrubOwn s k index word) k word)
  else match k with
    | .es | .cs => .next (scrubWord s c k (2 ^ 26 * index + word) (scrubCore s k c index))
    | .xs => .next (scrubWord s c k word 0)
    | .bank => .next (scrubBank s c index word)
    | _ => .next s

/-! ### The stack (R210) -/

/-- Pages before page p that slot c holds: the page's place in the context's DS (R197, R211). -/
def pageRank (t : Table Owner) (c p : Nat) : Nat := (t.filter fun e => decide (e.1 < p) && decide (e.2 = .held c)).length

/-- A pass ends with the last page. -/
def nextPage (s : State) : State :=
  if s.mem.dsPage + 1 < 16384 then { s with mem := { s.mem with dsPage := s.mem.dsPage + 1, dsBlock := 0 } }
  else counterEvent { s with mem := { s.mem with dsPage := 0, dsBlock := 0, dsPasses := bump s.mem.dsPasses 1 } } 0x70020 stOk

/-- Pages being zeroed are skipped. -/
def skipPages : Nat → State → State
  | 0, s => s
  | n + 1, s => if isClearing (tget .free s.ledgers.ds s.mem.dsPage) then skipPages n (nextPage s) else s

/-- The words of a block of a context's page. -/
def scrubBlock (s : State) (c first : Nat) : State :=
  ((((ctxOf s c).stores.upDs).filter fun e => first ≤ e.1 && e.1 < first + 128).map (·.1)).foldl (fun t w => scrubWord t c .ds w 0) s

/-- The words of a block of a page that no context holds: a free page, or one of the part's 64, which are the last (R198). -/
def scrubFreeBlock (s : State) (p b : Nat) : State :=
  if p < 16320 then
    (((freeUpsets s .ds p).filter fun e => e.1 / 128 = (freeKey .ds p + 128 * b) / 128).map (·.1)).foldl
      (fun t k => scrubFree t .ds p (k - freeKey .ds p)) s
  else
    let first := 2 ^ 17 * (p - 16320) + 128 * b
    ((s.mem.upPartDs.filter fun e => first ≤ e.1 && e.1 < first + 128).map (·.1)).foldl (fun t w =>
      scrubPart t 4 w t.mem.upPartDs true fun u => { u with mem := { u.mem with upPartDs := tset 0 u.mem.upPartDs w 0 } }) s

/-- DS_SCRUB_LANE: the next block of the walk over 16,384 pages. -/
def execDsScrubLane (s : State) : Host.Outcome State Fault Refusal :=
  if s.iris.stop = 0 || s.sys.halted then .next s
  else
    let t := skipPages 16384 s
    let p := t.mem.dsPage
    let b := t.mem.dsBlock
    let u := match tget .free t.ledgers.ds p with
      | .held c => scrubBlock t c (2 ^ 17 * pageRank t.ledgers.ds c p + 128 * b)
      | _ => scrubFreeBlock t p b
    .next (if b + 1 < 1024 then { u with mem := { u.mem with dsBlock := b + 1 } } else nextPage u)

end Sys2Proof.Machine
end

