-- ==== Sys2Proof/Machine/Time.lean ====
section
/-! DEFINITION. The time class: ATL, WAITL, BEAT and the ends of their waits (R35 to R40, R131). -/

namespace Sys2Proof.Machine

open Sys2Proof

/-- Target line and phase of an ATL (R131). -/
def atlTarget (i : Inst) (w : Insn) : Line × Nat :=
  let a := (slotValue i w.kindA w.a).toNat
  let b := (slotValue i w.kindB w.b).toNat
  let t := a + 2 ^ 32 * (b % 65536)
  let t := if bit w.c.toNat 0 then (sreg i 0).toNat + 2 ^ 32 * (sreg i 1).toNat + t else t
  (BitVec.ofNat 48 t, b / 65536)

/-- An ATL whose target was reached when it came up: on the next edge, counted and traced late (R39). -/
def issueLate (s : State) (e : Nat) (i : Inst) (t : Line) (p edge : Nat) : State :=
  let s := { s with lix := { s.lix with late := bump s.lix.late 1 } }
  let s := traceOn s (edge + 1) 8 i.origin.slot i.origin.cmd (instrIndex s i i.pc) (BitVec.ofNat 64 (t.toNat + 2 ^ 48 * p))
  setInst s e (nextPc (stageDone { i with late := true, wait := .none } (edge + 1) 1))

/-- ATL (R131, R38, R39). -/
def execAtl (e : Nat) (w : Insn) (s : State) : Host.Outcome State Fault Refusal :=
  let more := if bit w.c.toNat 0 then [(0, 0), (1, 1)] else []
  match comeUp s e w 3 true more with
  | .no => .next s
  | .passed t => .next t
  | .go t i edge =>
    let (line, p) := atlTarget i w
    if targetReached t line p then .next (issueLate t e i line p edge)
    else .next (setInst t e { i with wait := .line line p true false })

/-- WAITL (R40, R131). -/
def execWaitl (e : Nat) (w : Insn) (s : State) : Host.Outcome State Fault Refusal :=
  match comeUp s e w 3 true [] with
  | .no => .next s
  | .passed t => .next t
  | .go t i edge =>
    let n := (slotValue i w.kindA w.a).toNat + 2 ^ 32 * (slotValue i w.kindB w.b).toNat
    if 2 ^ 47 ≤ n then .next (stageFail t e i stLength edge)
    else if n = 0 then .next (setInst t e (nextPc (stageDone i edge 1)))
    else .next (setInst t e { i with wait := .line (t.lix.count + BitVec.ofNat 48 n) 0 false false })

/-- BEAT (R131): it waits for the b-th beat after it comes up. -/
def execBeat (e : Nat) (w : Insn) (s : State) : Host.Outcome State Fault Refusal :=
  match comeUp s e w 1 true [] with
  | .no => .next s
  | .passed t => .next t
  | .go t i edge =>
    let b := (slotValue i w.kindA w.a).toNat
    if b = 0 then .next (setInst t e (nextPc (stageDone i edge 1)))
    else .next (setInst t e { i with wait := .beat (t.iris.beats + b) })

/-- A wait may end on engine e: its instance runs, is not held, and the part issues. -/
def waiting (s : State) (e : Nat) : Option Inst :=
  match (engOf s e).run with
  | some i => if !s.sys.halted && !i.halted && (engOf s e).draining.isNone && (ctxOf s i.origin.slot).tear.isNone then some i else none
  | none => none

/-- The edge on which a target that lies behind was reached: its phase's edge within the present line, else the edge that ended its line
(R36, R37, R39). -/
def reachedEdge (s : State) (t : Line) (p : Nat) : Nat :=
  if s.lix.hold then s.now else if s.lix.count = t then s.lix.edgeAt + p else s.lix.edgeAt

/-- The edge on which a target is reached, where it lies behind or ahead within the present line (R37, R38). -/
def phaseEdge (s : State) (t : Line) (p : Nat) : Option Nat :=
  if targetReached s t p then some (reachedEdge s t p)
  else if s.lix.count = t && !s.lix.hold && p ≤ 65535 then some (s.now + (p - s.lix.phase.toNat))
  else none

/-- The wait of an ATL or WAITL ends (R35, R36, R38, R40), on the edge on which its target was reached whenever the command comes. Time
moves to the phase's edge where the line is the target's. An ATL that was resumed issues late where its target was reached when it came up
again (R39, R361). -/
def execLineWaitEnd (e : Nat) (s : State) : Host.Outcome State Fault Refusal :=
  match waiting s e with
  | none => .next s
  | some i =>
    match i.wait with
    | .line t p _ resumed =>
      match phaseEdge s t p with
      | none => .next s
      | some at_ =>
        if resumed && at_ ≤ i.nextIssue then .next (issueLate s e i t p i.nextIssue)
        else
          let edge := max at_ i.nextIssue
          .next (setInst (advanceTo s edge) e (nextPc (stageDone { i with wait := .none } edge 1)))
    | _ => .next s

/-- The wait of a BEAT ends on its beat edge (R131). -/
def execBeatWaitEnd (e : Nat) (s : State) : Host.Outcome State Fault Refusal :=
  match waiting s e with
  | none => .next s
  | some i =>
    match i.wait with
    | .beat n =>
      if n ≤ s.iris.beats then .next (setInst s e (nextPc (stageDone { i with wait := .none } (max s.now i.nextIssue) 1))) else .next s
    | _ => .next s

end Sys2Proof.Machine
end

