-- ==== Sys2Proof/Machine/Dispatch.lean ====
section
/-! DEFINITION. The dispatch: one arm per constructor of `Instr`, each a direct call of its meaning. -/

namespace Sys2Proof.Machine

open Sys2Proof

/-- The effect of a command on everything but the queue. -/
def exec (i : Instr) (s : State) : Host.Outcome State Fault Refusal :=
  match i with
  | .atl e w => Sys2Proof.Machine.execAtl e w s
  | .waitl e w => Sys2Proof.Machine.execWaitl e w s
  | .beat e w => Sys2Proof.Machine.execBeat e w s
  | .lineWaitEnd e => Sys2Proof.Machine.execLineWaitEnd e s
  | .beatWaitEnd e => Sys2Proof.Machine.execBeatWaitEnd e s
  | .br e w => Sys2Proof.Machine.execBr e w s
  | .call e w => Sys2Proof.Machine.execCall e w s
  | .ret e w => Sys2Proof.Machine.execRet e w s
  | .loop e w => Sys2Proof.Machine.execLoop e w s
  | .halt e w => Sys2Proof.Machine.execHalt e w s
  | .semwait e w => Sys2Proof.Machine.execSemwait e w s
  | .semaphoreGrant k => Sys2Proof.Machine.execSemaphoreGrant k s
  | .sempost e w => Sys2Proof.Machine.execSempost e w s
  | .credit e w => Sys2Proof.Machine.execCredit e w s
  | .creditGrant e => Sys2Proof.Machine.execCreditGrant e s
  | .barrier e w => Sys2Proof.Machine.execBarrier e w s
  | .commit e w => Sys2Proof.Machine.execCommit e w s
  | .load e w => Sys2Proof.Machine.execLoad e w s
  | .store e w => Sys2Proof.Machine.execStore e w s
  | .copy e w => Sys2Proof.Machine.execCopy e w s
  | .gather e w => Sys2Proof.Machine.execGather e w s
  | .halo e w => Sys2Proof.Machine.execHalo e w s
  | .mma e w => Sys2Proof.Machine.execMma e w s
  | .conv e w => Sys2Proof.Machine.execConv e w s
  | .dwconv e w => Sys2Proof.Machine.execDwconv e w s
  | .pool e w => Sys2Proof.Machine.execPool e w s
  | .vadd e w => Sys2Proof.Machine.execVadd e w s
  | .vmul e w => Sys2Proof.Machine.execVmul e w s
  | .vshift e w => Sys2Proof.Machine.execVshift e w s
  | .vmax e w => Sys2Proof.Machine.execVmax e w s
  | .vsum e w => Sys2Proof.Machine.execVsum e w s
  | .vexp2 e w => Sys2Proof.Machine.execVexp2 e w s
  | .vrcp e w => Sys2Proof.Machine.execVrcp e w s
  | .vrsqrt e w => Sys2Proof.Machine.execVrsqrt e w s
  | .vsoftmax e w => Sys2Proof.Machine.execVsoftmax e w s
  | .vnorm e w => Sys2Proof.Machine.execVnorm e w s
  | .vrope e w => Sys2Proof.Machine.execVrope e w s
  | .qcal e w => Sys2Proof.Machine.execQcal e w s
  | .qcvt e w => Sys2Proof.Machine.execQcvt e w s
  | .qstat e w => Sys2Proof.Machine.execQstat e w s
  | .kvappend e w => Sys2Proof.Machine.execKvappend e w s
  | .kvattn e w => Sys2Proof.Machine.execKvattn e w s
  | .kvevict e w => Sys2Proof.Machine.execKvevict e w s
  | .kvdrop e w => Sys2Proof.Machine.execKvdrop e w s
  | .tokenize e w => Sys2Proof.Machine.execTokenize e w s
  | .detok e w => Sys2Proof.Machine.execDetok e w s
  | .maskgen e w => Sys2Proof.Machine.execMaskgen e w s
  | .sample e w => Sys2Proof.Machine.execSample e w s
  | .stopchk e w => Sys2Proof.Machine.execStopchk e w s
  | .decode e w => Sys2Proof.Machine.execDecode e w s
  | .fetchsample e w => Sys2Proof.Machine.execFetchsample e w s
  | .batchclose e w => Sys2Proof.Machine.execBatchclose e w s
  | .rsend e w => Sys2Proof.Machine.execRsend e w s
  | .rrecv e w => Sys2Proof.Machine.execRrecv e w s
  | .rrecvMessageReady e => Sys2Proof.Machine.execRrecvMessageReady e s
  | .allred e w => Sys2Proof.Machine.execAllred e w s
  | .gradq e w => Sys2Proof.Machine.execGradq e w s
  | .optstep e w => Sys2Proof.Machine.execOptstep e w s
  | .breakpointHit e => Sys2Proof.Machine.execBreakpointHit e s
  | .admission => Sys2Proof.Machine.execAdmission s
  | .freezeLatch e => Sys2Proof.Machine.execFreezeLatch e s
  | .freezeResume e => Sys2Proof.Machine.execFreezeResume e s
  | .preemptDelayEnd e => Sys2Proof.Machine.execPreemptDelayEnd e s
  | .irisBeat => Sys2Proof.Machine.execIrisBeat s
  | .teardown c => Sys2Proof.Machine.execTeardown c s
  | .shareClearDone k step => Sys2Proof.Machine.execShareClearDone k step s
  | .contextLoaded c m => Sys2Proof.Machine.execContextLoaded c m s
  | .contextRestart c => Sys2Proof.Machine.execContextRestart c s
  | .sramScrub k c index word => Sys2Proof.Machine.execSramScrub k c index word s
  | .dsScrubLane => Sys2Proof.Machine.execDsScrubLane s
  | .lixLineEdge interval => Sys2Proof.Machine.execLixLineEdge interval s
  | .lixRefTick => Sys2Proof.Machine.execLixRefTick s
  | .encIndex => Sys2Proof.Machine.execEncIndex s
  | .clkCollimate => Sys2Proof.Machine.execClkCollimate s
  | .collimationCheck ok => Sys2Proof.Machine.execCollimationCheck ok s
  | .linePacket p pkt => Sys2Proof.Machine.execLinePacket p pkt s
  | .ignoredPacket p => Sys2Proof.Machine.execIgnoredPacket p s
  | .frameStart p n => Sys2Proof.Machine.execFrameStart p n s
  | .frameEnd p n => Sys2Proof.Machine.execFrameEnd p n s
  | .sensorPortRetrain p => Sys2Proof.Machine.execSensorPortRetrain p s
  | .glintSwap => Sys2Proof.Machine.execGlintSwap s
  | .glintPulseExpiry b => Sys2Proof.Machine.execGlintPulseExpiry b s
  | .glintLinePulseEnd b => Sys2Proof.Machine.execGlintLinePulseEnd b s
  | .cciListStart n => Sys2Proof.Machine.execCciListStart n s
  | .cciListEnd n reads => Sys2Proof.Machine.execCciListEnd n reads s
  | .cciNack n entry => Sys2Proof.Machine.execCciNack n entry s
  | .deferredDecodeDone c stream => Sys2Proof.Machine.execDeferredDecodeDone c stream s
  | .rtpPacket pkt => Sys2Proof.Machine.execRtpPacket pkt s
  | .islandMsTick temps budget wakeN => Sys2Proof.Machine.execIslandMsTick temps budget wakeN s
  | .stopRaiseDone => Sys2Proof.Machine.execStopRaiseDone s
  | .idleLowering => Sys2Proof.Machine.execIdleLowering s
  | .forcedLowering => Sys2Proof.Machine.execForcedLowering s
  | .stopLowerStepDone => Sys2Proof.Machine.execStopLowerStepDone s
  | .budgetLevelChange level => Sys2Proof.Machine.execBudgetLevelChange level s
  | .thermalTrip sensor reading => Sys2Proof.Machine.execThermalTrip sensor reading s
  | .tripMainEnFall => Sys2Proof.Machine.execTripMainEnFall s
  | .raiseMainEnReady => Sys2Proof.Machine.execRaiseMainEnReady s
  | .keywordEval score => Sys2Proof.Machine.execKeywordEval score s
  | .wakeNPress => Sys2Proof.Machine.execWakeNPress s
  | .ringFrameEnd pdm => Sys2Proof.Machine.execRingFrameEnd pdm s
  | .ringFrameWriteDone => Sys2Proof.Machine.execRingFrameWriteDone s
  | .sessionTimeout => Sys2Proof.Machine.execSessionTimeout s
  | .shutterClose => Sys2Proof.Machine.execShutterClose s
  | .ringClearDone => Sys2Proof.Machine.execRingClearDone s
  | .endRequest => Sys2Proof.Machine.execEndRequest s
  | .extendRequest => Sys2Proof.Machine.execExtendRequest s
  | .islandMessagePost => Sys2Proof.Machine.execIslandMessagePost s
  | .playEntryQueued y => Sys2Proof.Machine.execPlayEntryQueued y s
  | .playEntryStart => Sys2Proof.Machine.execPlayEntryStart s
  | .playEntryEnd => Sys2Proof.Machine.execPlayEntryEnd s
  | .linkTraining port partner => Sys2Proof.Machine.execLinkTraining port partner s
  | .trainingStepTimeout port => Sys2Proof.Machine.execTrainingStepTimeout port s
  | .linkDown peer => Sys2Proof.Machine.execLinkDown peer s
  | .relayRetrain port => Sys2Proof.Machine.execRelayRetrain port s
  | .peerCut peer => Sys2Proof.Machine.execPeerCut peer s
  | .dataFlit f => Sys2Proof.Machine.execDataFlit f s
  | .releaseFlit f => Sys2Proof.Machine.execReleaseFlit f s
  | .discardFlit f => Sys2Proof.Machine.execDiscardFlit f s
  | .exchangeFlit f => Sys2Proof.Machine.execExchangeFlit f s
  | .creditReturnFlit f => Sys2Proof.Machine.execCreditReturnFlit f s
  | .controlFlit f => Sys2Proof.Machine.execControlFlit f s
  | .heartbeatMiss core tile => Sys2Proof.Machine.execHeartbeatMiss core tile s
  | .remapDone core => Sys2Proof.Machine.execRemapDone core s
  | .spareSelfTest core pass => Sys2Proof.Machine.execSpareSelfTest core pass s
  | .staleTrafficDrop core epoch => Sys2Proof.Machine.execStaleTrafficDrop core epoch s
  | .powerGoodRise x => Sys2Proof.Machine.execPowerGoodRise x s
  | .ready => Sys2Proof.Machine.execReady s
  | .powerGoodFall => Sys2Proof.Machine.execPowerGoodFall s
  | .resetNLow x => Sys2Proof.Machine.execResetNLow x s
  | .read y frame => Sys2Proof.Machine.execRead y frame s
  | .write y frame => Sys2Proof.Machine.execWrite y frame s
  | .post y frame => Sys2Proof.Machine.execPost y frame s
  | .attest y frame => Sys2Proof.Machine.execAttest y frame s
  | .attestSigned => Sys2Proof.Machine.execAttestSigned s
  | .stage y frame => Sys2Proof.Machine.execStage y frame s
  | .spiReplyRead => Sys2Proof.Machine.execSpiReplyRead s
  | .registerWrite y addr value => Sys2Proof.Machine.execRegisterWrite y addr value s
  | .lixSource y value => Sys2Proof.Machine.execLixSource y value s
  | .lixDivider y value => Sys2Proof.Machine.execLixDivider y value s
  | .lixStatusClear y value => Sys2Proof.Machine.execLixStatusClear y value s
  | .lixCountCapture => Sys2Proof.Machine.execLixCountCapture s
  | .audioPositionCapture => Sys2Proof.Machine.execAudioPositionCapture s
  | .sysFacet y value => Sys2Proof.Machine.execSysFacet y value s
  | .facetApply => Sys2Proof.Machine.execFacetApply s
  | .sysCountersClear y value => Sys2Proof.Machine.execSysCountersClear y value s
  | .sysReset y value x => Sys2Proof.Machine.execSysReset y value x s
  | .ctxStop y c => Sys2Proof.Machine.execCtxStop y c s
  | .ctxResume y c => Sys2Proof.Machine.execCtxResume y c s
  | .ctxUnload y c => Sys2Proof.Machine.execCtxUnload y c s
  | .ctxLoad y c => Sys2Proof.Machine.execCtxLoad y c s
  | .irisBudgetLimit y value => Sys2Proof.Machine.execIrisBudgetLimit y value s
  | .qntClipThreshold y c value => Sys2Proof.Machine.execQntClipThreshold y c value s
  | .ledgerSelect y value => Sys2Proof.Machine.execLedgerSelect y value s
  | .glintStatusClear y value => Sys2Proof.Machine.execGlintStatusClear y value s
  | .relayRetrainPort y ports => Sys2Proof.Machine.execRelayRetrainPort y ports s
  | .relayCutPeer y parts => Sys2Proof.Machine.execRelayCutPeer y parts s
  | .eventTail y value => Sys2Proof.Machine.execEventTail y value s
  | .eventData => Sys2Proof.Machine.execEventData s
  | .flashRead y => Sys2Proof.Machine.execFlashRead y s
  | .flashProgram y => Sys2Proof.Machine.execFlashProgram y s
  | .flashErase y => Sys2Proof.Machine.execFlashErase y s
  | .secNvsStageData y value => Sys2Proof.Machine.execSecNvsStageData y value s
  | .storeFacet y slot => Sys2Proof.Machine.execStoreFacet y slot s
  | .enrolKey y slot => Sys2Proof.Machine.execEnrolKey y slot s
  | .revokeKey y slot => Sys2Proof.Machine.execRevokeKey y slot s
  | .writeBootRecord y => Sys2Proof.Machine.execWriteBootRecord y s
  | .secCertData => Sys2Proof.Machine.execSecCertData s
  | .bottomTreeBuilt => Sys2Proof.Machine.execBottomTreeBuilt s
  | .digestChainCapture => Sys2Proof.Machine.execDigestChainCapture s
  | .digestTraceData => Sys2Proof.Machine.execDigestTraceData s
  | .digestReplayCtrl y value => Sys2Proof.Machine.execDigestReplayCtrl y value s
  | .digestReplayData y value => Sys2Proof.Machine.execDigestReplayData y value s
  | .digestMark y value => Sys2Proof.Machine.execDigestMark y value s
  | .digestBreak y value => Sys2Proof.Machine.execDigestBreak y value s
  | .digestBreakResume y => Sys2Proof.Machine.execDigestBreakResume y s
  | .digestPeekData => Sys2Proof.Machine.execDigestPeekData s
  | .encoderTransition ball level => Sys2Proof.Machine.execEncoderTransition ball level s
  | .instructionCompletion e => Sys2Proof.Machine.execInstructionCompletion e s
  | .sensorPortDeskew p ok depth => Sys2Proof.Machine.execSensorPortDeskew p ok depth s
  | .ethernetLinkTraining p rsFec => Sys2Proof.Machine.execEthernetLinkTraining p rsFec s
  | .ethernetLinkDown p => Sys2Proof.Machine.execEthernetLinkDown p s
  | .arpIcmpDhcpFrame p f => Sys2Proof.Machine.execArpIcmpDhcpFrame p f s
  | .nvsCommandDone => Sys2Proof.Machine.execNvsCommandDone s
  | .jtagInstruction op shift => Sys2Proof.Machine.execJtagInstruction op shift s

end Sys2Proof.Machine
end

