-- ==== Sys2Proof/Safety.lean ====
section
/-! DEFINITION. What a safe state of the part is, in the terms the statements use. -/

namespace Sys2Proof.Machine

open Sys2Proof

/-- Every ledger's identity holds (R368). -/
def ledgersHold (s : State) : Bool :=
  ([1, 2, 3, 4, 5].all fun w => ledgerOk s w 0) && (s.ledgers.sems.all fun e => ledgerOk s 6 e.1) &&
  (s.ctxs.all fun e => e.2.credits.all fun p => ledgerOk s 7 (16 * e.1 + p.1)) && ledgerOk s 8 0 && ledgerOk s 9 0

/-- A step that answers a next state. -/
def completes (c : Instr) (s : State) : Prop := ∃ t, exec c s = .next t

end Sys2Proof.Machine
end

