-- ==== Sys2Proof/Certificates/Slice0/Obligations.lean ====
section
/-! DEFINITION. The statements for the provers. -/

namespace Sys2Proof.Machine

open Sys2Proof

/-- A command answers a next state, and that state has a property. -/
def Answers (c : Instr) (s : State) (P : State → Prop) : Prop := ∃ t, exec c s = .next t ∧ P t

/-- The level and the target of the governor are Stop levels (R371). -/
def StopLegal (s : State) : Prop := s.iris.stop ≤ 4 ∧ s.iris.target ≤ 4


/-- The tables of slots and of engines are in canonical form: keys strictly rising, no entry equal to what an unlisted one reads as. -/
def Canonical (s : State) : Prop := tableWf Ctx.empty s.ctxs = true ∧ tableWf Engine.idle s.engines = true
/-- An instruction word with no predicate, no wait bit and no mark. -/
def exampleWord (op : BitVec 8) (ka kb kc : Kind) (a b c : Word) : CodeWord :=
  { opcode := op, insn := { kindA := ka, kindB := kb, kindC := kc, mark := false, predOn := false, predZero := false,
                            predReg := 0, waits := 0, a := a, b := b, c := c } }

/-- Registers the relative form of ATL reads beside its slots (R131). -/
def atlReads (w : Insn) : List (Nat × Nat) := if bit w.c.toNat 0 then [(0, 0), (1, 1)] else []

/-- The edge on which an instruction of the issue stage comes up (R94, R95, R123); `all` for those of R124, which every earlier
instruction of the command comes before. -/
def stageEdge (i : Inst) (w : Insn) (srcs : Nat) (all : Bool) (more : List (Nat × Nat)) : Nat :=
  let edge := issueEdge i w 0 ((scalarReads w srcs ++ more).map fun p => (5, p.2, p.2)) []
  if all then lastDone i.queue edge else edge

/-- What an instruction leaves alone that has issued and reached no store, ledger or unit: everything but time, the trace and the
engine. -/
def OnlyIssued (s t : State) : Prop :=
  t.facet = s.facet ∧ t.clk = s.clk ∧ t.glint = s.glint ∧ t.ctxs = s.ctxs ∧ t.ready = s.ready ∧ t.ledgers = s.ledgers ∧ t.mem = s.mem ∧
  t.media = s.media ∧ t.island = s.island ∧ t.iris = s.iris ∧ t.relay = s.relay ∧ t.sec = s.sec ∧ t.control = s.control ∧
  t.sys = s.sys ∧ t.freeCount = s.freeCount ∧ t.lix.count = s.lix.count ∧ t.lix.late = s.lix.late

/-- An instance goes past its instruction of the issue stage, which takes `n` cycles from an edge: no later instruction issues
before its end (R124), its cycles count what of them was not counted yet (R374), and outside a loop the next instruction follows. -/
def Past (i j : Inst) (edge n : Nat) : Prop :=
  j.nextIssue = edge + n ∧ j.cycles = i.cycles + (max i.front (edge + n) - max i.front edge) ∧ j.energy = i.energy ∧
  j.staged = i.staged ∧ j.wait = i.wait ∧ j.failed = i.failed ∧ j.origin = i.origin ∧ (i.loops = [] → j.pc = i.pc + 1)

/-- The instance that runs on an engine. -/
def Runs (s : State) (e : Nat) (i : Inst) : Prop := (engOf s e).run = some i

/-- A SEMWAIT of n counts can take them on an edge: nobody waits ahead of it and they are free (R363, R364). -/
def semOpen (s : State) (i : Inst) (chip n edge : Nat) : Bool :=
  !((semOf s chip).waiters.any (waiterAhead i.origin.slot edge)) && n ≤ semFreeAt (semOf s chip) edge

/-- An instance has taken counts of a chip semaphore in 2 cycles. -/
def Took (s t : State) (e : Nat) (i : Inst) (chip n edge : Nat) (reg : Option (Nat × Word)) : Prop :=
  ∃ j, t = setInst (semTake s chip n) e j ∧ Past { i with wait := .none } j edge 2 ∧ j.holds = tmod 0 i.holds chip (· + n) ∧
    (i.loops = [] → j.regs = (match reg with
      | some (k, v) => tset 0 i.regs k v
      | none => i.regs))

/-- An instance goes past an instruction of the link queue whose wait has ended: the instruction stands in queue 6 for n cycles from an edge
(R122, R124), and the next one may issue on the edge after it. -/
def PastLink (i j : Inst) (edge n : Nat) : Prop :=
  j.nextIssue = edge + 1 ∧ j.cycles = i.cycles + (max i.front (edge + n) - max i.front edge) ∧ j.energy = i.energy ∧
  j.staged = i.staged ∧ j.wait = .none ∧ j.failed = i.failed ∧ j.origin = i.origin ∧ (i.loops = [] → j.pc = i.pc + 1) ∧
  j.queue = i.queue ++ [{ queue := 6, done := edge + n, reads := [], writes := [], mark := none, ring := none }]

/-- An instance has taken credits toward a peer in 2 cycles. -/
def TookCredits (s t : State) (e : Nat) (i : Inst) (p n edge : Nat) : Prop :=
  ∃ j, PastLink i j edge 2 ∧ j.credits = tmod 0 i.credits p (· + n) ∧
    t = setInst (setCredit s i.origin.slot p { creditOf s i.origin.slot p with
      free := (creditOf s i.origin.slot p).free - n, held := (creditOf s i.origin.slot p).held + n }) e j

/-- The instructions that issue to a queue (R122): engine, word, which of the slots a scalar is read from, and what the
instruction does to the stores. -/
def queuedMeaning : Instr → Option (Nat × Insn × Nat × Effect)
  | .load e w => some (e, w, 2, (loadEffect w))
  | .store e w => some (e, w, 0, (storeEffect w))
  | .copy e w => some (e, w, 0, (copyEffect w))
  | .gather e w => some (e, w, 0, (gatherEffect w))
  | .halo e w => some (e, w, 0, (haloEffect w))
  | .mma e w => some (e, w, 0, (mmaEffect w))
  | .conv e w => some (e, w, 0, (convEffect w))
  | .dwconv e w => some (e, w, 0, (dwconvEffect w))
  | .pool e w => some (e, w, 0, (poolEffect w))
  | .vadd e w => some (e, w, 6, (binaryEffect (fun x y => x + y) w))
  | .vmul e w => some (e, w, 6, (binaryEffect (fun x y => x * y) w))
  | .vshift e w => some (e, w, 6, (binaryEffect shiftElem w))
  | .vmax e w => some (e, w, 6, (binaryEffect max w))
  | .vsum e w => some (e, w, 0, (vsumEffect w))
  | .vexp2 e w => some (e, w, 0, (unaryEffect vexp2 w))
  | .vrcp e w => some (e, w, 0, (unaryEffect vrcp w))
  | .vrsqrt e w => some (e, w, 0, (unaryEffect vrsqrt w))
  | .vsoftmax e w => some (e, w, 0, (softmaxEffect w))
  | .vnorm e w => some (e, w, 0, (normEffect w))
  | .vrope e w => some (e, w, 0, (ropeEffect w))
  | .qcal e w => some (e, w, 0, (qcalEffect w))
  | .qcvt e w => some (e, w, 0, (qcvtEffect w))
  | .qstat e w => some (e, w, 0, (qstatEffect w))
  | .gradq e w => some (e, w, 0, (gradqEffect w))
  | .optstep e w => some (e, w, 0, (optEffect w))
  | .kvappend e w => some (e, w, 0, (appendEffect w))
  | .kvattn e w => some (e, w, 0, (attnEffect w))
  | .kvevict e w => some (e, w, 2, (evictEffect w))
  | .kvdrop e w => some (e, w, 0, (dropEffect w))
  | .tokenize e w => some (e, w, 0, (tokenizeEffect w))
  | .detok e w => some (e, w, 0, (detokEffect w))
  | .maskgen e w => some (e, w, 2, (maskgenEffect w))
  | .sample e w => some (e, w, 0, (sampleEffect w))
  | .stopchk e w => some (e, w, 0, (stopchkEffect w))
  | .decode e w => some (e, w, 0, (decodeEffect w))
  | .fetchsample e w => some (e, w, 2, (fetchEffect w))
  | .batchclose e w => some (e, w, 0, (closeEffect w))
  | .rsend e w => some (e, w, 0, (rsendEffect w))
  | _ => none

/-- The state and the instance an instruction's effect works on: the present ones, the reads of a marked instruction traced. -/
def runAt (s : State) (i : Inst) (w : Insn) (srcs : Nat) : Run := { s := traceReads s i w (scalarReads w srcs), i := i }

/-- What a queued instruction reads beside its elements: its registers, its descriptors, the scale entries they name (R95). -/
def sideReads (s : State) (i : Inst) (w : Insn) (srcs : Nat) : List (Nat × Nat × Nat) :=
  ((scalarReads w srcs).map fun p => (5, p.2, p.2)) ++ slotReads { s := s, i := i } w

/-- The issue edge of a queued instruction that does a (R94, R95, R122, R123). -/
def queueEdge (s : State) (i : Inst) (w : Insn) (srcs : Nat) (a : Act) : Nat :=
  issueEdge i w a.queue (a.reads ++ sideReads s i w srcs) a.writes

/-- What a queued instruction comes to whose effect answers a: the stores and units as the effect leaves them, and of the instance
what R94, R104, R123 and R130 say. -/
def Issued (s t : State) (e : Nat) (i : Inst) (w : Insn) (srcs : Nat) (a : Act) : Prop :=
  t.ctxs = a.r.s.ctxs ∧ t.relay = a.r.s.relay ∧ t.media = a.r.s.media ∧ t.mem = a.r.s.mem ∧ t.ledgers = a.r.s.ledgers ∧
  t.glint = a.r.s.glint ∧ t.island = a.r.s.island ∧ t.iris = a.r.s.iris ∧ t.sec = a.r.s.sec ∧ t.sys = a.r.s.sys ∧
  t.control = a.r.s.control ∧ t.ready = a.r.s.ready ∧ t.facet = a.r.s.facet ∧ t.clk = a.r.s.clk ∧ t.freeCount = a.r.s.freeCount ∧
  t.now = max a.r.s.now (queueEdge s i w srcs a) ∧
  ∃ j q, Runs t e j ∧ j.nextIssue = queueEdge s i w srcs a + 1 ∧ j.energy = i.energy + 20 + a.pj ∧ j.staged = a.r.i.staged ∧
    j.sends = a.r.i.sends ∧ j.credits = a.r.i.credits ∧ j.saturated = a.r.i.saturated ∧
    j.queue.getLast? = some q ∧ q.queue = a.queue ∧ q.done = queueEdge s i w srcs a + a.count ∧
    j.queueFree = tset 0 a.r.i.queueFree a.queue (queueEdge s i w srcs a + a.occ) ∧
    j.info = (if a.status = stOk then i.info else some (a.status, instrIndex s i i.pc)) ∧
    (a.r.i.loops = [] → j.pc = a.r.i.pc + 1 ∧ j.regs = a.r.i.regs)

/-- No word behind a byte that an instance reads has a bit in error, and none of its engine's bank (R213, R214). -/
def Quiet (s : State) (i : Inst) : Prop :=
  (∀ sp a, (upsetOf { s := s, i := i } sp a).2.2 = 0) ∧ (bankOf { s := s, i := i }).up = []

/-- Engine e runs i, which may issue w: the predicate holds within the declared count of its outcomes, and every word it reads is good. -/
def Turn (s : State) (e : Nat) (i : Inst) (w : Insn) : Prop :=
  Runs s e i ∧ mayIssue s e i = true ∧ predicateHolds i w = true ∧ outcomeFits s i w = true ∧ Quiet s i

/-- The figures of a queued instruction: status, queue, occupancy, count, and the charge beside class C in pJ. -/
structure Figures where
  status : Nat
  queue : Nat
  occ : Nat
  count : Nat
  pj : Nat

/-- A queued instruction completes: where the commit buffer holds what it stages and its size is within the declared maxima, it answers a
next state in which it has issued, the stores, the units and the instance as in q, with these figures, having read and written these bytes. -/
def IssuesAs (c : Instr) (s : State) (e : Nat) (i : Inst) (w : Insn) (srcs : Nat) (q : Run) (f : Figures)
    (reads writes : List (Nat × Nat × Nat)) (size : Nat) (kinds : List Nat := [3, 4]) : Prop :=
  bufferFits q = true → withinMax s i kinds size = true →
  ∃ a : Act, a.r = q ∧ a.status = f.status ∧ a.queue = f.queue ∧ a.occ = f.occ ∧ a.count = f.count ∧ a.pj = f.pj ∧ a.reads = reads ∧
    a.writes = writes ∧ Answers c s fun t => Issued s t e i w srcs (withBacking i a)

/-- The same, of an instruction whose reads and writes are not said. -/
def IssuesTo (c : Instr) (s : State) (e : Nat) (i : Inst) (w : Insn) (srcs : Nat) (q : Run) (f : Figures) (size : Nat)
    (kinds : List Nat := [3, 4]) : Prop :=
  bufferFits q = true → withinMax s i kinds size = true →
  ∃ a : Act, a.r = q ∧ a.status = f.status ∧ a.queue = f.queue ∧ a.occ = f.occ ∧ a.count = f.count ∧ a.pj = f.pj ∧
    Answers c s fun t => Issued s t e i w srcs (withBacking i a)

/-- Slot C names n bytes in ES, CS or XS, which the command may read for an instruction of a count (R92, R127, R233, R331). -/
def BlockAt (r : Run) (w : Insn) (n count : Nat) : Prop :=
  w.kindC = .store ∧ storeSpace w.c < 3 ∧ checkView r false (bytesView w.c n) = .ok () ∧
  checkArrival r (storeSpace w.c) count (bytesView w.c n).addrs = .ok ()

/-- The run after the block in slot C is read. -/
def afterBlock (r : Run) (w : Insn) (n : Nat) : Run := noteReads r (storeSpace w.c) (bytesView w.c n).addrs

/-- The bytes of the block in slot C. -/
def blockBytes (r : Run) (w : Insn) (n : Nat) : List Byte := ldBytes r (storeSpace w.c) (storeByte w.c) n

/-- Slot C names a geometry block that an instruction of the count may read, in its ranges (R145): its fields. -/
def GeometryAt (r : Run) (w : Insn) (pool : Bool) (count : Geometry → Nat) (g : Geometry) : Prop :=
  g = parseGeometry (blockBytes r w 32) ∧ BlockAt r w 32 (count g) ∧ 1 ≤ g.wout ∧ 1 ≤ g.positions ∧ g.positions ≤ 64 ∧
  (pool = true → 1 ≤ g.kh ∧ g.kh ≤ 16 ∧ 1 ≤ g.kw ∧ g.kw ≤ 16)

/-- Slot A names a record in XS. -/
def RecordSlot (k : Kind) (w : Word) : Prop := k = .store ∧ storeSpace w = 2

/-- The window an RRECV of an instance names (R163). -/
def ownWindow (s : State) (i : Inst) (w : Insn) : Option WindowCfg :=
  windowOpen s s.facet.partIndex (windowField w.b) (peerField w.b) ((s.facet.windows.find? fun x =>
    x.part = s.facet.partIndex && x.number = windowField w.b && x.fromPart = peerField w.b && x.owner = i.origin.slot).map (·.fromSlot) |>.getD 32)

/-- What a received message leaves: q is the run after the copy. -/
def Received (q : Run) (t : State) (e : Nat) (x : WindowCfg) (m : Message) (edge : Nat) : Prop :=
  tget [] t.relay.windows x.number = (tget [] q.s.relay.windows x.number).erase m ∧
  t.relay.sent = q.s.relay.sent ++ (if m.returned then [] else
    [{ peer := x.fromPart, kind := 5, slot := m.slot, window := x.number, message := m.number, offset := 0, bytes := [],
       credits := ceilDiv m.length 256 }]) ∧
  t.ctxs = q.s.ctxs ∧ t.ledgers = q.s.ledgers ∧ t.glint = q.s.glint ∧ t.media = q.s.media ∧ t.island = q.s.island ∧
  ∃ j z, Runs t e j ∧ j.nextIssue = edge + 1 ∧ j.energy = q.i.energy + 60 * ((m.length + 15) / 16) ∧
    j.wait = .none ∧ j.staged = q.i.staged ∧ j.received = q.i.received ++ [(x.number, { m with returned := true })] ∧
    j.queue = q.i.queue ++ [z] ∧ z.queue = 6 ∧ z.done = edge + (40 + (m.length + 31) / 32)

/-- The slot returns its shares after a load that the loader refuses with a code. -/
def LoadRefused (s t : State) (c code : Nat) : Prop :=
  (ctxOf t c).loadCode = code ∧ (ctxOf t c).state = (if clearsAny t.ledgers c then .clearing else .empty) ∧ (ctxOf t c).held = [] ∧
  (ctxOf t c).restart = none ∧ (∀ k : StoreKind, ∀ x ∈ ledgerTable t.ledgers k, x.2 ≠ .held c) ∧ t.engines = s.engines ∧ t.ready = s.ready ∧
  t.now = s.now ∧ t.facet = s.facet

/-- The line number a packet of an unbonded port gets (R232). -/
def packetLine (s : State) (p : Nat) (k : LinePacket) : Line := lineNumber s p k.firstLix

/-- A port on its own, with a ring, that takes the packet as one of its kind. -/
def takesPacket (s : State) (p : Nat) (k : LinePacket) : Prop :=
  portTakes s p = true ∧ k.dataType = (portCfg s p).dataType ∧ k.channel = (portCfg s p).channel ∧ bondedUpper s p = false ∧
  (portCfg s p).bonded = false ∧ (portCfg s p).ringLines ≠ 0

/-- The port that a packet arrives on. -/
def packetIface (p : RtpPacket) : Iface := if p.port = 0 then .net0 else .net1

/-- The stream state a packet is for. -/
def packetKey (s : State) (p : RtpPacket) : Nat := (committedStream s p.slot p.record).key

/-- The stream record a packet is for stands in XS, is in range, takes packets, and this one is of its flow (R306, R309). -/
def streamTakes (s : State) (p : RtpPacket) : Bool :=
  let x := committedStream s p.slot p.record
  let l := (span (16 * p.record) 96).map (xsByte s p.slot)
  ((ctxOf s p.slot).state = .active || (ctxOf s p.slot).state = .stopped) && streamRanged x && streamClean x l && bit x.flags 0 &&
    ownsSlot s p.slot x.key && rtpAccepted p x (streamOf s p.slot x.key) && x.index + 4096 ≤ spaceSize s p.slot 2 && x.ringAt + x.ringSize ≤ spaceSize s p.slot 3

/-- What a closing tick leaves of the island. -/
def Closed (s t : State) : Prop :=
  t.island.open_ = false ∧ t.island.clearing = true ∧ t.island.closing = false ∧ t.island.written = [] ∧ t.island.burst = none ∧
  t.island.playing = none ∧ t.island.sessions = s.island.sessions ∧ t.island.position = s.island.position ∧
  ∀ e, e < 4 → (tget Play.empty t.island.plays e).state ≠ 1 ∧ (tget Play.empty t.island.plays e).state ≠ 2

/-- The time-out after a frame-end tick with no wake: an open idle session counts before a reload of the same tick, and a count that reaches
0 stays there (R337, log 109). -/
def timeoutAfter (s : State) : Nat :=
  if s.island.open_ = true ∧ outputBusy s = false ∧ wakeHeld s = false ∧ s.island.wokeAt.2 ≠ s.island.position then
    match s.island.reloadFrom with
    | none => s.island.timeout - 1
    | some n => if n ≤ 1 then 0 else s.island.timeout
  else s.island.timeout

/-- An entry of the control block is what a state shows, and the bridge has passed it on. -/
def Queued (s t : State) (e : Nat) (x : Play) : Prop :=
  tget Play.empty t.island.plays e = x ∧ t.island.bridge = tset Play.empty s.island.bridge e Play.empty ∧
  (∀ k, k ≠ e → tget Play.empty t.island.plays k = tget Play.empty s.island.plays k) ∧ t.island.playing = s.island.playing ∧
  t.island.open_ = s.island.open_ ∧ t.engines = s.engines

/-- The contexts with a grant toward a peer wait for the link. -/
def HoldersParked (s t : State) (peer : Nat) : Prop :=
  ∀ c ∈ holdersToward s peer, (ctxOf t c).restart = some 2 ∧ ((ctxOf t c).state = .parked ∨ (ctxOf t c).state = .stopped)

/-- A port failed its training with a cause. -/
def TrainFailed (s t : State) (n cause : Nat) : Prop :=
  (relayPort t n).up = false ∧ (relayPort t n).cause = cause ∧ t.control.head = s.control.head + 1 ∧ t.ctxs = s.ctxs ∧
  t.engines = s.engines ∧ ∀ k, k ≠ n → relayPort t k = relayPort s k

/-- The rows that a flit arrives by, with the kind each takes. -/
def flitRows : List (Nat × (FlitIn → Instr)) :=
  [(1, .dataFlit), (2, .releaseFlit), (3, .discardFlit), (4, .exchangeFlit), (5, .creditReturnFlit), (6, .controlFlit)]

/-- A flit of a kind arrives on a trained port, its codeword right as it came. -/
def FlitHere (s : State) (f : FlitIn) (kind : Nat) : Prop :=
  (relayPort s f.port).up = true ∧ s.iris.stop = 4 ∧ s.sys.halted = false ∧ flitKind f = kind ∧ f.fecCorrected = false

/-- It is good, of the part's epoch, and carries no credits. -/
def FlitTaken (s : State) (f : FlitIn) (kind : Nat) : Prop :=
  FlitHere s f kind ∧ flitError s f = none ∧ flitEpoch f = s.relay.epoch.toNat ∧ flitField f 144 24 = 0

/-- The next sequence number of the lane is due; time, the other ports and the engines stay. -/
def LaneMoved (s t : State) (f : FlitIn) : Prop :=
  (relayPort t f.port).seqs = tset 0 (relayPort s f.port).seqs f.lane (tget 0 (relayPort s f.port).seqs f.lane + 1) ∧
  (relayPort t f.port).up = true ∧ t.now = s.now ∧ t.relay.epoch = s.relay.epoch

/-- What a cold start of a state leaves (R399, R403). -/
def Started (s : State) (x : ColdStart) (t : State) : Prop :=
  t.sys.powerGood = true ∧ t.sys.resetN = true ∧ t.sys.ready = false ∧ t.now = 0 ∧ t.lix.count = 0 ∧ t.engines = [] ∧ t.ready = [] ∧
  t.island.open_ = false ∧ t.sec.flash = s.sec.flash ∧
  (chooseImage (wardenStep (powerUp s) x) x = none → t.sys.maskRom = true ∧ t.iris.stop = 0 ∧ t.ctxs = [] ∧ t.clk.collimated = false) ∧
  (chooseImage (wardenStep (powerUp s) x) x ≠ none → t.sys.maskRom = false ∧
    (3 ≤ x.collimateFails → t.sys.halted = true ∧ t.sys.cause = 1 ∧ t.clk.collimated = false ∧ t.iris.stop = 0) ∧
    (x.collimateFails < 3 → t.clk.collimated = true ∧ t.clk.attempts = x.collimateFails + 1 ∧
      (∀ c, x.dramFail = some c → t.sys.halted = true ∧ t.sys.cause = 2 ∧ t.sys.channel = c ∧ t.iris.stop = 0) ∧
      (x.dramFail = none → t.iris.stop = 3 ∧ (t.sys.facetCode ≠ 0 → t.facet = Facet.empty ∧ t.sys.facetNumber = 0xFF))))

/-- The rows of frames, with their ops. -/
def frameRows : List (Nat × (Iface → List Byte → Instr)) := [(1, .read), (2, .write), (3, .post), (4, .attest), (5, .stage)]

/-- A good frame l of an op, as its bytes b on an interface carry it, that is served, other than the SPI target, on a part not in mask-ROM
service. -/
def FrameTaken (s : State) (i : Iface) (op : Nat) (b l : List Byte) : Prop :=
  served s i = true ∧ frameBody i b = some l ∧ Machine.frameOk i l = true ∧ frameOp l = op ∧ i ≠ .spi ∧ s.sys.maskRom = false

/-- The part with one more frame accepted. -/
def counted (s : State) : State := { s with control := { s.control with frames := bump s.control.frames 1 } }

/-- What has been sent after one reply of a status with a payload. -/
def replied (s : State) (i : Iface) (op status : Nat) (l payload : List Byte) : List Reply :=
  s.control.sent ++ [{ iface := i, bytes := onLine i (frameBytes (op + 128) status 0 (frameRequest l) payload) }]

/-- A register write is served: the interface takes frames and the part is not in mask-ROM service. -/
def writable (s : State) (i : Iface) : Prop := served s i = true ∧ s.sys.maskRom = false

/-- The journal has one more entry where a write changed something. -/
def journalGrows (s t : State) (changed : Bool) : Prop :=
  t.sec.journalHead = s.sec.journalHead + (if changed then 1 else 0) ∧ t.engines = s.engines ∧ t.ready = s.ready ∧ t.now = s.now

/-- One journal entry more, and every slot but one as it was. -/
def slotWritten (s t : State) (c : Nat) : Prop :=
  t.sec.journalHead = s.sec.journalHead + 1 ∧ (∀ d, d ≠ c → ctxOf t d = ctxOf s d) ∧ t.iris = s.iris ∧ t.engines = s.engines ∧ t.now = s.now

/-- The reads that have an effect, each with the address of its register. -/
def readRows : List (Instr × Nat) := [(.lixCountCapture, 0x10010), (.audioPositionCapture, 0xA0008), (.eventData, 0xF0014),
  (.secCertData, 0xE0064), (.digestChainCapture, 0x100004), (.digestTraceData, 0x10001C), (.digestPeekData, 0x100058)]

/-- The NVS commands of an interface that start a job, with its op, slot and data. -/
def jobRows (s : State) (i : Iface) : List (Instr × Nat × Nat × List Byte) :=
  (span 0 4).map (fun n => (.revokeKey i (BitVec.ofNat 2 n), 3, n, [])) ++ [(.writeBootRecord i, 4, 0, rdBytes s.sec.staging 0 2016)] ++
  ((span 0 4).filter fun n => !(keyPresent s n)).map fun n => (.enrolKey i (BitVec.ofNat 2 n), 2, n, rdBytes s.sec.staging 0 32)

end Sys2Proof.Machine

open Sys2Proof Sys2Proof.Machine

/-- For every state s whose queue is c followed by r: step of s is exec of c on s with the queue r; with an empty queue it answers s. The queue is the model's, and so is this rule (log 4). (00_scope.md) -/
def Obligations.StepRunsFrontCommand : Prop :=
  (∀ (s : State) (c : Instr) (r : List Instr), s.pending = c :: r → step s = exec c { s with pending := r }) ∧
  (∀ s : State, s.pending = [] → step s = .next s)

/-- For every command c and state s: where exec of c on s answers a next state, that state's queue of waiting commands is s's. The queue is the model's (log 4). (00_scope.md) -/
def Obligations.QueueUntouched : Prop :=
  ∀ (c : Instr) (s t : State), exec c s = .next t → t.pending = s.pending

/-- For every state in which the Stop level and the target level are 0 to 4: where step answers a next state, they are 0 to 4 in it. (R15, R371, R377) -/
def Obligations.StopLevelStaysLegal : Prop :=
  ∀ s t : State, StopLegal s → step s = .next t → StopLegal t

/-- For every command and every state, exec answers a next state: no command faults and none is refused. A command whose condition does not hold leaves the state as it is (the model's reading, log 4). (95_what_each_step_holds.md) -/
def Obligations.NoCommandStopsTheModel : Prop :=
  ∀ (c : Instr) (s : State), completes c s

/-- For every instruction word x whose opcode is assigned: decodeWord of encodeWord x is x, with every field at every value. (R90, R91, R92, R93, R126) -/
def Obligations.WordRoundTrip : Prop :=
  ∀ x : CodeWord, assignedOpcodes.contains x.opcode = true → decodeWord (encodeWord x) = some x

/-- For every 128-bit word b: where bit 119 is 1, or one of bits 99 to 96 is 1, or bits 127 to 120 are no assigned opcode, decodeWord of b answers none; and where none of these holds it answers an instruction whose opcode is bits 127 to 120 and whose slots are bits 95 to 64, 63 to 32 and 31 to 0. The words of the example of chapter 05 for ATL, LOAD, MMA, QCVT, STORE and COMMIT decode, and each spells its command on its engine with the operands the example gives. (05_druak_instruction_reference.md, R90, R91, R92, R93, R126) -/
def Obligations.WordsDecodeOrAreRefused : Prop :=
  (∀ b : BitVec 128,
    ((b.getLsbD 119 = true ∨ (b.extractLsb' 96 4 : BitVec 4) ≠ 0 ∨ assignedOpcodes.contains (b.extractLsb' 120 8) = false) →
      decodeWord b = none) ∧
    (b.getLsbD 119 = false → (b.extractLsb' 96 4 : BitVec 4) = 0 → assignedOpcodes.contains (b.extractLsb' 120 8) = true →
      ∃ x, decodeWord b = some x ∧ x.opcode = b.extractLsb' 120 8 ∧ x.insn.a = b.extractLsb' 64 32 ∧
        x.insn.b = b.extractLsb' 32 32 ∧ x.insn.c = b.extractLsb' 0 32)) ∧
  (decodeWord 0x01150000_00000C80_00000000_00000001 = some (exampleWord 0x01 .immediate .immediate .immediate 3200 0 1) ∧
    decodeWord 0x20100000_00000003_0000000C_00000000 = some (exampleWord 0x20 .descriptor .descriptor .immediate 3 12 0) ∧
    decodeWord 0x30100000_00000003_00000004_00000001 = some (exampleWord 0x30 .descriptor .descriptor .immediate 3 4 1) ∧
    decodeWord 0x51140000_00000005_00000000_00000003 = some (exampleWord 0x51 .descriptor .immediate .immediate 5 0 3) ∧
    decodeWord 0x21100000_00000006_00000005_00000000 = some (exampleWord 0x21 .descriptor .descriptor .immediate 6 5 0) ∧
    decodeWord 0x14150000_00000000_00000000_00000000 = some (exampleWord 0x14 .immediate .immediate .immediate 0 0 0) ∧
    ∀ (e : Nat) (w : Insn), instrOfWord e { opcode := 0x01, insn := w } = some (.atl e w) ∧
      instrOfWord e { opcode := 0x20, insn := w } = some (.load e w) ∧ instrOfWord e { opcode := 0x30, insn := w } = some (.mma e w) ∧
      instrOfWord e { opcode := 0x51, insn := w } = some (.qcvt e w) ∧ instrOfWord e { opcode := 0x21, insn := w } = some (.store e w) ∧
      instrOfWord e { opcode := 0x14, insn := w } = some (.commit e w))

/-- For every state in which engine e runs an instance i that may issue, and whose instruction's predicate holds within the declared count of its outcomes: the instruction comes up on the edge of R94, R95, R123 and R124; class C, 20 pJ, is charged; the position, the calls, the loops, the staged effects and the wait are unchanged; and nothing but time, the trace, the retired queue entries and the engine has changed. Where its predicate does not hold, it takes one cycle of issue and class C, and nothing else of the part changes. (R94, R95, R114, R123, R124, R130) -/
def Obligations.IssueStageComesUp : Prop :=
  ∀ (s : State) (e : Nat) (w : Insn) (srcs : Nat) (all : Bool) (more : List (Nat × Nat)) (i : Inst),
    Runs s e i → mayIssue s e i = true →
    (predicateHolds i w = true → outcomeFits s i w = true → ∃ t j, comeUp s e w srcs all more = .go t j (stageEdge i w srcs all more) ∧
      j.energy = i.energy + 20 ∧ j.pc = i.pc ∧ j.calls = i.calls ∧ j.loops = i.loops ∧ j.regs = i.regs ∧ j.staged = i.staged ∧
      j.posts = i.posts ∧ j.holds = i.holds ∧ j.wait = .none ∧ j.origin = i.origin ∧ j.engine = i.engine ∧
      t.now = max s.now (stageEdge i w srcs all more) ∧ OnlyIssued s t) ∧
    (predicateHolds i w = false → ∃ t j, comeUp s e w srcs all more = .passed t ∧ Runs t e j ∧ j.energy = i.energy + 20 ∧
      j.nextIssue = stageEdge i w srcs false more + 1 ∧ j.staged = i.staged ∧ j.posts = i.posts ∧ j.holds = i.holds ∧
      OnlyIssued s t)

/-- For each of ATL, WAITL and BEAT that comes up on an edge: an ATL whose target is reached issues on the next edge, counts in LIX_LATE_COUNT and is marked late; any other ATL waits for its target line and phase. A WAITL of n lines with n from 1 to 2^47 - 1 waits for phase 0 of the line the count is now plus n, one of 0 lines completes in 1 cycle, one of 2^47 or more fails the instance with LENGTH_EXCEEDS. A BEAT of b beats waits for the b-th beat after the present one, one of 0 beats completes in 1 cycle. (R38, R39, R40, R131) -/
def Obligations.TimeWaitsOfTheSequencer : Prop :=
  ∀ (s t : State) (e : Nat) (w : Insn) (i : Inst) (edge : Nat),
    (comeUp s e w 3 true (atlReads w) = .go t i edge →
      (targetReached t (atlTarget i w).1 (atlTarget i w).2 = true →
        Answers (.atl e w) s fun u => u.lix.late = bump t.lix.late 1 ∧ u.ctxs = t.ctxs ∧ u.ledgers = t.ledgers ∧ u.control = t.control ∧
          ∃ j, Runs u e j ∧ j.late = true ∧ Past { i with late := true, wait := .none } j (edge + 1) 1) ∧
      (targetReached t (atlTarget i w).1 (atlTarget i w).2 = false →
        exec (.atl e w) s = .next (setInst t e { i with wait := .line (atlTarget i w).1 (atlTarget i w).2 true false }))) ∧
    (comeUp s e w 3 true [] = .go t i edge →
      ∀ n, n = (slotValue i w.kindA w.a).toNat + 2 ^ 32 * (slotValue i w.kindB w.b).toNat →
        (n = 0 → ∃ j, Past i j edge 1 ∧ exec (.waitl e w) s = .next (setInst t e j)) ∧
        (0 < n → n < 2 ^ 47 →
          exec (.waitl e w) s = .next (setInst t e { i with wait := .line (t.lix.count + BitVec.ofNat 48 n) 0 false false })) ∧
        (2 ^ 47 ≤ n → exec (.waitl e w) s = .next (stageFail t e i stLength edge))) ∧
    (comeUp s e w 1 true [] = .go t i edge →
      ((slotValue i w.kindA w.a).toNat = 0 → ∃ j, Past i j edge 1 ∧ exec (.beat e w) s = .next (setInst t e j)) ∧
      (0 < (slotValue i w.kindA w.a).toNat →
        exec (.beat e w) s = .next (setInst t e { i with wait := .beat (t.iris.beats + (slotValue i w.kindA w.a).toNat) })))

/-- For an instance that waits on engine e and is neither held nor torn down, nor the part halted: where the target of its line wait is passed, it was reached on its phase's edge in the present line, or on the edge that ended its line (on the present edge while the phase holds); where the line is the present one and the phase ahead, it is reached when the phase comes. LINE_WAIT_END then moves time to that edge, or to the one on which the instance may issue if that is later, and the instruction completes 1 cycle after it; but one that was resumed and whose target was reached by then issues on the next edge, marked late and counted in LIX_LATE_COUNT. Where the beat of its wait has come, BEAT_WAIT_END completes it in 1 cycle. Nothing but time and the engine changes in the ends that are not late. (R35, R36, R37, R38, R39, R40, R131, R361) -/
def Obligations.WaitsOfTheSequencerEnd : Prop :=
  ∀ (s : State) (e : Nat) (i : Inst), waiting s e = some i →
    (∀ t p atl resumed reached, i.wait = .line t p atl resumed →
      (targetReached s t p = true ∧
          reached = (if s.lix.hold then s.now else if s.lix.count = t then s.lix.edgeAt + p else s.lix.edgeAt)) ∨
        (targetReached s t p = false ∧ s.lix.count = t ∧ s.lix.hold = false ∧ p ≤ 65535 ∧ reached = s.now + (p - s.lix.phase.toNat)) →
      (resumed = false ∨ i.nextIssue < reached → ∃ j, Past { i with wait := .none } j (max reached i.nextIssue) 1 ∧
        exec (.lineWaitEnd e) s = .next (setInst (advanceTo s (max reached i.nextIssue)) e j)) ∧
      (resumed = true → reached ≤ i.nextIssue → Answers (.lineWaitEnd e) s fun u => u.lix.late = bump s.lix.late 1 ∧ u.now = s.now ∧
        u.ctxs = s.ctxs ∧ u.ledgers = s.ledgers ∧
        ∃ j, Runs u e j ∧ j.late = true ∧ Past { i with late := true, wait := .none } j (i.nextIssue + 1) 1)) ∧
    (∀ n, i.wait = .beat n → n ≤ s.iris.beats → ∃ j, Past { i with wait := .none } j (max s.now i.nextIssue) 1 ∧
      exec (.beatWaitEnd e) s = .next (setInst s e j))

/-- For each that comes up on an edge: BR goes on at its own index plus the signed offset and CALL at its absolute index with the next index pushed, no later instruction issuing before 3 cycles; RET goes on at the index on top of the stack, which it pops, after 3 cycles, and with an empty stack fails with CONTEXT_FAULT; LOOP of t trips with t from 1 to its declared maximum goes on at the next instruction after 2 cycles with a loop of the following B instructions open and its index register 0; with t = 0 it goes past the body; with more it fails with LENGTH_EXCEEDS. None of them changes anything but the engine. (R97, R132, R133) -/
def Obligations.ControlFlow : Prop :=
  ∀ (s t : State) (e : Nat) (w : Insn) (i : Inst) (edge : Nat),
    (comeUp s e w 0 false [] = .go t i edge →
      (∃ j, exec (.br e w) s = .next (setInst t e j) ∧ j.pc = ((i.pc : Int) + w.a.toInt).toNat ∧ j.nextIssue = edge + 3 ∧
        j.calls = i.calls ∧ j.regs = i.regs) ∧
      (∃ j, exec (.call e w) s = .next (setInst t e j) ∧ j.pc = w.a.toNat ∧ j.calls = (i.pc + 1) :: i.calls ∧
        j.nextIssue = edge + 3 ∧ j.loops = i.loops) ∧
      (i.calls = [] → exec (.ret e w) s = .next (stageFail t e i stFault edge)) ∧
      (∀ pc r, i.calls = pc :: r → ∃ j, exec (.ret e w) s = .next (setInst t e j) ∧ j.calls = r ∧ j.nextIssue = edge + 3 ∧
        (i.loops = [] → j.pc = pc))) ∧
    (comeUp s e w 1 false [] = .go t i edge →
      (withinMax t i [1] (slotValue i w.kindA w.a).toNat = true →
        ((slotValue i w.kindA w.a).toNat = 0 → ∃ j, exec (.loop e w) s = .next (setInst t e j) ∧ j.nextIssue = edge + 2 ∧
          (i.loops = [] → j.pc = i.pc + 1 + w.b.toNat)) ∧
        (0 < (slotValue i w.kindA w.a).toNat → ∃ j f, exec (.loop e w) s = .next (setInst t e j) ∧ j.pc = i.pc + 1 ∧
          j.nextIssue = edge + 2 ∧ j.loops = f :: i.loops ∧ f.first = i.pc + 1 ∧ f.last = i.pc + w.b.toNat ∧ f.trip = 0 ∧
          f.trips = (slotValue i w.kindA w.a).toNat ∧ (w.kindC = .scalar → j.regs = tset 0 i.regs (slotReg w.c) 0))) ∧
      (withinMax t i [1] (slotValue i w.kindA w.a).toNat = false →
        exec (.loop e w) s = .next (stageFail t e i stLength edge)))

/-- For an instance whose innermost loop was entered in the present call and whose next instruction would be the one after its body: where trips are left, it goes on at the first instruction of the body with the trip index one higher, written to the index register; where none is left and no other loop is open, it goes on after the body with the loop closed. (R132) -/
def Obligations.LoopTripsAreCounted : Prop :=
  ∀ (i : Inst) (f : LoopFrame) (rest : List LoopFrame), i.loops = f :: rest → f.depth = i.calls.length → i.pc = f.last →
    (f.trip + 1 < f.trips →
      (nextPc i).pc = f.first ∧ (nextPc i).loops = { f with trip := f.trip + 1 } :: rest ∧
      (nextPc i).regs = (match f.reg with
        | some k => tset 0 i.regs k (BitVec.ofNat 32 (f.trip + 1))
        | none => i.regs)) ∧
    (f.trips ≤ f.trip + 1 → rest = [] → (nextPc i).pc = f.last + 1 ∧ (nextPc i).loops = [] ∧ (nextPc i).regs = i.regs)

/-- For an instance i of engine e that may issue a HALT or a COMMIT whose predicate holds within the declared count of its outcomes. HALT, on the edge of R94 and R123, ends it one edge on: nothing runs on the engine; Glint, the media units, the island, the clocks and the facet are as they were; no context's step, chain, ES, CS or DS changes: nothing it staged is applied. COMMIT, once every earlier instruction has completed, ends it 16 edges and one for every two staged words on, the last odd word taking one too: nothing runs on the engine; the context's step rises by one and its chain folds the chain, the step, the command and the instance's digest; and every byte it staged for DS reads, in the DS of the context, as it was staged (premise: the buffer lists a byte once and holds no upset, and the tables are in canonical form, log 1). (R101, R104, R108, R133, R137, R444) -/
def Obligations.HaltAndCommitEndTheInstance : Prop :=
  ∀ (s : State) (e : Nat) (w : Insn) (i : Inst), Runs s e i → i.engine = e → mayIssue s e i = true → predicateHolds i w = true →
    outcomeFits s i w = true → Canonical s →
    (Answers (.halt e w) s fun u =>
      (engOf u e).run = none ∧ u.now = max s.now (stageEdge i w 0 false [] + 1) ∧ u.glint = s.glint ∧ u.media = s.media ∧
      u.island = s.island ∧ u.clk = s.clk ∧ u.facet = s.facet ∧
      ∀ c, (ctxOf u c).step = (ctxOf s c).step ∧ (ctxOf u c).chain = (ctxOf s c).chain ∧ (ctxOf u c).stores.es = (ctxOf s c).stores.es ∧
        (ctxOf u c).stores.cs = (ctxOf s c).stores.cs ∧ (ctxOf u c).stores.ds = (ctxOf s c).stores.ds) ∧
    (Answers (.commit e w) s fun u =>
      (engOf u e).run = none ∧ u.now = max s.now (stageEdge i w 0 true [] + 16 + (stagedWords i.staged + 1) / 2) ∧
      (ctxOf u i.origin.slot).step = (ctxOf s i.origin.slot).step + 1 ∧
      (ctxOf u i.origin.slot).chain = crc64 (bytesBe (ctxOf s i.origin.slot).chain.toNat 8 ++
        bytesBe ((ctxOf s i.origin.slot).step + 1).toNat 8 ++ bytesBe i.origin.cmd 4 ++ bytesBe (instanceDigest i).toNat 8) ∧
      (i.stagedUp = [] → (i.staged.map (·.1)).Nodup → tableWf 0 (ctxOf s i.origin.slot).stores.ds = true →
        tableWf 0 (ctxOf s i.origin.slot).stores.upDs = true → ∀ a b, (2 ^ 40 + a, b) ∈ i.staged →
          rdStore (ctxOf u i.origin.slot).stores.ds (ctxOf u i.origin.slot).stores.upDs a = b))

/-- For a SEMWAIT that comes up on an edge, on the chip semaphore its context binds: more counts than the semaphore's total fails with LENGTH_EXCEEDS. The wait form takes its counts provisionally and completes in 2 cycles where they are free on that edge and nobody waits ahead of it, or where it asks for none; else it joins the queue. The test form, outside replay, completes in 2 cycles with 1 in its register and the counts taken where that was so, and with 0 and nothing taken where not. In replay the logged outcome 0 goes to its register, and the logged outcome 1 makes it wait. (R103, R134, R363, R450) -/
def Obligations.SemaphoreWaits : Prop :=
  ∀ (s t : State) (e : Nat) (w : Insn) (i : Inst) (edge chip n : Nat),
    comeUp s e w 2 (!(decide (w.kindC = .scalar))) [] = .go t i edge → chip = chipOf t i w.a.toNat →
    n = (slotValue i w.kindB w.b).toNat →
    (semTotal t i w.a.toNat < n → exec (.semwait e w) s = .next (stageFail t e i stLength edge)) ∧
    (n ≤ semTotal t i w.a.toNat → w.kindC ≠ .scalar →
      (n = 0 ∨ semOpen t i chip n edge = true → Answers (.semwait e w) s fun u => Took t u e i chip n edge none) ∧
      (0 < n → semOpen t i chip n edge = false → exec (.semwait e w) s = .next
        (setInst (setSem t chip { semOf t chip with
          waiters := joinQueue (semOf t chip).waiters { slot := i.origin.slot, cmd := i.origin.cmd, count := n, edge := edge } })
          e { i with wait := .sem chip n none }))) ∧
    (n ≤ semTotal t i w.a.toNat → w.kindC = .scalar → (ctxOf t i.origin.slot).replay.on = false →
      (semOpen t i chip n edge = true → Answers (.semwait e w) s fun u =>
        Took (traceTest t i w.a.toNat true) u e i chip n edge (some (slotReg w.c, 1))) ∧
      (semOpen t i chip n edge = false → Answers (.semwait e w) s fun u => ∃ j,
        u = setInst (traceTest t i w.a.toNat false) e j ∧ Past i j edge 2 ∧ j.holds = i.holds ∧
        (i.loops = [] → j.regs = tset 0 i.regs (slotReg w.c) 0))) ∧
    (∀ r u, n ≤ semTotal t i w.a.toNat → w.kindC = .scalar → (ctxOf t i.origin.slot).replay.on = true →
      replayTake t i.origin.slot 9 (BitVec.ofNat 64 (b2n (semOpen t i chip n edge) + 256 * w.a.toNat)) = (some r, u) →
      (bit (logField r 6).toNat 0 = false → Answers (.semwait e w) s fun v => ∃ j,
        v = setInst (traceTest u i w.a.toNat false) e j ∧ Past i j edge 2 ∧ j.holds = i.holds ∧
        (i.loops = [] → j.regs = tset 0 i.regs (slotReg w.c) 0)) ∧
      (bit (logField r 6).toNat 0 = true → exec (.semwait e w) s =
        .next (semWaits (traceTest u i w.a.toNat true) e i chip n edge (some (slotReg w.c)))))

/-- For a chip semaphore whose first waiter asks for no more than is free, and waits on an engine that is not draining: SEMAPHORE_GRANT takes that waiter out of the queue and its counts out of the free column, no later than the edge they can be taken on, and the SEMWAIT completes 2 cycles after. Where its first waiter asks for more, nothing changes: no waiter behind it is served. (R134, R363, R364) -/
def Obligations.SemaphoreGrantServesTheFirst : Prop :=
  ∀ (s : State) (k : Nat) (w : Waiter) (r : List Waiter), (semOf s k).waiters = w :: r → s.sys.halted = false →
    (∀ e i m n reg, w.count ≤ (semOf s k).free → waiterEngine s w = some e → Runs s e i → (engOf s e).draining = none →
      i.wait = .sem m n reg → Answers (.semaphoreGrant k) s fun t =>
        Took (advanceTo (setSem s k { semOf s k with waiters := r }) (max (grantEdge (semOf s k) n s.now) i.nextIssue)) t e i k n
          (max (grantEdge (semOf s k) n s.now) i.nextIssue) (reg.map fun x => (x, 1))) ∧
    ((semOf s k).free < w.count → exec (.semaphoreGrant k) s = .next s)

/-- For a SEMPOST that comes up: where the counts its context holds, committed or provisional, cover those already staged and the new ones, it stages them in 1 cycle, and no semaphore changes; where they do not, it fails with LENGTH_EXCEEDS. BARRIER, where it comes up, has waited for every earlier instruction and takes 1 cycle. (R103, R135, R137) -/
def Obligations.PostsAreStaged : Prop :=
  ∀ (s t : State) (e : Nat) (w : Insn) (i : Inst) (edge : Nat),
    (∀ k n, comeUp s e w 2 false [] = .go t i edge → k = chipOf t i w.a.toNat → n = (slotValue i w.kindB w.b).toNat →
      (tget 0 i.posts k + n ≤ tget 0 (ctxOf t i.origin.slot).held k + tget 0 i.holds k →
        ∃ j, exec (.sempost e w) s = .next (setInst t e j) ∧ Past i j edge 1 ∧ j.posts = tmod 0 i.posts k (· + n)) ∧
      (tget 0 (ctxOf t i.origin.slot).held k + tget 0 i.holds k < tget 0 i.posts k + n →
        exec (.sempost e w) s = .next (stageFail t e i stLength edge))) ∧
    (comeUp s e w 0 true [] = .go t i edge →
      ∃ j, exec (.barrier e w) s = .next (setInst t e j) ∧ Past i j edge 1 ∧ j.posts = i.posts)

/-- For a CREDIT that comes up: a peer that is not another member of the set fails with LENGTH_EXCEEDS, a link that is down with LINK_DOWN. Where the context's credits toward the peer are free they move to its held column and the CREDIT completes in 2 cycles; else it waits, and CREDIT_GRANT ends the wait in the same way once they are free, and leaves the state as it is while they are not. (R136, R393, R397) -/
def Obligations.CreditsAreTaken : Prop :=
  ∀ (s : State) (e : Nat) (i : Inst),
    (∀ t w edge p n, comeUp s e w 2 true [] = .go t i edge → p = w.a.toNat % 16 → n = (slotValue i w.kindB w.b).toNat →
      (isPeer t p = false → exec (.credit e w) s = .next (stageFail t e i stLength edge)) ∧
      (isPeer t p = true → linkUp t p = false → exec (.credit e w) s = .next (stageFail t e i stLinkDown edge)) ∧
      (isPeer t p = true → linkUp t p = true → n ≤ (creditOf t i.origin.slot p).free →
        Answers (.credit e w) s fun u => TookCredits t u e i p n edge) ∧
      (isPeer t p = true → linkUp t p = true → (creditOf t i.origin.slot p).free < n →
        exec (.credit e w) s = .next (setInst t e { i with wait := .credit p n }))) ∧
    (∀ p n, Runs s e i → i.wait = .credit p n → i.halted = false → s.sys.halted = false → (engOf s e).draining = none →
      (n ≤ (creditOf s i.origin.slot p).free →
        Answers (.creditGrant e) s fun u => TookCredits s u e i p n (max s.now i.nextIssue)) ∧
      ((creditOf s i.origin.slot p).free < n → exec (.creditGrant e) s = .next s))

/-- For each instruction of the move, matrix, vector, quantisation, training, key-value, text and media classes and for RSEND: where its instance may issue, its predicate holds within the declared count of its outcomes, its effect on the stores answers after the words of its descriptors, the commit buffer holds what is staged and its size is within the declared maximum, it answers a next state. The stores and units are as its effect leaves them; it is in its queue until its count has passed from the edge of R94, R95 and R123; it is charged 20 pJ and its own charge; occupancy, count and charge include the moves between CS and ES where CS backs its engine's ES; its informational status is kept; the next instruction follows outside a loop. Nothing else of the part changes but time, the trace and the engine. TOKENIZE in both its forms, DETOK, MASKGEN, SAMPLE and STOPCHK, whose instance may issue with its predicate, whose record, image, operands and tables open, are in range and large enough, and whose words read good, complete: TOKENIZE and DETOK leave the IDs or the bytes and their number, MASKGEN the mask of its automaton's state or an empty one with GRAMMAR_DEAD, SAMPLE its token and flag with what the step stages, STOPCHK the bytes it releases and their number, each with the occupancy, count and charge of its entry. (R94, R95, R114, R118, R122, R123, R130, R157, R273, R278, R280, R284) -/
def Obligations.QueuedInstructionIssues : Prop :=
  (∀ (c : Instr) (e : Nat) (w : Insn) (srcs : Nat) (f : Effect), queuedMeaning c = some (e, w, srcs, f) →
    ∀ (s : State) (i : Inst) (a : Act), Runs s e i → mayIssue s e i = true → predicateHolds i w = true → outcomeFits s i w = true →
      withSlots w f (runAt s i w srcs) = .ok a → bufferFits a.r = true → withinMax s i a.sizeKinds a.size = true →
      Answers c s fun t => Issued s t e i w srcs (withBacking i a)) ∧
  (∀ (s : State) (e : Nat) (w : Insn) (i : Inst) (r q u : Run) (t : TextRec) (d : View), Turn s e i w → r = runAt s i w 0 →
    textRecord r = .ok (t, q, false) → textView q true w.kindA w.a 3 true = .ok d → openImage q t = .ok (u, false) →
    (∀ z, w.kindB = .immediate → w.b.toNat < t.V → 1 ≤ d.count → isControl u t w.b.toNat = true →
      writing u d (d.tuples.take 1) = .ok (z, false) →
      IssuesTo (.tokenize e w) s e i w 0 (putCount (putFirst z d [(w.b.toNat : Int)]) w 1) ⟨stOk, 4, 24, 24, 50 * 24⟩ 1) ∧
    (∀ v x y z text ids n, w.kindB ≠ .immediate → textView u false w.kindB w.b 1 true = .ok v → n = v.count + 24 →
      checkArrival u v.space n v.addrs = .ok () → reading u v = .ok (x, false) → text = (ldView x v).map (lowBits 8) →
      v.count ≤ d.count → tokensOf x t text = .ok (ids, y, false) → writing y d (d.tuples.take ids.length) = .ok (z, false) →
      IssuesTo (.tokenize e w) s e i w 0 (putCount (putFirst z d (ids.map fun (k : Nat) => (k : Int))) w ids.length)
        ⟨stOk, 4, n, n, 50 * n⟩ v.count)) ∧
  (∀ (s : State) (e : Nat) (w : Insn) (i : Inst) (r q u x y y' z : Run) (t : TextRec) (d v : View) (ids : List Int)
      (parts : List (List Byte)) (out : List Byte) (n : Nat), Turn s e i w → r = runAt s i w 0 → textRecord r = .ok (t, q, false) → textView q true w.kindA w.a 1 true = .ok d →
    textView q false w.kindB w.b 3 true = .ok v → reading q v = .ok (u, false) → ids = ldView u v →
    (∀ k ∈ ids, 0 ≤ k ∧ k < t.V) → v.count * t.lmax ≤ d.count → openImage u t = .ok (x, false) →
    (((ids.map Int.toNat).filter fun k => t.spell || !isControl x t k).map (spelling x t)) = parts.map some → out = parts.flatten →
    readSpan x 3 (t.image + 0x440) (8 * t.V) = .ok (y, false) → readSpan y 3 (stringBase t) (stringArea y t) = .ok (y', false) →
    n = 24 + v.count + out.length → checkArrival y' v.space n v.addrs = .ok () →
    writing y' d (d.tuples.take out.length) = .ok (z, false) →
    IssuesTo (.detok e w) s e i w 0 (putCount (putFirst z d (out.map fun b => b.toInt)) w out.length) ⟨stOk, 4, n, n, 50 * n⟩ v.count) ∧
  (∀ (s : State) (e : Nat) (w : Insn) (i : Inst) (r q u x z : Run) (t : TextRec) (d : View) (a : Automaton) (k n : Nat)
      (m : Option (List Bool)), Turn s e i w → r = runAt s i w 2 → textRecord r = .ok (t, q, false) →
    textView q true w.kindA w.a 1 false = .ok d → RecordSlot w.kindC w.c → ceilDiv t.V 8 ≤ d.count →
    automatonAt q t (storeByte w.c) = .ok (a, u, false) → k = (slotValue i w.kindB w.b).toNat → k < a.Q →
    maskOf u t a k = .ok (m, x, false) → writing x d (d.tuples.take (ceilDiv t.V 8)) = .ok (z, false) → n = ceilDiv t.V 4096 →
    IssuesTo (.maskgen e w) s e i w 2 (putMask z d t.V m) ⟨if m.isSome then stOk else stGrammarDead, 4, n, n, 50 * n⟩ t.V) ∧
  (∀ (s : State) (e : Nat) (w : Insn) (i : Inst) (r q q1 q2 q3 u z g : Run) (t : TextRec) (v : View) (x : SampleRec)
      (a : Option Automaton) (out : Option (Nat × Nat)) (n : Nat), Turn s e i w → r = runAt s i w 0 →
    textRecord r = .ok (t, q, false) → RecordSlot w.kindA w.a → RecordSlot w.kindC w.c →
    checkView q true (bytesView w.a 8) = .ok () → textView q false w.kindB w.b 2 false = .ok v → t.V ≤ v.count →
    sampleRec q (storeByte w.c) = .ok (x, q1, false) → readSpan q1 2 x.mask (ceilDiv t.V 8) = .ok (q2, false) →
    ((x.automaton = none ∧ a = none ∧ q3 = q2) ∨ (∃ o y, x.automaton = some o ∧ automatonAt q2 t o = .ok (y, q3, false) ∧
      checkSpan q3 true 2 o (o + 175) = .ok () ∧ a = some y)) →
    n = 32 + ceilDiv t.V 4096 → checkArrival q3 v.space n v.addrs = .ok () → reading q3 v = .ok (u, false) →
    writing u (bytesView w.a 8) (bytesView w.a 8).tuples = .ok (z, false) →
    sampleStep z x a (allowedOf z x t.V) (fun k => (ldView z v).getD k 0) = .ok (out, g, false) →
    IssuesTo (.sample e w) s e i w 0
      (stBytes g 2 (storeByte w.a) (bytesLe (out.getD (0, 4)).1 4 ++ bytesLe (out.getD (0, 4)).2 4))
      ⟨if out.isSome then stOk else stGrammarDead, 4, n, n, 50 * n⟩ t.V) ∧
  (∀ (s : State) (e : Nat) (w : Insn) (i : Inst) (r q q1 q2 u z : Run) (t : TextRec) (v o : View) (x : StopRec) (buf : List Nat)
      (rel n : Nat) (split : Bool), Turn s e i w → r = runAt s i w 0 → textRecord r = .ok (t, q, false) → RecordSlot w.kindA w.a →
    stopRecord q (storeByte w.a) = .ok (x, q1, false) → textView q1 false w.kindB w.b 1 false = .ok v →
    namedView q1 true x.output = .ok (o, q2, false) → o.space = 0 ∨ o.space = 2 → o.format = 1 → o.rank = 1 →
    n = 8 + v.count + x.held.length → checkArrival q2 v.space n v.addrs = .ok () → reading q2 v = .ok (u, false) →
    buf = x.held ++ (ldView u v).map (lowBits 8) → x.outLen + buf.length ≤ o.extent 0 →
    stopStep u o x buf = .ok (rel, split, z, false) →
    IssuesTo (.stopchk e w) s e i w 0 (putCount z w rel) ⟨if split then stSplit else stOk, 4, n, n, 50 * n⟩ v.count)

/-- For the instructions of QueuedInstructionIssues: where the predicate fails, the instruction takes one cycle of issue and 20 pJ, and no store, ledger or unit changes. A failing status other than CONTEXT_FAULT of an instance of engine e, whose context is not to be torn down, leaves the engine with nothing running; CONTEXT_FAULT marks the context for teardown on the next edge and leaves the instance standing with the status and the index of its instruction. (R94, R104, R365) -/
def Obligations.PredicateFailsAndChecksFail : Prop :=
  (∀ (c : Instr) (e : Nat) (w : Insn) (srcs : Nat) (f : Effect), queuedMeaning c = some (e, w, srcs, f) →
    ∀ (s : State) (i : Inst), Runs s e i → mayIssue s e i = true → predicateHolds i w = false →
      Answers c s fun t => OnlyIssued s t ∧ ∃ j, Runs t e j ∧ j.energy = i.energy + 20 ∧ j.staged = i.staged ∧
        j.nextIssue = issueEdge i w 0 ((scalarReads w srcs).map fun p => (5, p.2, p.2)) [] + 1 ∧ (i.loops = [] → j.pc = i.pc + 1)) ∧
  (∀ (e : Nat) (i j : Inst) (x : Fail) (edge : Nat), i.engine = e → j.origin = i.origin → Runs x.r.s e j → 0 < edge →
    (ctxOf x.r.s i.origin.slot).tear = none →
    (x.status ≠ stFault → (engOf (failInst x.r.s e i x edge) e).run = none) ∧
    (x.status = stFault →
      (ctxOf (failInst x.r.s e i x edge) i.origin.slot).tear =
        some (.contextFault, some e, max x.r.s.now (edge + x.count.getD 0) + 1) ∧
      ∃ k, Runs (failInst x.r.s e i x edge) e k ∧ k.failed = some (stFault, instrIndex x.r.s i i.pc)))

/-- For VADD, VMUL, VSHIFT and VMAX with a scalar destination and sources that are immediates or scalars, whose instance may issue outside a loop, whose predicate holds within the declared count of its outcomes and whose commit buffer and maximum are kept: the destination register holds the sum, the product, the shift by the second operand clamped to -63 to 63, or the greater of the two signed 32-bit operands, saturated to 32 bits. No other register, no store and no ledger changes. With a destination view in ES, each source a view in ES of its extents, an immediate or a scalar, and every word read good: each element of the destination is that result on the sources' elements, saturated to its format; the instruction occupies the vector queue for 1 cycle per 64 elements, completes 3 cycles after that, and is charged 60 pJ for each cycle. (R147, R148, R167, R169) -/
def Obligations.ScalarVectorResults : Prop :=
  (∀ (s : State) (e : Nat) (w : Insn) (i : Inst), Runs s e i → mayIssue s e i = true → predicateHolds i w = true →
    outcomeFits s i w = true → i.loops = [] →
    w.kindA = .scalar → w.kindB ≠ .descriptor → w.kindB ≠ .store → w.kindC ≠ .descriptor → w.kindC ≠ .store →
    bufferFits { s := s, i := i } = true → withinMax s i [3, 4] 1 = true →
    ∀ x y : Int, x = (slotValue i w.kindB w.b).toInt → y = (slotValue i w.kindC w.c).toInt →
      ∀ c v, (c = Instr.vadd e w ∧ v = x + y) ∨ (c = Instr.vmul e w ∧ v = x * y) ∨ (c = Instr.vmax e w ∧ v = max x y) ∨
          (c = Instr.vshift e w ∧ v = shiftTz x (max (-63) (min 63 y))) →
        Answers c s fun t => t.ctxs = s.ctxs ∧ t.ledgers = s.ledgers ∧ t.relay = s.relay ∧
          ∃ j, Runs t e j ∧ j.regs = tset 0 i.regs (slotReg w.a) (BitVec.ofInt 32 (max (-(2 ^ 31)) (min (2 ^ 31 - 1) v))) ∧
            j.staged = i.staged) ∧
  (∀ (s : State) (e : Nat) (w : Insn) (i : Inst) (r : Run) (d : View) (x y : Source), Turn s e i w → r = runAt s i w 6 →
    w.kindA ≠ .scalar → esView r true w.kindA w.a = .ok d → sourceOf r d w.kindB w.b = .ok x → sourceOf r d w.kindC w.c = .ok y →
    ∀ c f, (c = Instr.vadd e w ∧ f = fun a b : Int => a + b) ∨ (c = Instr.vmul e w ∧ f = fun a b : Int => a * b) ∨
        (c = Instr.vmax e w ∧ f = max) ∨ (c = Instr.vshift e w ∧ f = shiftElem) →
      IssuesAs c s e i w 6 (stElems r d (d.tuples.map fun t => (t, satFmt d.format (f (sourceAt r x t) (sourceAt r y t)))))
        ⟨stOk, 3, lanesOf d.count, lanesOf d.count + 3, 60 * lanesOf d.count⟩ (sourceFoot x ++ sourceFoot y) (foot d) d.count)

/-- For every 32-bit x: vexp2 x saturated to 32 bits is the saturated greatest y with y^65536 at most 2^(16 * 65536 + x), which is floor(65,536 * 2^(x / 65,536)); vrcp x is 2^32 / x with truncation toward zero, and 2^31 - 1 at 0; vrsqrt x for positive x is the greatest y with y * y * x at most 2^48, which is floor(2^24 / sqrt(x)), and 2^31 - 1 otherwise. VSUM, VEXP2, VRCP, VRSQRT, VSOFTMAX, VNORM and VROPE, whose instance may issue with its predicate, views in ES, shapes, blocks and tables as the rules ask and every word read good, complete: each element of the destination view is its row's sum, the function of the source's element, or its element of the row's softmax, norm or rotation, saturated to the destination's format, with the occupancy, count and charge of its entry. (R147, R149, R150, R151, R152, R169) -/
def Obligations.UnaryFunctionsAreExact : Prop :=
  (∀ x : Int, -(2 ^ 31) ≤ x → x < 2 ^ 31 →
    (x < -(16 * 65536) → vexp2 x = 0) ∧
    (-(16 * 65536) ≤ x → x < 15 * 65536 → ∃ y : Nat, vexp2 x = y ∧ y ^ 65536 ≤ 2 ^ (16 * 65536 + x).toNat ∧
      2 ^ (16 * 65536 + x).toNat < (y + 1) ^ 65536) ∧
    (15 * 65536 ≤ x → 2 ^ 31 ≤ vexp2 x) ∧
    (x = 0 → vrcp x = 2 ^ 31 - 1) ∧ (x ≠ 0 → vrcp x = (2 ^ 32 : Int).tdiv x) ∧
    (x ≤ 0 → vrsqrt x = 2 ^ 31 - 1) ∧
    (0 < x → ∃ y : Nat, vrsqrt x = y ∧ y * y * x.toNat ≤ 2 ^ 48 ∧ 2 ^ 48 < (y + 1) * (y + 1) * x.toNat)) ∧
  (∀ (s : State) (e : Nat) (w : Insn) (i : Inst) (r : Run) (d v : View), Turn s e i w → r = runAt s i w 0 →
    esView r true w.kindA w.a = .ok d → esView r false w.kindB w.b = .ok v →
    (d.ext = v.ext.set 0 1 → IssuesAs (.vsum e w) s e i w 0
      (stElems r d (d.tuples.map fun t =>
        (t, satFmt d.format (((span 0 (v.extent 0)).map fun k => ldElem r v (t.set 0 k)).foldl (· + ·) 0))))
      ⟨stOk, 3, lanesOf v.count, lanesOf v.count + 9, 60 * lanesOf v.count⟩ (foot v) (foot d) v.count) ∧
    (v.format = 3 → v.ext = d.ext →
      ∀ c f, (c = Instr.vexp2 e w ∧ f = vexp2) ∨ (c = Instr.vrcp e w ∧ f = vrcp) ∨ (c = Instr.vrsqrt e w ∧ f = vrsqrt) →
        IssuesAs c s e i w 0 (stElems r d (d.tuples.map fun t => (t, satFmt d.format (f (ldElem r v t)))))
          ⟨stOk, 3, lanesOf d.count, lanesOf d.count + 11, 90 * lanesOf d.count⟩ (foot v) (foot d) d.count) ∧
    (∀ n, v.format = 3 → v.ext = d.ext → v.extent 0 ≤ 32767 → w.c.toNat ≤ 16 → n = 3 * v.rowCount * ceilDiv (v.extent 0) 64 →
      IssuesAs (.vsoftmax e w) s e i w 0
        (stElems r d (d.rows.flatMap fun t => rowPut t ((softmaxRow w.c.toNat (rowElems r v t)).map (satFmt d.format))))
        ⟨stOk, 3, n, n + 36, 90 * n⟩ (foot v) (foot d) d.count) ∧
    (∀ layer n l g q, v.ext = d.ext → l = blockBytes r w 16 → layer = bit (field l 2 1) 0 →
      n = (if layer then 3 else 2) * v.rowCount * ceilDiv (v.extent 0) 64 → BlockAt r w 16 (n + if layer then 42 else 30) →
      q = afterBlock r w 16 → field l 3 1 ≤ 63 → field l 0 2 < 1024 → viewAt q false (field l 0 2) 0 = .ok g → g.space = 0 →
      g.ext = [v.extent 0, 1, 1, 1, 1] → IssuesAs (.vnorm e w) s e i w 0
        (stElems q d (d.rows.flatMap fun t =>
          rowPut t ((normRow layer (field l 3 1) (field l 4 4) (rowElems q v t) (ldView q g)).map (satFmt d.format))))
        ⟨stOk, 3, n, n + (if layer then 42 else 30), 90 * n⟩
        (foot v ++ foot g ++ foot (bytesView w.c 16) ++ footDesc q (field l 0 2)) (foot d) d.count) ∧
    (∀ n l q u ps base, v.ext = d.ext → v.extent 0 % 2 = 0 → 16 ≤ v.extent 0 → v.extent 0 ≤ 256 → n = ceilDiv d.count 16 →
      BlockAt r w 16 (n + 40) → l = blockBytes r w 16 → q = afterBlock r w 16 → bit (field l 0xA 1) 0 = false →
      ps = span (field l 4 4) v.rowCount → base = 16 * field l 0 4 → (ps.all fun p => p < field l 0xB 4) = true →
      (ps = [] ∨ checkSpan q false 2 base (base + 2 * v.extent 0 * (ps.foldl max 0 + 1) - 1) = .ok ()) →
      u = noteReads q 2 (ropeAddrs base (v.extent 0) ps) → checkArrival u 2 (n + 40) (ropeAddrs base (v.extent 0) ps) = .ok () →
      IssuesAs (.vrope e w) s e i w 0
        (stElems u d ((List.zip d.rows ps).flatMap fun x =>
          rowPut x.1 ((ropeRow (ropeEntry u base (v.extent 0) x.2) (rowElems u v x.1)).map (satFmt d.format))))
        ⟨stOk, 3, n, n + 40, 90 * n⟩
        (foot v ++ foot (bytesView w.c 16) ++ [(2, base, base + 2 * v.extent 0 * field l 0xB 4)]) (foot d) d.count) ∧
    (∀ n l q u p xs ps base, v.ext = d.ext → v.extent 0 % 2 = 0 → 16 ≤ v.extent 0 → v.extent 0 ≤ 256 → n = ceilDiv d.count 16 →
      BlockAt r w 16 (n + 40) → l = blockBytes r w 16 → q = afterBlock r w 16 → bit (field l 0xA 1) 0 = true →
      field l 8 2 < 1024 → viewAt q false (field l 8 2) 0 = .ok p → p.space = 0 → xs = ldView q p → v.rowCount ≤ xs.length →
      ((xs.take v.rowCount).all fun x => 0 ≤ x) = true → ps = (xs.take v.rowCount).map Int.toNat → base = 16 * field l 0 4 →
      (ps.all fun p => p < field l 0xB 4) = true →
      (ps = [] ∨ checkSpan q false 2 base (base + 2 * v.extent 0 * (ps.foldl max 0 + 1) - 1) = .ok ()) →
      u = noteReads q 2 (ropeAddrs base (v.extent 0) ps) → checkArrival u 2 (n + 40) (ropeAddrs base (v.extent 0) ps) = .ok () →
      IssuesAs (.vrope e w) s e i w 0
        (stElems u d ((List.zip d.rows ps).flatMap fun x =>
          rowPut x.1 ((ropeRow (ropeEntry u base (v.extent 0) x.2) (rowElems u v x.1)).map (satFmt d.format))))
        ⟨stOk, 3, n, n + 40, 90 * n⟩
        (foot v ++ foot (bytesView w.c 16) ++ foot p ++ footDesc q (field l 8 2) ++
          [(2, base, base + 2 * v.extent 0 * field l 0xB 4)]) (foot d) d.count))

/-- For every bank element, sum and key: bankAdd writes the saturated int32 of the sum plus what was there (plus 0 where the instruction clears), and where the operand is int16 the sum is first shifted after saturating to 48 bits and saturated to 32; it counts one saturation where the written element, or the shifted sum, differs from its exact value, else none. A matrix instruction that clears, or meets an invalid header, writes its own header; else it adds its Ktot where every field the rule compares agrees, and has no header where one does not. MMA, CONV, DWCONV and POOL, whose instance may issue with its predicate, views in ES, forms, geometry block and header as the rules ask, and every word read good, complete: the bank of the engine takes the product and the header, or POOL's destination the pooled values, with the occupancy, count and charge of the entry. (R144, R145, R146, R172, R173, R174, R175, R180, R229) -/
def Obligations.BankAddSaturatesOnce : Prop :=
  (∀ (t : Table Int) (k : Nat) (clear : Bool) (x v : Int), tableWf 0 t = true → v = (if clear then 0 else tget 0 t k) →
    (tget 0 (bankAdd t k clear x none).1 k = max (-(2 ^ 31)) (min (2 ^ 31 - 1) (v + x)) ∧
      (bankAdd t k clear x none).2 = (if -(2 ^ 31) ≤ v + x ∧ v + x < 2 ^ 31 then 0 else 1)) ∧
    (∀ sh : Int, tget 0 (bankAdd t k clear x (some sh)).1 k =
      max (-(2 ^ 31)) (min (2 ^ 31 - 1) (v + max (-(2 ^ 31)) (min (2 ^ 31 - 1) (shiftTz (max (-(2 ^ 47)) (min (2 ^ 47 - 1) x)) sh))))) ∧
    (∀ j sh, j ≠ k → tget 0 (bankAdd t k clear x sh).1 j = tget 0 t j) ∧ (∀ sh, tableWf 0 (bankAdd t k clear x sh).1 = true)) ∧
  (∀ (h n : Header),
    headerAfter h n true = some n ∧ (h.valid = false → ∀ clear, headerAfter h n clear = some n) ∧
    (h.valid = true → (∃ k sc, h = { n with ktot := k, scaled := sc }) → headerAfter h n false = some { h with ktot := h.ktot + n.ktot }) ∧
    (h.valid = true → (¬ ∃ k sc, h = { n with ktot := k, scaled := sc }) → headerAfter h n false = none)) ∧
  (∀ (s : State) (e : Nat) (w : Insn) (i : Inst) (r : Run) (x y : View), Turn s e i w → r = runAt s i w 0 →
    esView r false w.kindA w.a = .ok x → esView r false w.kindB w.b = .ok y →
    (∀ clear h, matrixForm r x y 1 false = .ok () → flatFrom x 2 = true → flatFrom y 2 = true → x.extent 0 = y.extent 0 →
      x.extent 1 ≤ 64 → y.extent 1 ≤ 64 → clear = bit w.c.toNat 0 →
      headerAfter (bankOf r).header (headerFor x y (x.extent 0) 0) clear = some h →
      IssuesAs (.mma e w) s e i w 0 (putProduct r (mmaProduct x y r) clear x h)
        ⟨stOk, 2, depthTime x.format (x.extent 0), depthCount x.format (x.extent 0),
          matrixRate x.format * depthTime x.format (x.extent 0)⟩
        (foot x ++ foot y ++ [] ++ (if x.format = 2 then footScale r x else [])) footBank (x.extent 0)) ∧
    (∀ k g q h, k = y.extent 2 * y.extent 1 * y.extent 0 → GeometryAt r w false (fun _ => depthCount y.format k) g →
      q = afterBlock r w 32 → matrixForm q y x 3 false = .ok () → flatFrom x 3 = true → flatFrom y 4 = true →
      y.extent 2 = x.extent 2 → y.extent 3 ≤ 64 → headerAfter (bankOf r).header (headerFor y x k 0) g.clear = some h →
      IssuesAs (.conv e w) s e i w 0 (putProduct q (convProduct g x y q) g.clear y h)
        ⟨stOk, 2, depthTime y.format k, depthCount y.format k, matrixRate y.format * depthTime y.format k⟩
        (foot y ++ foot x ++ foot (bytesView w.c 32) ++ (if y.format = 2 then footScale q y else [])) footBank k) ∧
    (∀ g q h, GeometryAt r w false (fun g => dwconvTime g y + 72) g → q = afterBlock r w 32 →
      matrixForm q y x (if g.grouped then 3 else 2) true = .ok () → flatFrom x 3 = true → groupsOk g x y = true →
      (if g.grouped then y.extent 3 else y.extent 2) ≤ 64 → dwconvTaps g y ≤ 64 →
      headerAfter (bankOf r).header (headerFor y x (dwconvTaps g y) 1) g.clear = some h →
      IssuesAs (.dwconv e w) s e i w 0 (putProduct q (dwconvProduct g x y q) g.clear y h)
        ⟨stOk, 2, dwconvTime g y, dwconvTime g y + 72, (if y.format = 2 then 400 else 550) * dwconvTime g y⟩
        (foot y ++ foot x ++ foot (bytesView w.c 32) ++ (if y.format = 2 then footScale q y else [])) footBank (dwconvTaps g y))) ∧
  (∀ (s : State) (e : Nat) (w : Insn) (i : Inst) (r : Run) (d v : View) (g : Geometry) (q : Run), Turn s e i w → r = runAt s i w 0 →
    esView r true w.kindA w.a = .ok d → esView r false w.kindB w.b = .ok v →
    GeometryAt r w true (fun g => poolTime g.positions (g.kh * g.kw) + 72) g → q = afterBlock r w 32 → d.format = v.format →
    d.zero = v.zero → flatFrom v 3 = true → flatFrom d 3 = true → v.extent 2 ≤ 64 → v.extent 2 ≤ d.extent 2 →
    ((span 0 g.positions).all fun j => (g.p0 + j) % g.wout < d.extent 0 && (g.p0 + j) / g.wout < d.extent 1) = true →
    IssuesAs (.pool e w) s e i w 0
      (stElems q d ((span 0 g.positions).flatMap fun j => (span 0 (v.extent 2)).map fun c => (poolIndex g j c, poolValue q v g j c)))
      ⟨stOk, 2, poolTime g.positions (g.kh * g.kw), poolTime g.positions (g.kh * g.kw) + 72,
        550 * poolTime g.positions (g.kh * g.kw)⟩ (foot v ++ foot (bytesView w.c 32)) (foot d) (g.kh * g.kw))

/-- For every entry, zero point and value: the code of a constant channel is 0 and counts no saturation; that of any other is the value shifted by the entry, plus the zero point, saturated to the format, and counts one saturation where that changed it. The shift calibration chooses is from -32 to 31, no smaller shift fits both ends, and it fits both ends where any shift of that range does; 31 where none does. QCAL, QCVT, QSTAT, GRADQ and OPTSTEP, whose instance may issue with its predicate, views in ES, shapes, banks, blocks and records as the rules ask and every word read good, complete: QCAL leaves the entries and the record of its channels, QCVT the codes, QSTAT the counts, GRADQ entries and codes, OPTSTEP the new weights, moments and residue, each with the status, occupancy, count and charge of its entry. (R153, R166, R167, R169, R179, R180, R181, R184, R185, R188, R189, R191) -/
def Obligations.CodesAndCalibration : Prop :=
  (∀ (f : Nat) (zero x : Int) (en : Entry16), f < 4 →
    (en.isConst = true → codeOf f zero en x = (0, false)) ∧
    (en.isConst = false → (codeOf f zero en x).1 =
      max (-(2 ^ (fmtBits f - 1))) (min (2 ^ (fmtBits f - 1) - 1) (shiftTz x en.shift + zero)) ∧
      ((codeOf f zero en x).2 = false ↔
        -(2 ^ (fmtBits f - 1)) ≤ shiftTz x en.shift + zero ∧ shiftTz x en.shift + zero ≤ 2 ^ (fmtBits f - 1) - 1))) ∧
  (∀ (f : Nat) (zero lo hi : Int) (fits : Int → Prop), f < 4 →
    (∀ t, fits t ↔ satFmt f (shiftTz lo t + zero) = shiftTz lo t + zero ∧ satFmt f (shiftTz hi t + zero) = shiftTz hi t + zero) →
    -32 ≤ fitShift f zero lo hi ∧ fitShift f zero lo hi ≤ 31 ∧ (∀ t, -32 ≤ t → t < fitShift f zero lo hi → ¬ fits t) ∧
    ((∃ t, -32 ≤ t ∧ t ≤ 31 ∧ fits t) → fits (fitShift f zero lo hi)) ∧
    ((¬ ∃ t, -32 ≤ t ∧ t ≤ 31 ∧ fits t) → fitShift f zero lo hi = 31)) ∧
  (∀ (s : State) (e : Nat) (w : Insn) (i : Inst) (r : Run) (d v : View), Turn s e i w → r = runAt s i w 0 → scaleFits d = true →
    esView r false w.kindB w.b = .ok v → scaleFits v = true → sameShape d v = true →
    (∀ n v' q k l, esView r false w.kindA w.a = .ok d → d.scaled = true → v.format = 2 ∨ v.format = 3 →
      recordView r w (8 * d.channels) = .ok v' → (q, k, l) = calibrateAll r d v → n = lanesOf v.count + 2 * ceilDiv d.channels 64 →
      IssuesAs (.qcal e w) s e i w 0
        (match v' with
          | some x => stBytes q 2 (x.bit0.toNat / 8) (l.flatMap fun p => bytesLe (word32 p.1) 4 ++ bytesLe (word32 p.2) 4)
          | none => q)
        ⟨if k then stConst else stOk, 3, n, n + 12, 60 * n⟩ (foot v ++ footScale r v ++ footScale r d)
        ((v'.map foot).getD [] ++ footScale r d) v.count) ∧
    (∀ n, esView r true w.kindA w.a = .ok d → w.kindB = .descriptor → bit w.c.toNat 0 = false → n = lanesOf d.count →
      IssuesAs (.qcvt e w) s e i w 0
        (putCodes r d (d.tuples.map fun t => (t, codeOf d.format d.zero (scaleOf r d (d.chanOf t))
          (if bit w.c.toNat 1 then sourceValue r v t + (scaleOf r d (d.chanOf t)).bias else sourceValue r v t))))
        ⟨stOk, 3, n, n + 5, 60 * n⟩ (foot v ++ footScale r v ++ footScale r d) (foot d) d.count) ∧
    (∀ n x counts, esView r false w.kindA w.a = .ok d → v.format = 2 ∨ v.format = 3 → w.kindC = .store →
      recordView r w (4 * d.channels) = .ok (some x) →
      counts = ((channelTuples r d v).map fun ch => (ch.2.length,
        (ch.2.filter fun t => (codeOf d.format d.zero (scaleOf r d ch.1) (sourceValue r v t)).2).length)) →
      n = lanesOf v.count + 2 * ceilDiv d.channels 64 →
      IssuesAs (.qstat e w) s e i w 0
        (raiseSat (stBytes r 2 (x.bit0.toNat / 8) (counts.flatMap fun p => bytesLe (min p.2 0xFFFFFFFF) 4))
          (counts.any fun p => clipped i.theta p.1 p.2))
        ⟨if counts.any fun p => clipped i.theta p.1 p.2 then stSat else stOk, 3, n, n + 8, 60 * n⟩
        (foot v ++ footScale r v ++ footScale r d) (foot x) v.count) ∧
    (∀ n q k l, esView r true w.kindA w.a = .ok d → d.format = 1 → v.format = 3 → d.scaled = true → (q, k, l) = calibrateAll r d v →
      n = 2 * lanesOf d.count + 2 * ceilDiv d.channels 64 →
      IssuesAs (.gradq e w) s e i w 0
        (putCodes q d (d.tuples.map fun t => (t, codeOf d.format d.zero (scaleOf q d (d.chanOf t)) (sourceValue r v t))))
        ⟨if k then stConst else stOk, 3, n, n + 16, 60 * n⟩ (foot v ++ footScale r v ++ footScale r d) (foot d ++ footScale r d) d.count)) ∧
  (∀ (s : State) (e : Nat) (w : Insn) (i : Inst) (r : Run) (d : View) (n : Nat) (b : Bank) (corr : Bool), Turn s e i w → r = runAt s i w 0 →
    esView r true w.kindA w.a = .ok d → w.kindB ≠ .descriptor → scaleFits d = true → d.rank = 2 → d.extent 0 ≤ 64 → d.extent 1 ≤ 64 →
    b = bankOf r → corr = bit w.c.toNat 0 → (corr = true → b.header.valid = true → b.header.format ≠ 2 → b.header.bank < 1024) →
    n = lanesOf d.count →
    IssuesAs (.qcvt e w) s e i w 0
      (putCodes r d (d.tuples.map fun t =>
        let x := if corr then correctedBank r b (t.getD d.chdim 0) (t.getD (1 - d.chdim) 0)
          else tileAt b (64 * t.getD d.chdim 0 + t.getD (1 - d.chdim) 0)
        (t, codeOf d.format d.zero (scaleOf r d (d.chanOf t)) (if bit w.c.toNat 1 then x + (scaleOf r d (d.chanOf t)).bias else x))))
      ⟨stOk, 3, n, n + 5, 60 * n⟩ (footBank ++ footScale r d ++ if corr then footCorrection r b.header else []) (foot d) d.count) ∧
  (∀ (s : State) (e : Nat) (w : Insn) (i : Inst) (r q u : Run) (wv gv wo mi mo ri ro vi vo : View) (n k : Nat) (b : OptBlock)
      (out : List (List Nat × Int × Int × Int × Int × Bool)), Turn s e i w → r = runAt s i w 0 →
    esView r false w.kindA w.a = .ok wv → esView r false w.kindB w.b = .ok gv → n = 4 * lanesOf wv.count → BlockAt r w 32 (n + 24) →
    b = parseOpt (blockBytes r w 32) → q = afterBlock r w 32 → b.reserved = false → -64 ≤ b.ge → b.ge ≤ 63 → b.sv ≤ 63 → b.sl ≤ 63 →
    b.sd ≤ 63 → wv.format = 2 → gv.format = 1 → sameShape wv gv = true →
    (∀ x ∈ [(b.wOut, wo), (b.mIn, mi), (b.mOut, mo), (b.rIn, ri), (b.rOut, ro)] ++
        (if b.adaptive then [(b.vIn, vi), (b.vOut, vo)] else []),
      x.1 < 1024 ∧ viewAt q false x.1 0 = .ok x.2 ∧ x.2.space = 0 ∧ x.2.format = 2 ∧ x.2.ext = wv.ext) →
    (b.adaptive = false → vi = mi ∧ vo = mo) → scaleFits gv = true → (b.refresh = true → scaleFits wo = true) →
    (∀ o ∈ [wo, mo, ro, vo], ∀ x ∈ [wv, gv, mi, ri, vi], viewsOverlap o x = false) →
    out = wv.tuples.map (fun t => (t, optElem b (gradOf q b gv t) (ldElem q wv t) (ldElem q mi t)
      (if b.adaptive then ldElem q vi t else 0) (ldElem q ri t))) →
    u = (let x := stElems (stElems q wo (out.map fun o => (o.1, o.2.1))) mo (out.map fun o => (o.1, o.2.2.1))
      let x := stElems (if b.adaptive then stElems x vo (out.map fun o => (o.1, o.2.2.2.1)) else x) ro (out.map fun o => (o.1, o.2.2.2.2.1))
      if b.refresh then refreshSums x wo else x) →
    k = (out.filter fun o => o.2.2.2.2.2).length →
    IssuesAs (.optstep e w) s e i w 0
      (raiseSat { u with i := { u.i with saturated := u.i.saturated + k } } (clipped i.theta wv.count k))
      ⟨if clipped i.theta wv.count k then stSat else stOk, 3, n, n + 24, 60 * n⟩
      (foot wv ++ foot gv ++ foot mi ++ foot ri ++ foot vi ++ foot (bytesView w.c 32) ++ footScale q gv ++
        ([b.wOut, b.mIn, b.mOut, b.rIn, b.rOut] ++ if b.adaptive then [b.vIn, b.vOut] else []).flatMap (footDesc q))
      (foot wo ++ foot mo ++ foot ro ++ foot vo ++ (if b.refresh && wo.perChannel then footScale q wo else [])) wv.count)

/-- A good word (zero syndrome) reads good. For every bit k of the 144 the read finds exactly that bit in error, and delivers the data as stored; for every two different bits it reports the word uncorrectable; and so for every error of two, three or four bits confined to one aligned nibble. (R213, R214) -/
def Obligations.WordCodeCorrectsOneAndDetectsTwo : Prop :=
  eccDecode 0 = .good ∧
  (∀ k < 144, eccDecode (BitVec.twoPow 144 k) = .corrected k ∧ eccResidue (BitVec.twoPow 144 k) = 0) ∧
  (∀ j < 144, ∀ k < 144, j ≠ k → eccDecode (BitVec.twoPow 144 j ^^^ BitVec.twoPow 144 k) = .uncorrectable) ∧
  (∀ n < 36, ∀ m < 16, m ≠ 0 → m ≠ 1 → m ≠ 2 → m ≠ 4 → m ≠ 8 → eccDecode (BitVec.ofNat 144 (m * 2 ^ (4 * n))) = .uncorrectable)

/-- For every store with its upsets in canonical form, every address and byte: after writing the byte, reading it gives it, every other address reads as it did before (a word with an upset is merged as delivered and has none after), and the store and its upsets stay canonical. LOAD, STORE, COPY, GATHER and HALO, whose instance may issue with its predicate, operands of a form, extents and spaces as the rules ask, lines and frames of a ring window present, the shutter open where the source is the audio ring, and every word read good, complete: the destination register takes the 32-bit word, or each element of the destination the source's (a GATHER's rows by its indexes; a HALO's rows from y0 on, those outside the source its zero point), with the occupancy, count and charge of the entry; the bytes of XS and DS that were read are marked as read. (R125, R127, R130, R138, R139, R140, R141, R142, R199, R214, R512) -/
def Obligations.StoreReadsBackWhatWasWritten : Prop :=
  (∀ (m : Memory) (up : Table (BitVec 144)) (a : Nat) (b : Byte), m.wf = true → tableWf 0 up = true →
    rdStore (wrStore m up a b).1 (wrStore m up a b).2 a = b ∧
    (∀ k, k ≠ a → rdStore (wrStore m up a b).1 (wrStore m up a b).2 k = rdStore m up k) ∧
    (wrStore m up a b).1.wf = true ∧ tableWf 0 (wrStore m up a b).2 = true) ∧
  (∀ (s : State) (e : Nat) (w : Insn) (i : Inst) (r q : Run) (d v : View) (ud uv u : Nat) (ring : Bool) (x : Nat × Nat) (srcs : Nat)
      (c : Instr), Turn s e i w →
    (c = Instr.load e w ∧ srcs = 2 ∧ w.kindA ≠ .scalar ∧ d.space = 0) ∨ (c = Instr.store e w ∧ srcs = 0 ∧ v.space = 0 ∧ d.space ≠ 0) ∨
      (c = Instr.copy e w ∧ srcs = 0) →
    r = runAt s i w srcs → moveViews r w = .ok (d, v, ud, uv) → u = max ud uv → ring = fromRing r v →
    x = moveTime ring u v.space d.space → checkArrival r v.space x.2 v.addrs = .ok () → denied r v = false →
    q = noteReads r v.space v.addrs →
    IssuesAs c s e i w srcs (copyElems q w d v) ⟨stOk, 1, x.1, x.2, u * moveRate (if ring then 2 else max d.space v.space)⟩
      (foot v) (foot (d.within v.ext)) u) ∧
  (∀ (s : State) (e : Nat) (w : Insn) (i : Inst) (r q : Run) (v : View) (n : Nat), Turn s e i w → r = runAt s i w 2 →
    w.kindA = .scalar → w.kindB = .store → v = bytesView w.b 4 → v.space < 3 → checkView r false v = .ok () →
    n = (if fromRing r v then 64 else leadOf v.space) + 1 → checkArrival r v.space n v.addrs = .ok () → denied r v = false →
    q = noteReads r v.space v.addrs →
    IssuesAs (.load e w) s e i w 2 { q with i := setReg q.i (slotReg w.a) (BitVec.ofNat 32 (ldLe q v.space (storeByte w.b) 4)) }
      ⟨stOk, 1, 1, n, moveRate v.space⟩ (foot v) (footReg (slotReg w.a)) 1) ∧
  (∀ (s : State) (e : Nat) (w : Insn) (i : Inst) (r q : Run) (d v x : View) (rows : List Nat) (m len count : Nat)
      (put : List (List Nat × List Nat)), Turn s e i w → r = runAt s i w 0 →
    esView r true w.kindA w.a = .ok d → slotView r false w.kindB w.b = .ok v → esView r false w.kindC w.c = .ok x →
    2 ≤ v.rank → x.format = 3 → x.rank = 1 → d.format = v.format → d.rank = v.rank →
    (ldView r x).all (fun k => 0 ≤ k && k < v.extent (v.rank - 1)) = true → m = x.count →
    coversExt d { v with ext := v.ext.set (v.rank - 1) m } = true → rows = (ldView r x).map Int.toNat →
    len = packedBytes v.format v.rowTuples.length → count = gatherCount (fromRing r v) m len v.space →
    put = (rows.zipIdx.flatMap fun p => v.rowTuples.map fun t => (v.rowAt t p.1, d.rowAt t p.2)) →
    checkArrival r v.space count v.addrs = .ok () → denied r v = false →
    q = noteReads r v.space (put.flatMap fun p => v.bytesOf p.1) →
    IssuesAs (.gather e w) s e i w 0 (stElems q d (put.map fun p => (p.2, ldElem q v p.1)))
      ⟨stOk, 1, if m = 0 then 0 else count, count, (m * (ceilDiv len 16 + 1) + ceilDiv m 4) * moveRate v.space⟩
      (foot v ++ foot x) (foot d) m) ∧
  (∀ (s : State) (e : Nat) (w : Insn) (i : Inst) (r q : Run) (d v : View) (y0 : Int) (h hin u fill count : Nat)
      (inside : Nat → Bool) (src : List Nat → List Nat), Turn s e i w → r = runAt s i w 0 →
    esView r true w.kindA w.a = .ok d → slotView r false w.kindB w.b = .ok v → 2 ≤ v.rank → d.format = v.format →
    y0 = signed 16 w.c.toNat → h = w.c.toNat / 65536 → h ≤ d.extent 1 →
    coversExt { d with ext := d.ext.set 1 (v.extent 1) } v = true →
    inside = (fun k : Nat => decide (0 ≤ y0 + (k : Int)) && decide (y0 + (k : Int) < v.extent 1)) → hin = ((span 0 h).filter inside).length →
    u = (if hin = 0 then 0
      else max (View.words { d with ext := v.ext.set 1 hin }) (View.words { v with ext := v.ext.set 1 hin })) →
    fill = (if h - hin = 0 then 0 else View.words { d with ext := v.ext.set 1 (h - hin) }) →
    count = (if hin = 0 then 0 else (moveTime (fromRing r v) u v.space 0).2) + ceilDiv (16 * fill) 128 →
    src = (fun t => t.set 1 (y0 + (t.getD 1 0 : Int)).toNat) → checkArrival r v.space count v.addrs = .ok () →
    q = noteReads r v.space ((((tuples (v.ext.set 1 h)).filter fun t => inside (t.getD 1 0))).flatMap fun t => v.bytesOf (src t)) →
    IssuesAs (.halo e w) s e i w 0
      (stElems q d ((tuples (v.ext.set 1 h)).map fun t => (t, if inside (t.getD 1 0) then ldElem q v (src t) else v.zero)))
      ⟨stOk, 1, count, count, u * moveRate v.space + 10 * fill⟩ (foot v) (foot d) u)

/-- For every write of a byte to XS or DS that goes to the commit buffer, whose table of upsets is in canonical form (log 1): the state of the part is unchanged, the command reads the byte it wrote, and reads every other published byte as before. For every published write that does not, the commit buffer of the instance is unchanged. KVAPPEND, KVATTN, KVEVICT and KVDROP, whose instance may issue with its predicate, whose operands, records, pools, pages and tables open and are in range, whose frames can be had and every word read good, complete: KVAPPEND leaves its keys and values in their pages with the sequence active at its new length, KVATTN each row's output, statistics and scores, KVEVICT the positions of lowest score evicted, KVDROP the sequence dropped, each with the status, occupancy, count and charge of its entry. (R101, R154, R155, R156, R241, R244, R246, R248, R249, R254, R257, R258) -/
def Obligations.StagedWritesAreInvisible : Prop :=
  (∀ (r : Run) (sp a : Nat) (b : Byte), sp = 2 ∨ sp = 3 →
    (stages r sp a = true → tableWf 0 r.i.stagedUp = true → (stByte r sp a b).s = r.s ∧ ldByte (stByte r sp a b) sp a = b ∧
      ∀ tp k, (tp = 2 ∨ tp = 3) → pubKey tp k ≠ pubKey sp a →
        ldByte (stByte r sp a b) tp k = ldByte r tp k) ∧
    (stages r sp a = false → (stByte r sp a b).i.staged = r.i.staged)) ∧
  (∀ (s : State) (e : Nat) (w : Insn) (i : Inst) (r q u : Run) (kv vv : View) (x : Seq) (p : Pool) (k : Take) (d n g count : Nat),
    Turn s e i w → r = runAt s i w 0 → RecordSlot w.kindA w.a → esView r false w.kindB w.b = .ok kv →
    esView r false w.kindC w.c = .ok vv → kv.ext = vv.ext → headOk (kv.extent 0) = true → kvOperand r kv = .ok () →
    kvOperand r vv = .ok () → d = kv.extent 0 → n = kv.extent 1 → openSeq r (storeByte w.a) d = .ok (x, p, q, false) →
    x.len + n ≤ 131072 → ropeTable q x.rope d x.ropeLen (span x.len n) = .ok (u, false) →
    (n = 0 ∨ checkSpan u true 2 x.pages (x.pages + 16 * ceilDiv (x.len + n) 64 - 1) = .ok ()) →
    (n = 0 ∨ ∀ a ∈ [x.score 0, x.score 1], checkSpan u true 2 a (a + 2 * (x.len + n) - 1) = .ok ()) →
    (x.evict = true → checkSpan u true 3 x.log (x.log + 32 * x.logCap - 1) = .ok ()) →
    g = ceilDiv (x.len + n) 64 - x.pageCount →
    takeAll (ctxOf s i.origin.slot).granted.sinks g x.pageCount 0 { r := u, p := p, x := x, extra := 0, evicted := 0, drops := 0 } =
      .ok (k, none) →
    count = 200 + ceilDiv (n * d) 16 + 48 * ceilDiv (n * d) 1024 + 40 * g + k.extra →
    checkArrival k.r 2 count (ropeAddrs x.rope d (span x.len n)) = .ok () →
    IssuesTo (.kvappend e w) s e i w 0 (appendWrites k kv vv x.len n (exponentOf u kv) (exponentOf u vv)).1
      ⟨if 0 < k.drops then stKvDropped else stOk, 1, count, count, 90 * ceilDiv (n * d) 16 + 150 * (n * d / 8)⟩
      (max g (max k.evicted k.drops)) [2]) ∧
  (∀ (s : State) (e : Nat) (w : Insn) (i : Inst) (r q u z : Run) (d v : View) (plan : Plan) (hd n count : Nat),
    Turn s e i w → r = runAt s i w 0 → esView r true w.kindA w.a = .ok d → esView r false w.kindB w.b = .ok v →
    RecordSlot w.kindC w.c → d.format = 3 → d.ext = v.ext → headOk (v.extent 0) = true → kvOperand r v = .ok () → hd = v.extent 0 →
    n = v.extent 1 → n ≤ 64 → attnPlan r (storeByte w.c) hd n = .ok (plan, q, false) → attnRopes hd plan q = .ok (u, false) →
    attnPlaces u plan n = true → z = noteReads (noteReads u 3 (attnFrames u plan hd)) 2 (attnScores u plan) →
    count = 240 + ceilDiv (n * hd) 16 + 3 * hd * plan.pages →
    checkArrival z 2 count (plan.active.flatMap fun y => ropeAddrs y.1.rope hd [y.2.1]) = .ok () →
    IssuesTo (.kvattn e w) s e i w 0 (attnWrites z d v plan hd n)
      ⟨if plan.dropped then stKvDropped else stOk, 2, count, count,
        550 * (2 * hd * plan.pages) + 150 * (8 * hd * plan.pages) + 90 * ceilDiv (n * hd) 16⟩ plan.pages) ∧
  (∀ (s : State) (e : Nat) (w : Insn) (i : Inst) (r q u : Run) (x : Seq) (p : Pool) (n : Nat), Turn s e i w → r = runAt s i w 2 →
    RecordSlot w.kindA w.a → checkSpan r false 2 (storeByte w.a) (storeByte w.a + 95) = .ok () →
    openSeq (noteReads r 2 (span (storeByte w.a) 96)) (storeByte w.a) (poolDim r (storeByte w.a)) = .ok (x, p, q, false) →
    n = (slotValue i w.kindB w.b).toNat → n ≤ (liveFrom q x (ctxOf s i.origin.slot).granted.sinks).length →
    (if n = 0 then u = q else readSpan q 2 (x.score x.select) (2 * x.len) = .ok (u, false)) →
    (n = 0 ∨ checkSpan u true 3 x.log (x.log + 32 * x.logCap - 1) = .ok ()) →
    IssuesTo (.kvevict e w) s e i w 2 (evictLoop n 0 (u, p, x) (liveFrom q x (ctxOf s i.origin.slot).granted.sinks)).1
      ⟨stOk, 1, evictCount x.len n, evictCount x.len n, 300 * n⟩ n) ∧
  (∀ (s : State) (e : Nat) (w : Insn) (i : Inst) (r q : Run) (x : Seq) (p : Pool), Turn s e i w → r = runAt s i w 0 →
    RecordSlot w.kindA w.a → checkSpan r false 2 (storeByte w.a) (storeByte w.a + 95) = .ok () →
    openSeq (noteReads r 2 (span (storeByte w.a) 96)) (storeByte w.a) (poolDim r (storeByte w.a)) = .ok (x, p, q, false) →
    IssuesTo (.kvdrop e w) s e i w 0 (dropSeq q p x).1
      ⟨stOk, 1, dropCount x.pageCount, dropCount x.pageCount, 0⟩ x.pageCount)

/-- For every state, target line and phase, with d the distance from the present line modulo 2^48: the target is reached exactly where d is 0 and the phase is at least p, or d is 2^47 or more. The phase rises by one on each ARITH edge, holds at 65,535, and holds while it is held; no ledger, context or engine changes as time passes. (R37, R38) -/
def Obligations.TargetIsReached : Prop :=
  (∀ (s : State) (t : Line) (p : Nat), targetReached s t p = true ↔
    ((t.toNat + (2 ^ 48 - s.lix.count.toNat)) % 2 ^ 48 = 0 ∧ p ≤ s.lix.phase.toNat) ∨
      2 ^ 47 ≤ (t.toNat + (2 ^ 48 - s.lix.count.toNat)) % 2 ^ 48) ∧
  (∀ (s : State) (n : Nat), s.lix.hold = false → (advanceTo s (s.now + n)).now = s.now + n ∧
    (advanceTo s (s.now + n)).lix.phase.toNat = min 65535 (s.lix.phase.toNat + n) ∧ (advanceTo s (s.now + n)).lix.count = s.lix.count) ∧
  (∀ (s : State) (k n : Nat), advanceTo (advanceTo s (s.now + k)) (s.now + k + n) = advanceTo s (s.now + k + n)) ∧
  (∀ (s : State) (n : Nat), s.lix.hold = true → (advanceTo s n).lix = s.lix ∧ (advanceTo s n).now = max s.now n)

/-- For every state whose table of context slots and table of engines are in canonical form (keys strictly rising, no entry equal to what an unlisted one reads as): where step answers a next state, they are in canonical form in it. The form is of the model (log 1). (R346, R361) -/
def Obligations.SlotsAndEnginesStayCanonical : Prop :=
  ∀ s t : State, Canonical s → step s = .next t → Canonical t

/-- State.reset is at Stop 0 with target 0 and satisfies the invariants of StopLevelStaysLegal and of SlotsAndEnginesStayCanonical; its tables of slots and engines list nothing, and every context slot is empty. (R346, R371) -/
def Obligations.ResetMeetsTheInvariants : Prop :=
  StopLegal State.reset ∧ State.reset.iris.stop = 0 ∧ Canonical State.reset ∧ State.reset.ctxs = [] ∧ State.reset.engines = [] ∧
  ∀ c, ctxOf State.reset c = Ctx.empty

/-- For an RRECV that comes up with a peer of the set whose link is up, a valid destination and a window of its context from that peer: with no released message in the window it waits, and RRECV_MESSAGE_READY leaves it waiting while there is none. With one that fits, it copies the oldest: that message leaves the window, its credits go back to the sender unless they have already, and the instruction stands in the link queue for 40 cycles and one for every 32 bytes after the end of its wait, with 60 pJ for each 16 bytes, while the next one may issue. A message that a check refuses fails with that check's status, an own part index with CONTEXT_FAULT, a part outside the set with LENGTH_EXCEEDS, a link that is down with LINK_DOWN. RSEND, whose instance may issue with its predicate, toward a peer of the set whose link is up, with a share and a window open there, a source outside DS whose words read good, room in the window and the credits it needs held, completes: its payload is sent as its message, its credits go from held to in flight, with the occupancy, count and charge of its entry. (R122, R162, R163, R393, R394, R397) -/
def Obligations.ReceiveTakesTheOldestMessage : Prop :=
  (∀ (s t : State) (e : Nat) (w : Insn) (i : Inst) (edge p : Nat), comeUp s e w 0 true [] = .go t i edge → p = peerField w.b →
    (p = t.facet.partIndex → exec (.rrecv e w) s = .next (stageFail t e i stFault edge)) ∧
    (p ≠ t.facet.partIndex → t.facet.setSize ≤ p → exec (.rrecv e w) s = .next (stageFail t e i stLength edge)) ∧
    (p ≠ t.facet.partIndex → p < t.facet.setSize → linkUp t p = false →
      exec (.rrecv e w) s = .next (stageFail t e i stLinkDown edge)) ∧
    ∀ d x, p ≠ t.facet.partIndex → p < t.facet.setSize → linkUp t p = true → slotView { s := t, i := i } true w.kindA w.a = .ok d →
      ownWindow t i w = some x →
      ((∀ m ∈ windowQueue t x.number, m.released = false) →
        exec (.rrecv e w) s = .next (setInst t e { i with wait := .message w })) ∧
      (∀ m q st d' xs, tableWf [] t.relay.windows = true → oldestMessage t x.number = some m →
        receiveMessage { s := t, i := i } w x m = .ok (q, st, d', xs) → q.s.relay = t.relay →
        Answers (.rrecv e w) s fun u => Received q u e x m edge) ∧
      (∀ m f, oldestMessage t x.number = some m → receiveMessage { s := t, i := i } w x m = .error f →
        exec (.rrecv e w) s = .next (stageError e { i with wait := .none } f edge))) ∧
  (∀ (s : State) (e : Nat) (w : Insn) (i : Inst) (x : WindowCfg), Runs s e i → i.wait = .message w → s.sys.halted = false →
    i.halted = false → (engOf s e).draining = none →
    (s.facet.windows.find? fun x => x.part = s.facet.partIndex && x.number = windowField w.b && x.owner = i.origin.slot) = some x →
    ((∀ m ∈ windowQueue s x.number, m.released = false) → exec (.rrecvMessageReady e) s = .next s) ∧
    (∀ m q st d' xs, tableWf [] s.relay.windows = true → oldestMessage s x.number = some m →
      receiveMessage { s := s, i := i } w x m = .ok (q, st, d', xs) → q.s.relay = s.relay →
      Answers (.rrecvMessageReady e) s fun u => Received q u e x m (max s.now i.nextIssue))) ∧
  (∀ (s : State) (e : Nat) (w : Insn) (i : Inst) (r u : Run) (v : View) (x : WindowCfg) (k : Credit) (p words n count : Nat),
    Turn s e i w → r = runAt s i w 0 → p = peerField w.a → p ≠ s.facet.partIndex → p < s.facet.setSize → linkUp s p = true →
    slotView r false w.kindB w.b = .ok v → v.space < 3 → 0 < slotShare s i.origin.slot p →
    windowOpen s p (windowField w.a) s.facet.partIndex i.origin.slot = some x → words = ceilDiv (packedBytes v.format v.count) 16 →
    n = ceilDiv (16 * words) 256 → 16 * w.c.toNat + 16 * words ≤ x.size → n ≤ tget 0 i.credits p →
    count = 310 + ceilDiv (16 * words) (2 * slotShare s i.origin.slot p) → checkArrival r v.space count v.addrs = .ok () →
    reading r v = .ok (u, false) → k = creditOf u.s i.origin.slot p →
    IssuesTo (.rsend e w) s e i w 0
      { s := transmit (setCredit u.s i.origin.slot p { k with
            held := k.held - n, flight := k.flight + n, message := (k.message + 1) % 2 ^ 32 })
          { peer := p, kind := 1, slot := i.origin.slot, window := windowField w.a, message := k.message, offset := w.c.toNat,
            bytes := denseBytes v.format (ldView u v), credits := 0 },
        i := { u.i with
          credits := tset 0 i.credits p (tget 0 i.credits p - n),
          sends := i.sends ++ [{ peer := p, window := windowField w.a, message := k.message, offset := w.c.toNat, length := 16 * words,
                                 credits := n }] } }
      ⟨stOk, 6, count, count, 400 * words⟩ words)

/-- In a set of one an ALLRED, whose instance may issue with its predicate, an int32 destination that covers the source's extents, and words that read good, completes: each element of the destination is the source's, in the link queue for 8 cycles and one for every 128 bytes, charged 10 pJ for each 16 bytes. In a set of two or more, an ALLRED that comes up and passes its checks sends, while no chunk of another part is here, to every peer, from the one after it round to the one before it, the chunk that peer owns, and waits for its receives, marked as not to be pre-empted. (R122, R164, R358, R391, R395) -/
def Obligations.ReductionExchangesChunks : Prop :=
  (∀ (s : State) (e : Nat) (w : Insn) (i : Inst) (r u z q : Run) (d v : View) (y count : Nat), s.facet.setSize ≤ 1 → Turn s e i w →
    r = runAt s i w 0 → slotView r true w.kindA w.a = .ok d → slotView r false w.kindB w.b = .ok v → d.format = 3 → v.format ≠ 0 →
    coversExt d v = true → y = packedBytes v.format v.count → count = 8 + ceilDiv y 128 →
    checkArrival r v.space count v.addrs = .ok () → reading r v = .ok (u, false) →
    writing u (d.within v.ext) v.tuples = .ok (z, false) → q = stElems z d (v.tuples.map fun t => (t, ldElem z v t)) →
    IssuesTo (.allred e w) s e i w 0 { q with i := { q.i with allred := true } } ⟨stOk, 6, count, count, 10 * ceilDiv y 16⟩ y) ∧
  (∀ (s t : State) (e : Nat) (w : Insn) (i : Inst) (edge : Nat) (d v : View) (r : Run) (st : Nat), 1 < s.facet.setSize →
    comeUp s e w 0 true [] = .go t i edge → allredSetup { s := t, i := i } w = .ok (d, v, r, st) →
    r.s.relay = t.relay → r.s.facet = t.facet → r.i.origin = i.origin → t.relay.chunks = [] →
    Answers (.allred e w) s fun u => u.ctxs = r.s.ctxs ∧ u.ledgers = r.s.ledgers ∧ (∃ j, Runs u e j ∧ j.allred = true ∧ (∃ xs, j.wait = .reduce w 0 xs) ∧
        j.staged = r.i.staged) ∧
      u.relay.sent = t.relay.sent ++ (peerOrder t).map fun p =>
        { peer := p, kind := 4, slot := i.origin.slot, window := allredTag w, message := 0, offset := p,
          bytes := bytesOfWords (wordsOf (denseBytes v.format
            (chunkElems (ldView r v) v.format (chunkBytes (packedBytes v.format v.count) t.facet.setSize) p))), credits := 0 })

/-- For a part not halted with one ready instance, that is ready by now, not deferred and meets the conditions of admission, and an engine that takes it: where tokens and heat fit, ADMISSION starts it there, at the first instruction of its command, with nothing staged, its first issue 8 cycles on, its reservation moved from free to held, and it is ready no more. Where the tokens do not fit it stays ready, deferred for tokens; where they do and the heat does not, deferred for heat; no engine changes then. (R96, R352, R353, R354, R355, R374, R376) -/
def Obligations.AdmissionPlacesAReadyInstance : Prop :=
  ∀ (s : State) (r : Ready) (e : Nat), s.sys.halted = false → s.ready = [r] → r.readyEdge ≤ s.now → r.deferral = .no →
    mayAdmit s r = true → placement s r = some e →
    (tokensFit s r = true → heatFits s r (e / 4) = true → Answers .admission s fun t => t.ready = [] ∧
      t.iris.free = s.iris.free - reservation (commandOf s r.slot r.cmd) ∧
      t.iris.held = s.iris.held + reservation (commandOf s r.slot r.cmd) ∧ t.iris.capacity = s.iris.capacity ∧
      ∃ i, Runs t e i ∧ i.origin = r ∧ i.engine = e ∧ i.admitEdge = max s.now (engOf s e).freeAt ∧ i.nextIssue = i.admitEdge + 8 ∧
        i.staged = [] ∧ i.holds = [] ∧ i.wait = .none ∧ i.pc = (commandOf s r.slot r.cmd).first ∧
        i.reserved = reservation (commandOf s r.slot r.cmd)) ∧
    (tokensFit s r = false → Answers .admission s fun t => t.ready = [{ r with deferral := .tokens }] ∧ t.engines = s.engines ∧
      t.iris = s.iris) ∧
    (tokensFit s r = true → heatFits s r (e / 4) = false → Answers .admission s fun t =>
      t.ready = [{ r with deferral := .heat }] ∧ t.engines = s.engines ∧ t.iris = s.iris)

/-- For an engine whose running instance drains to an edge c: FREEZE_LATCH latches it 4 edges on, most recent first, with its place, its registers and its staged effects as they were; with a pre-emptor the engine then runs that, admitted at c + 4 and issuing at c + 12, else it is free from c + 4. For an engine with nothing running and no pre-emptor coming, FREEZE_RESUME takes the instance frozen most recently, which may issue 12 edges after the engine is free, unless the part is halted. (R360, R361) -/
def Obligations.FreezeAndResume : Prop :=
  (∀ (s : State) (e c : Nat) (i : Inst), (engOf s e).draining = some c → Runs s e i →
    Answers (.freezeLatch e) s fun t => t.now = max s.now (c + 4) ∧
      (∃ j, (engOf t e).frozen = j :: (engOf s e).frozen ∧ j.origin = i.origin ∧ j.pc = i.pc ∧ j.regs = i.regs ∧ j.staged = i.staged ∧
        j.holds = i.holds ∧ j.frozenAt = c ∧ j.wait = i.wait) ∧
      (engOf t e).draining = none ∧ (engOf t e).incoming = none ∧ (engOf t e).freeAt = c + 4 ∧
      ((engOf s e).incoming = none → (engOf t e).run = none) ∧
      (∀ r, (engOf s e).incoming = some r → ∃ k, Runs t e k ∧ k.origin = r ∧ k.admitEdge = c + 4 ∧ k.nextIssue = c + 12 ∧ k.staged = [])) ∧
  (∀ (s : State) (e : Nat) (i : Inst) (rest : List Inst), (engOf s e).run = none → (engOf s e).incoming = none →
    (engOf s e).frozen = i :: rest →
    (s.sys.halted = true → exec (.freezeResume e) s = .next s) ∧
    (s.sys.halted = false → (∀ k n reg, i.wait ≠ .sem k n reg) → Answers (.freezeResume e) s fun t => (engOf t e).frozen = rest ∧
      t.ctxs = s.ctxs ∧ t.ledgers = s.ledgers ∧ ∃ j, Runs t e j ∧ j.nextIssue = max (engOf s e).freeAt s.now + 12 ∧
        j.origin = i.origin ∧ j.pc = i.pc ∧ j.regs = i.regs ∧ j.staged = i.staged))

/-- For an engine whose instance has instructions in flight: INSTRUCTION_COMPLETION moves time to the earliest completion edge among them, every entry complete by then leaves the queue and every other stays in order; the instance is otherwise unchanged, and nothing but time, the trace and the engine changes. Where the part is collimated, IRIS_BEAT moves time to the next multiple of 1,000 edges and counts one beat; the count of lines, the clocks and the Stop level are unchanged, and so is the phase of the line but for the time that passed. Where it is not collimated there is no beat and nothing changes. (R123, R350, R448) -/
def Obligations.BeatsAndCompletionsMoveTime : Prop :=
  (∀ (s : State) (e : Nat) (i : Inst) (c : Nat), Runs s e i → (∀ q ∈ i.queue, c ≤ q.done) → (∃ q ∈ i.queue, q.done = c) →
    Answers (.instructionCompletion e) s fun t => t.now = max s.now c ∧ OnlyIssued s t ∧
      Runs t e { i with queue := i.queue.filter fun q => decide (c < q.done) }) ∧
  (∀ s : State, (s.clk.collimated = true → Answers .irisBeat s fun t => t.now = (s.now / 1000 + 1) * 1000 ∧
      t.iris.beats = s.iris.beats + 1 ∧ t.lix = (advanceTo s ((s.now / 1000 + 1) * 1000)).lix ∧ t.clk = s.clk ∧ t.iris.stop = s.iris.stop) ∧
    (s.clk.collimated = false → exec .irisBeat s = .next s))

/-- For an engine that nothing runs on or is frozen on, and a pre-emptor that has waited for it since an edge: PREEMPT_DELAY_END adds the wait to IRIS_PREEMPT_DELAY, saturating. For an instance that comes to its breakpoint: BREAKPOINT_HIT holds it before its instruction once its earlier ones have completed, with its place, registers and staged effects as they were, stops its context, and posts one event. (R358, R451, R472) -/
def Obligations.PreemptionDelayAndBreakpoint : Prop :=
  (∀ (s : State) (e : Nat) (r : Ready) (since : Nat), (engOf s e).waiting = some (r, since) → (engOf s e).run = none →
    (engOf s e).frozen = [] → s.sys.halted = false → Answers (.preemptDelayEnd e) s fun t =>
      t.iris.preemptDelay = min (s.iris.preemptDelay + ((engOf s e).freeAt - since)) 0xFFFFFFFF) ∧
  (∀ (s : State) (e : Nat) (i : Inst), Runs s e i → atBreak s i = true → i.wait = .none → i.halted = false → i.failed = none →
    s.sys.halted = false → (engOf s e).draining = none → Answers (.breakpointHit e) s fun t =>
      t.now = max s.now (lastDone i.queue i.nextIssue) ∧ (ctxOf t i.origin.slot).state = .stopped ∧
      t.control.head = s.control.head + 1 ∧ t.digest.broken = some (e, lastDone i.queue i.nextIssue) ∧
      ∃ j, Runs t e j ∧ j.halted = true ∧ j.pc = i.pc ∧ j.regs = i.regs ∧ j.staged = i.staged ∧ j.origin = i.origin)

/-- For a slot that holds shares, is marked for teardown and whose part is not halted: TEARDOWN, on the edge of the mark, leaves no ready instance of the slot, no module, no bindings, no held semaphore counts, no mark, all its stores and banks reading zero, the status of the cause in CTX_LAST, and no step of any store ledger held by it; the slot is clearing while a step of it clears and empty otherwise. The active facet and the clocks are unchanged. Premise: the tables of slots and engines are in canonical form (log 1). (R199, R346, R365, R366) -/
def Obligations.TeardownFreesTheContext : Prop :=
  ∀ (s : State) (c edge : Nat) (cause : TearCause) (e : Option Nat), Canonical s → (ctxOf s c).tear = some (cause, e, edge) →
    s.sys.halted = false → occupied (ctxOf s c) = true → Answers (.teardown c) s fun t =>
      t.now = max s.now edge ∧ t.facet = s.facet ∧ t.clk = s.clk ∧ (∀ r ∈ t.ready, r.slot ≠ c) ∧
      (ctxOf t c).tear = none ∧ (ctxOf t c).module = none ∧ (ctxOf t c).bindings = [] ∧ (ctxOf t c).held = [] ∧
      (ctxOf t c).stores = Stores.clear ∧ (ctxOf t c).banks = [] ∧ (ctxOf t c).lastStatus = tearStatus cause ∧
      (ctxOf t c).state = (if clearsAny t.ledgers c then .clearing else .empty) ∧
      ∀ k : StoreKind, ∀ x ∈ ledgerTable t.ledgers k, x.2 ≠ .held c

/-- For a step of a store ledger whose clear is the one that runs, of slot c, and that is not a page of DS at Stop 0: SHARE_CLEAR_DONE makes that step free and leaves every other step of every ledger, every engine, every ready instance and every other slot as they were; the slot keeps its state while a step of it still clears, else it is empty. For a step that is not being cleared, and for a page of DS at Stop 0, where zeroing pauses, it changes nothing. Premise: the tables are in canonical form (log 1). (R199, R208, R346, R365) -/
def Obligations.ClearedStepsAreFree : Prop :=
  (∀ (s : State) (k : StoreKind) (step c : Nat), Canonical s → tableWf .free (ledgerTable s.ledgers k) = true →
    clearingStep k (ledgerTable s.ledgers k) step = some c → (k = .ds → s.iris.stop ≠ 0) → Answers (.shareClearDone k step) s fun t =>
      tget .free (ledgerTable t.ledgers k) step = .free ∧
      (∀ j, j ≠ step → tget .free (ledgerTable t.ledgers k) j = tget .free (ledgerTable s.ledgers k) j) ∧
      (∀ q, q ≠ k → ledgerTable t.ledgers q = ledgerTable s.ledgers q) ∧ t.engines = s.engines ∧ t.ready = s.ready ∧
      (∀ d, d ≠ c → ctxOf t d = ctxOf s d) ∧ (ctxOf t c).state = (if clearsAny t.ledgers c then (ctxOf s c).state else .empty)) ∧
  (∀ (s : State) (k : StoreKind) (step : Nat), clearingStep k (ledgerTable s.ledgers k) step = none ∨ (k = .ds ∧ s.iris.stop = 0) →
    exec (.shareClearDone k step) s = .next s)

/-- For a slot in loading: CONTEXT_LOADED of a module the boot image does not hold leaves load code 0x0A, of one whose section fails its digest code 0, of one the checks refuse the code of the first check it fails, and the slot returns its shares: it is clearing or empty and holds no semaphore counts. A module that passes is bound: the slot holds it with the bounds of its timing sheets, with load code 0 and its virtual engines bound, and is active with its context-start instances ready on the next edge, in command order, where the Stop level reaches its own, else parked with none. No engine changes. Outside loading nothing changes. Premise: canonical tables (log 1). (R81, R112, R113, R346, R351, R403) -/
def Obligations.LoaderBindsOrRefusesByCode : Prop :=
  ∀ (s : State) (c : Nat) (m : Option (List Byte)), Canonical s →
    ((ctxOf s c).state ≠ .loading → exec (.contextLoaded c m) s = .next s) ∧
    ((ctxOf s c).state = .loading →
      (imageModule s (ctxOf s c).granted.module = none → Answers (.contextLoaded c m) s fun t => LoadRefused s t c 0x0A) ∧
      (∀ b x, imageModule s (ctxOf s c).granted.module = some b → m.map parseModule = some x →
        (b.shaOk = false → Answers (.contextLoaded c m) s fun t => LoadRefused s t c 0 ∧ t.control.head = s.control.head + 1) ∧
        (b.shaOk = true → loaderCode s c (ctxOf s c).granted x ≠ 0 → Answers (.contextLoaded c m) s fun t =>
          LoadRefused s t c (loaderCode s c (ctxOf s c).granted x) ∧ t.control = s.control) ∧
        (b.shaOk = true → loaderCode s c (ctxOf s c).granted x = 0 → Answers (.contextLoaded c m) s fun t =>
          (ctxOf t c).module = some (withSheets x (ctxOf s c).granted) ∧ (ctxOf t c).loadCode = 0 ∧ (ctxOf t c).restart = none ∧ (ctxOf t c).banks = [] ∧
          (∀ v, v < x.groups.length → tget 0 (ctxOf t c).bindings v = (bindEngine x (ctxOf s c).granted v).getD 0) ∧
          (ctxOf t c).state = (if (ctxOf s c).granted.level ≤ s.iris.stop then .active else .parked) ∧
          t.ready = s.ready ++ (if (ctxOf s c).granted.level ≤ s.iris.stop then
            (commandsWhere t c fun k => k.trigger = .start).map fun k => { readyOf c k (s.now + 1) with isStart := true } else []) ∧
          t.engines = s.engines ∧ t.ledgers = s.ledgers ∧ t.now = s.now ∧ t.control = s.control)))

/-- With no restart due, or on a halted part, CONTEXT_RESTART changes nothing. A parked slot with nothing running that lost power (cause 1) goes back to loading once its Stop level is reached, one that lost a link (cause 2) once every peer it holds a grant toward is reachable too: the ledgers, its module and its stores stay. While the level is not reached it changes nothing. An empty slot (causes 0 and 4) whose facet has no record for it, or whose shares a ledger cannot give, gives up its restart; nothing else of it changes. (R346, R367, R382, R384, R435) -/
def Obligations.RestartsKeepOrRegrantShares : Prop :=
  (∀ (s : State) (c : Nat), (ctxOf s c).restart = none ∨ s.sys.halted = true → exec (.contextRestart c) s = .next s) ∧
  (∀ (s : State) (c k : Nat), s.sys.halted = false → (ctxOf s c).restart = some k → k = 1 ∨ k = 2 → (ctxOf s c).state = .parked →
    (ctxOf s c).progress.running = [] →
    (storesPowered s c = true → (k = 2 → peersReachable s c = true) → Answers (.contextRestart c) s fun t =>
      ctxOf t c = { ctxOf s c with state := .loading } ∧ t.ledgers = s.ledgers ∧ t.iris = s.iris ∧ t.engines = s.engines ∧
      t.ready = s.ready ∧ t.now = s.now ∧ ∀ d, d ≠ c → ctxOf t d = ctxOf s d) ∧
    (storesPowered s c = false → exec (.contextRestart c) s = .next s)) ∧
  (∀ (s : State) (c k : Nat), Canonical s → s.sys.halted = false → (ctxOf s c).restart = some k → k = 0 ∨ k = 4 →
    (ctxOf s c).state = .empty → (tget CtxRecord.none s.facet.contexts c).present = false → Answers (.contextRestart c) s fun t =>
      ctxOf t c = { ctxOf s c with restart := none } ∧ t.ledgers = s.ledgers ∧ t.engines = s.engines ∧ t.ready = s.ready)

/-- At Stop 0 or on a halted part no scrub happens. Otherwise SRAM_SCRUB of the last word of the own XS of the part ends a pass: MEM_SRAM_PASSES counts it. Of a word of a context XS that reads without an upset it changes nothing; with a pattern the code corrects, the word reads as before, its upset is gone and MEM_CORR_XS counts it, saturating; with one it cannot correct, MEM_UNCORR counts it and the context is marked for teardown on the next edge unless a mark stands. DS_SCRUB_LANE, on a page no context holds and that is not being zeroed, goes to the next of its 1,024 blocks, and after the last to the next of the 16,384 pages, with MEM_DS_PASSES counting the walks; where the words outside the contexts' shares are good, nothing else changes before the last block of the last page. Scrubbing changes no engine and no ready instance. (R210, R216, R217, R218, R219) -/
def Obligations.ScrubRepairsAndCounts : Prop :=
  (∀ (s : State) (k : StoreKind) (c n w : Nat), s.iris.stop = 0 ∨ s.sys.halted = true →
    exec (.sramScrub k c n w) s = .next s ∧ exec .dsScrubLane s = .next s) ∧
  (∀ (s : State) (n : Nat), s.iris.stop ≠ 0 → s.sys.halted = false →
    (Answers (.sramScrub .xs 32 n 16383) s fun t => t.mem.sramPasses = bump s.mem.sramPasses 1 ∧ t.ctxs = s.ctxs ∧ t.engines = s.engines) ∧
    ∀ c w, c < 32 →
      (eccDecode (tget 0 (ctxOf s c).stores.upXs w) = .good → exec (.sramScrub .xs c n w) s = .next s) ∧
      (∀ b, eccDecode (tget 0 (ctxOf s c).stores.upXs w) = .corrected b → Canonical s → tableWf 0 (ctxOf s c).stores.upXs = true →
        tableWf 0 (ctxOf s c).stores.xs = true →
        Answers (.sramScrub .xs c n w) s fun t => tget 0 (ctxOf t c).stores.upXs w = 0 ∧ t.mem.corrXs = bump s.mem.corrXs 1 ∧
          (∀ a, rdStore (ctxOf t c).stores.xs (ctxOf t c).stores.upXs a = rdStore (ctxOf s c).stores.xs (ctxOf s c).stores.upXs a) ∧
          t.engines = s.engines ∧ t.ready = s.ready ∧ ∀ d, d ≠ c → ctxOf t d = ctxOf s d) ∧
      (eccDecode (tget 0 (ctxOf s c).stores.upXs w) = .uncorrectable → Answers (.sramScrub .xs c n w) s fun t =>
        t.mem.uncorr = bump s.mem.uncorr 1 ∧ t.mem.lastStore = storeCode 2 ∧ t.mem.lastCtx = c ∧
        (ctxOf t c).tear = (if (ctxOf s c).tear.isSome then (ctxOf s c).tear else some (.eccUncorrectable, none, s.now + 1)) ∧
        (ctxOf t c).stores = (ctxOf s c).stores ∧ t.engines = s.engines ∧ t.ready = s.ready)) ∧
  (∀ s : State, s.iris.stop ≠ 0 → s.sys.halted = false → tget .free s.ledgers.ds s.mem.dsPage = .free → Answers .dsScrubLane s fun t =>
    t.ctxs = s.ctxs ∧ t.engines = s.engines ∧
    (s.mem.dsBlock + 1 < 1024 → t.mem.dsBlock = s.mem.dsBlock + 1 ∧ t.mem.dsPage = s.mem.dsPage ∧
      (s.mem.upFree = [] → s.mem.upPartDs = [] → t.mem = { s.mem with dsBlock := s.mem.dsBlock + 1 } ∧ t.control = s.control)) ∧
    (1024 ≤ s.mem.dsBlock + 1 → s.mem.dsPage + 1 < 16384 → t.mem.dsBlock = 0 ∧ t.mem.dsPage = s.mem.dsPage + 1 ∧
      (s.mem.upFree = [] → s.mem.upPartDs = [] →
        t.mem = { s.mem with dsBlock := 0, dsPage := s.mem.dsPage + 1 } ∧ t.control = s.control)) ∧
    (1024 ≤ s.mem.dsBlock + 1 → 16384 ≤ s.mem.dsPage + 1 →
      t.mem.dsBlock = 0 ∧ t.mem.dsPage = 0 ∧ t.mem.dsPasses = bump s.mem.dsPasses 1))

/-- On a powered core of a part not halted: HEARTBEAT_MISS of a tile that serves logical engine l marks it dead one edge on and raises the core epoch; with a spare, the engine is served by it, no spare is left and the remap ends 520 edges after the missed heartbeat; with none, engine l is lost. A tile that serves nothing changes nothing. REMAP_DONE moves time to that edge and the remap is over. SPARE_SELF_TEST that fails marks the spare dead and leaves none; that passes, changes nothing. STALE_TRAFFIC_DROP of another epoch counts in SYS_EPOCH_STALE, saturating; of the own epoch it changes nothing. A core without power changes nothing. (R453, R455, R456, R457, R458) -/
def Obligations.TilesAreRemappedOrLost : Prop :=
  (∀ (s : State) (core tile : Nat), corePowered s core = true → s.sys.halted = false →
    (servedBy (coreOf s core) tile = none → exec (.heartbeatMiss core tile) s = .next s) ∧
    ∀ l, servedBy (coreOf s core) tile = some l →
      ((coreOf s core).spare ≠ 7 → Answers (.heartbeatMiss core tile) s fun t => t.now = s.now + 1 ∧
        (coreOf t core).dead = (coreOf s core).dead ||| BitVec.ofNat 5 (2 ^ tile) ∧ (coreOf t core).epoch = (coreOf s core).epoch + 1 ∧
        (coreOf t core).spare = 7 ∧ (coreOf t core).serves = tset 0 (coreOf s core).serves l (coreOf s core).spare ∧
        (coreOf t core).lost = (coreOf s core).lost ∧ (∃ cs, (coreOf t core).remap = some (s.now, l, cs)) ∧ t.facet = s.facet) ∧
      ((coreOf s core).spare = 7 → Answers (.heartbeatMiss core tile) s fun t => t.now = s.now + 1 ∧
        (coreOf t core).dead = (coreOf s core).dead ||| BitVec.ofNat 5 (2 ^ tile) ∧ (coreOf t core).epoch = (coreOf s core).epoch + 1 ∧
        (coreOf t core).lost = (coreOf s core).lost ||| BitVec.ofNat 4 (2 ^ l) ∧ (coreOf t core).serves = (coreOf s core).serves ∧
        t.facet = s.facet)) ∧
  (∀ (s : State) (core d l : Nat) (cs : List Nat), (coreOf s core).remap = some (d, l, cs) → s.sys.halted = false →
    tableWf Core.good s.sys.cores = true → Answers (.remapDone core) s fun t =>
      t.now = max s.now (d + 520) ∧ (coreOf t core).remap = none ∧ (coreOf t core).serves = (coreOf s core).serves ∧
      t.engines = s.engines ∧ t.ledgers = s.ledgers) ∧
  (∀ (s : State) (core : Nat) (pass : Bool), corePowered s core = true → s.sys.halted = false → (coreOf s core).spare ≠ 7 →
    (pass = true → exec (.spareSelfTest core pass) s = .next s) ∧
    (pass = false → Answers (.spareSelfTest core pass) s fun t => (coreOf t core).spare = 7 ∧
      (coreOf t core).dead = (coreOf s core).dead ||| BitVec.ofNat 5 (2 ^ (coreOf s core).spare) ∧
      (coreOf t core).serves = (coreOf s core).serves ∧ t.ctxs = s.ctxs ∧ t.engines = s.engines ∧ t.now = s.now)) ∧
  (∀ (s : State) (core epoch : Nat), corePowered s core = true → s.sys.halted = false →
    (epoch = (coreOf s core).epoch → exec (.staleTrafficDrop core epoch) s = .next s) ∧
    (epoch ≠ (coreOf s core).epoch → Answers (.staleTrafficDrop core epoch) s fun t =>
      t.sys.epochStale = bump s.sys.epochStale 1 ∧ t.sys.cores = s.sys.cores ∧ t.ctxs = s.ctxs ∧ t.engines = s.engines)) ∧
  (∀ (s : State) (core tile : Nat), corePowered s core = false → exec (.heartbeatMiss core tile) s = .next s ∧
    (∀ p, exec (.spareSelfTest core p) s = .next s) ∧ exec (.staleTrafficDrop core tile) s = .next s)

/-- ENC2 is the encoder index input. For every state in which the facet places ENC2 on a ball: a rising edge of it (ENC_INDEX) leaves the present count and phase in LIX_INDEX_LO and LIX_INDEX_HI, as a read of those registers shows, puts one event, naming LIX_INDEX_LO, into the event ring, and leaves the count, the phase and every other field of the Line Index as they were. (R30) -/
def Obligations.EncoderIndexLatchesTheLine : Prop :=
  ∀ s : State, s.facet.balls.contains 0x03 = true → Answers .encIndex s fun t =>
    t.lix = { s.lix with indexCount := s.lix.count, indexPhase := s.lix.phase } ∧
    regPeek t 0x1001C = s.lix.count.toNat % 2 ^ 32 ∧ regPeek t 0x10020 = s.lix.count.toNat / 2 ^ 32 + 65536 * s.lix.phase.toNat ∧
    t.control.head = s.control.head + 1 ∧
    (tget EventRec.blank t.control.events (s.control.head.toNat % 2048)).register = 0x1001C ∧
    (tget EventRec.blank t.control.events (s.control.head.toNat % 2048)).number = s.control.head

/-- With no edge raised, or with the clocks not collimated outside Stop 0, LIX_LINE_EDGE changes nothing. Otherwise it adds one to the count modulo 2^48 on the first ARITH edge 2 past an edge shared with IMAGE that is no earlier than its strobe, takes one raised edge, clears the phase unless the count is the island copy of Stop 0, adds ready instances only of the new line, after those already ready, and changes no engine and no ledger; where the interval is short the sticky OVERSPEED is set and one event posted, else neither. LIX_REF_TICK raises an edge where the source is the reference. A transition of an encoder input moves the quadrature position, of 64 bits, by the count of the decode mode, and raises an edge exactly where the highest position completes a multiple of the divider; a rising ENC3 of the pulse source raises one at every D-th pulse. None of these moves the count. (R27, R28, R29, R32, R35, R37, R42, R46, R99) -/
def Obligations.LinesAdvanceTheIndexByOne : Prop :=
  (∀ (s : State) (n : Nat), s.lix.due = 0 ∨ (s.clk.collimated = false ∧ s.lix.islandOnly = false) →
    exec (.lixLineEdge n) s = .next s) ∧
  (∀ (s : State) (n : Nat), s.lix.due ≠ 0 → s.clk.collimated = true ∨ s.lix.islandOnly = true → Answers (.lixLineEdge n) s fun t =>
    t.lix.count = s.lix.count + 1 ∧ t.lix.due = s.lix.due - 1 ∧ t.lix.phase.toNat ≤ 65535 ∧
    (s.lix.islandOnly = false → t.lix.phase = 0 ∧ t.lix.hold = false) ∧ t.now % 5 = 2 ∧
    max s.now (s.lix.edgeAt + n / 4 * 5) ≤ t.now ∧ t.now < max s.now (s.lix.edgeAt + n / 4 * 5) + 5 ∧
    t.lix.overspeed = (s.lix.overspeed || intervalShort s n) ∧
    t.control.head = (if intervalShort s n then s.control.head + 1 else s.control.head) ∧
    t.engines = s.engines ∧ t.ledgers = s.ledgers ∧ t.iris = s.iris ∧ t.glint = s.glint ∧
    ∃ l, t.ready = s.ready ++ l ∧ ∀ r ∈ l, r.line = s.lix.count + 1 ∧ r.readyEdge = t.now) ∧
  (∀ s : State, (s.lix.source = 0 → Answers .lixRefTick s fun t => t = { s with lix := { s.lix with due := s.lix.due + 1 } }) ∧
    (s.lix.source ≠ 0 → exec .lixRefTick s = .next s)) ∧
  (∀ (s : State) (level : Bool), s.facet.balls.contains 0x01 = true → s.lix.encA ≠ level →
    Answers (.encoderTransition .enc0 level) s fun t => t.lix.encA = level ∧
      t.lix.position = wrap64 (s.lix.position + quadCount s.lix.source true level s.lix.encB) ∧ t.lix.high = max s.lix.high t.lix.position ∧
      t.lix.due = s.lix.due + (if (s.lix.high - s.lix.origin).fdiv s.lix.divider < (t.lix.high - s.lix.origin).fdiv s.lix.divider then 1 else 0) ∧
      t.lix.count = s.lix.count) ∧
  (∀ (s : State) (level : Bool), s.facet.balls.contains 0x02 = true → s.lix.encB ≠ level →
    Answers (.encoderTransition .enc1 level) s fun t => t.lix.encB = level ∧
      t.lix.position = wrap64 (s.lix.position + quadCount s.lix.source false s.lix.encA level) ∧ t.lix.high = max s.lix.high t.lix.position ∧
      t.lix.due = s.lix.due + (if (s.lix.high - s.lix.origin).fdiv s.lix.divider < (t.lix.high - s.lix.origin).fdiv s.lix.divider then 1 else 0) ∧
      t.lix.count = s.lix.count) ∧
  (∀ s : State, s.facet.balls.contains 0x04 = true → s.lix.enc3 = false → s.lix.source = 4 →
    Answers (.encoderTransition .enc3 true) s fun t => t.lix.enc3 = true ∧ t.lix.count = s.lix.count ∧
      t.lix.pulses = (if s.lix.pulses + 1 < s.lix.divider then s.lix.pulses + 1 else 0) ∧
      t.lix.due = (if s.lix.pulses + 1 < s.lix.divider then s.lix.due else s.lix.due + 1)) ∧
  (∀ (k : Nat) (a b : Bool), quadCount k true a b + quadCount k true (!a) b = 0 ∧ quadCount k false a b + quadCount k false a (!b) = 0) ∧
  (∀ a b : Bool, (quadCount 3 true a b).natAbs = 1 ∧ (quadCount 3 false a b).natAbs = 1 ∧
    (quadCount 2 true a b).natAbs = 1 ∧ quadCount 2 false a b = 0 ∧ quadCount 1 false a b = 0 ∧ (quadCount 1 true a b = 0 ↔ b = true))

/-- CLK_COLLIMATE without both locks, or on a part collimated, collimating or halted, changes nothing; else it starts the first attempt, on the next multiple of 1,000 edges (the model's origin, log 4), with every SENSOR_MCLK low and a VDD_CORE target of 550 to 700 mV in steps of 5. COLLIMATION_CHECK with no attempt running changes nothing; a match ends it with COLLIMATED and the placed SENSOR_MCLK outputs of the level running; a mismatch sets FAIL and starts the next attempt up to the third, and after the third halts the part with cause 1. Nothing else changes. (R49, R50, R477, R500, R506) -/
def Obligations.CollimationTriesThreeTimes : Prop :=
  (∀ s : State, (s.clk.lock.getLsbD 0 = false ∨ s.clk.lock.getLsbD 1 = false ∨ s.clk.collimated = true ∨ s.clk.running = true ∨
      s.sys.halted = true → exec .clkCollimate s = .next s) ∧
    (s.clk.lock.getLsbD 0 = true → s.clk.lock.getLsbD 1 = true → s.clk.collimated = false → s.clk.running = false → s.sys.halted = false →
      Answers .clkCollimate s fun t => t.clk.running = true ∧ t.clk.attempts = 1 ∧ t.clk.lock = s.clk.lock ∧ t.clk.collimated = false ∧
        t.clk.mclk = 0 ∧ 550 ≤ t.clk.coreTarget ∧ t.clk.coreTarget ≤ 700 ∧ t.clk.coreTarget % 5 = 0 ∧
        s.now < t.now ∧ t.now % 1000 = 0 ∧ t.now ≤ s.now + 1000 ∧ { t with clk := s.clk, now := s.now } = s)) ∧
  (∀ (s : State) (ok : Bool), (s.clk.running = false → exec (.collimationCheck ok) s = .next s) ∧
    (s.clk.running = true →
      (ok = true → Answers (.collimationCheck ok) s fun t => t.clk.collimated = true ∧ t.clk.running = false ∧ t.clk.fail = s.clk.fail ∧
        t.clk.mclk = mclkOutputs s ∧ t.clk.coreTarget = s.clk.coreTarget ∧
        t.lix.islandOnly = false ∧ t.now = s.now ∧ t.sys = s.sys) ∧
      (ok = false → s.clk.attempts < 3 → Answers (.collimationCheck ok) s fun t => t.clk.fail = true ∧ t.clk.running = true ∧
        t.clk.attempts = s.clk.attempts + 1 ∧ t.now % 1000 = 0 ∧ s.now < t.now ∧ t.sys = s.sys) ∧
      (ok = false → 3 ≤ s.clk.attempts → Answers (.collimationCheck ok) s fun t => t.clk.fail = true ∧ t.clk.running = false ∧
        t.clk.collimated = s.clk.collimated ∧ t.sys.halted = true ∧ t.sys.cause = 1 ∧ t.now = s.now)))

/-- A port that does not capture, is not up, or of a halted part changes nothing on a packet. A packet of another type or channel, and IGNORED_PACKET, count one ignored packet and change nothing else. On an unbonded port with a ring, a good packet writes its line, converted, into the slot of its number, which becomes the newest, and one that fails its checks counts one dropped line and leaves the ring; both raise a line edge where the port is the line source, and neither changes an engine, nor a context where the words of Glint's active bank are good. FRAME_START opens a frame with no line; FRAME_END of an open frame that took lines writes its number, its first and last line and its dropped lines as 16 bytes into entry (number mod 64) of the log in the XS of the owner, and closes the frame. A trained locked port whose fill slips reports LINK_DOWN, posts an event and retrains; a port that fails deskew posts an event and stays down, one that passes is up with its depth. (R57, R231, R232, R288, R289, R290, R402) -/
def Obligations.SensorPortsTakeLines : Prop :=
  (∀ (s : State) (p : Nat) (k : LinePacket) (n : BitVec 16), portTakes s p = false → exec (.linePacket p k) s = .next s ∧
    exec (.ignoredPacket p) s = .next s ∧ exec (.frameStart p n) s = .next s ∧ exec (.frameEnd p n) s = .next s) ∧
  (∀ (s : State) (p : Nat) (k : LinePacket), portTakes s p = true →
    (Answers (.ignoredPacket p) s fun t => t = setPort s p { portOf s p with ignored := min ((portOf s p).ignored + 1) 0xFFFFFFFF }) ∧
    (k.dataType ≠ (portCfg s p).dataType ∨ k.channel ≠ (portCfg s p).channel → Answers (.linePacket p k) s fun t =>
      t = setPort s p { portOf s p with ignored := min ((portOf s p).ignored + 1) 0xFFFFFFFF })) ∧
  (∀ (s : State) (p : Nat) (k : LinePacket), takesPacket s p k → goodPacket s p k = true → Answers (.linePacket p k) s fun t =>
    (portOf t p).newest = some (packetLine s p k) ∧ (portOf t p).dropped = (portOf s p).dropped ∧
    (portOf t p).ring = tset { line := 0, bytes := [] } (portOf s p).ring ((packetLine s p k).toNat % (portCfg s p).ringLines)
      { line := packetLine s p k,
        bytes := (unpackLine (portCfg s p).dataType k.payload).flatMap (ringCode (portCfg s p).dataType) } ∧
    t.lix = { s.lix with due := s.lix.due + (if s.lix.source = 8 + p then 1 else 0) } ∧
    (s.glint.upActive = [] → t.ctxs = s.ctxs) ∧ t.engines = s.engines ∧ t.ledgers = s.ledgers ∧ t.now = s.now) ∧
  (∀ (s : State) (p : Nat) (k : LinePacket), takesPacket s p k → goodPacket s p k = false → Answers (.linePacket p k) s fun t =>
    (portOf t p).dropped = min ((portOf s p).dropped + 1) 0xFFFFFFFF ∧ (portOf t p).ring = (portOf s p).ring ∧
    (portOf t p).newest = (portOf s p).newest ∧ t.lix = { s.lix with due := s.lix.due + (if s.lix.source = 8 + p then 1 else 0) } ∧
    (s.glint.upActive = [] → t.ctxs = s.ctxs) ∧ t.engines = s.engines ∧ t.ledgers = s.ledgers ∧ t.now = s.now) ∧
  (∀ (s : State) (p : Nat) (n : BitVec 16), portTakes s p = true → Answers (.frameStart p n) s fun t =>
    (portOf t p).frame = n ∧ (portOf t p).frameOpen = true ∧ (portOf t p).firstLine = none ∧ (portOf t p).frameDropped = 0 ∧
    (portOf t p).ring = (portOf s p).ring ∧ t.ctxs = s.ctxs ∧ t.lix = s.lix) ∧
  (∀ (s : State) (p : Nat) (n : BitVec 16) (a : Line), portTakes s p = true → (portOf s p).frameOpen = true →
    (portOf s p).firstLine = some a → bondedUpper s p = false → (portCfg s p).ringLines ≠ 0 → tableWf Port.idle s.media.ports = true →
    Canonical s → tableWf 0 (ctxOf s (portCfg s p).ringOwner).stores.xs = true →
    tableWf 0 (ctxOf s (portCfg s p).ringOwner).stores.upXs = true → Answers (.frameEnd p n) s fun t =>
      (portOf t p).frameOpen = false ∧ t.lix = s.lix ∧ t.engines = s.engines ∧
      ∀ k, k < 16 → rdStore (ctxOf t (portCfg s p).ringOwner).stores.xs (ctxOf t (portCfg s p).ringOwner).stores.upXs
          (1024 * (portCfg s p).logKib + 16 * ((portOf s p).frame.toNat % 64) + k) =
        (bytesLe (portOf s p).frame.toNat 2 ++ bytesLe a.toNat 6 ++ bytesLe (portOf s p).lastLine.toNat 6 ++
          bytesLe (portOf s p).frameDropped 2).getD k 0) ∧
  (∀ (s : State) (p : Nat), (portOf s p).up = true → (portCfg s p).locked = true → portPowered s p = true →
    Answers (.sensorPortRetrain p) s fun t => (portOf t p).up = false ∧ (portOf t p).half = none ∧
      (portOf t p).retrains = min ((portOf s p).retrains + 1) 255 ∧ t.control.head = s.control.head + 1 ∧ t.ctxs = s.ctxs) ∧
  (∀ (s : State) (p : Nat) (d : BitVec 8), portPowered s p = true → (portOf s p).up = false → s.sys.halted = false →
    s.clk.collimated = true → (Answers (.sensorPortDeskew p true d) s fun t => (portOf t p).up = true ∧ (portOf t p).depth = d ∧
        t.control = s.control) ∧
      (Answers (.sensorPortDeskew p false d) s fun t => t.media = s.media ∧ t.control.head = s.control.head + 1))

/-- For a bonded pair of ports on whose port p a half waits for its partner: a packet of the pair's data type and virtual channel that arrives on p, a second half, leaves both ports of the pair down, with one more retrain each, saturating at 255, and a LINK_DOWN event each; the halves are discarded: neither port holds one, neither ring takes a line and no line edge is raised. (R293) -/
def Obligations.HalvesOutOfStepRetrainBothPorts : Prop :=
  ∀ (s : State) (p low : Nat) (k : LinePacket), portTakes s p = true → k.dataType = (portCfg s p).dataType →
    k.channel = (portCfg s p).channel → (portOf s p).half.isSome = true →
    (bondedUpper s p = true ∧ low + 1 = p) ∨ (bondedUpper s p = false ∧ (portCfg s p).bonded = true ∧ low = p) →
    Answers (.linePacket p k) s fun t =>
      (∀ q, q = low ∨ q = low + 1 → (portOf t q).up = false ∧ (portOf t q).half = none ∧
        (portOf t q).retrains = min ((portOf s q).retrains + 1) 255 ∧ (portOf t q).ring = (portOf s q).ring ∧
        (portOf t q).newest = (portOf s q).newest) ∧
      t.lix = s.lix ∧ t.ctxs = s.ctxs ∧ t.control.head = s.control.head + 2 ∧
      (tget EventRec.blank t.control.events (s.control.head.toNat % 2048)).status = stLinkDown ∧
      (tget EventRec.blank t.control.events ((s.control.head + 1).toNat % 2048)).status = stLinkDown

/-- GLINT_SWAP with nothing armed, below Stop 3, on a halted part or before its target is reached changes nothing. A window that names a ball the facet does not give to Glint is refused: the active bank and the window stay, the arm bit clears, BANK_REFUSED is set and an event with RESOURCE_HELD is posted. Otherwise the banks change places, the arm bit clears, and each of the 16 balls whose control word changes in its mode, polarity or pulse length, or every one at the first swap, goes to its inactive state while every other keeps its own. GLINT_PULSE_EXPIRY ends the pulse of its ball alone, where one runs; GLINT_LINE_PULSE_END a line pulse that has counted out. The rules, the inputs and the Line Index do not change. Premise: the table of balls is in canonical form (log 1). (R66, R72, R73, R74, R75) -/
def Obligations.GlintBanksSwapAndPulsesEnd : Prop :=
  (∀ s : State, s.glint.armed = false ∨ s.iris.stop < 3 ∨ s.sys.halted = true ∨ targetReached s s.glint.target 0 = false →
    exec .glintSwap s = .next s) ∧
  (∀ s : State, s.glint.armed = true → 3 ≤ s.iris.stop → s.sys.halted = false → targetReached s s.glint.target 0 = true →
    (bankRefused s s.glint.window = true → Answers .glintSwap s fun t =>
      t.glint = { s.glint with armed := false, refused := true } ∧ t.control.head = s.control.head + 1 ∧
      (tget EventRec.blank t.control.events (s.control.head.toNat % 2048)).status = stHeld ∧ t.lix = s.lix) ∧
    (bankRefused s s.glint.window = false → tableWf Ball.idle s.glint.balls = true → Answers .glintSwap s fun t =>
      t.glint.active = s.glint.window ∧ t.glint.window = s.glint.active ∧ t.glint.upActive = s.glint.upWindow ∧
      t.glint.upWindow = s.glint.upActive ∧ t.glint.armed = false ∧ t.glint.installed = true ∧
      t.glint.fired = s.glint.fired ∧ t.glint.flags = s.glint.flags ∧ t.glint.input = s.glint.input ∧ t.control = s.control ∧
      t.lix = s.lix ∧ ∀ b, tget Ball.idle t.glint.balls b =
        (if b < 16 ∧ (s.glint.installed = false ∨ controlKey s.glint.active b ≠ controlKey s.glint.window b) then Ball.idle
         else tget Ball.idle s.glint.balls b))) ∧
  (∀ (s : State) (b : Nat), tableWf Ball.idle s.glint.balls = true →
    ((tget Ball.idle s.glint.balls b).pulse = true → Answers (.glintPulseExpiry b) s fun t => tget Ball.idle t.glint.balls b = Ball.idle ∧
      (∀ k, k ≠ b → tget Ball.idle t.glint.balls k = tget Ball.idle s.glint.balls k) ∧
      { t with glint := { t.glint with balls := s.glint.balls } } = s) ∧
    ((tget Ball.idle s.glint.balls b).pulse = false → exec (.glintPulseExpiry b) s = .next s) ∧
    ((tget Ball.idle s.glint.balls b).active = true → (tget Ball.idle s.glint.balls b).lines = 0 →
      controlWord s.glint.active b % 4 = 2 → Answers (.glintLinePulseEnd b) s fun t => tget Ball.idle t.glint.balls b = Ball.idle ∧
        (∀ k, k ≠ b → tget Ball.idle t.glint.balls k = tget Ball.idle s.glint.balls k) ∧
        { t with glint := { t.glint with balls := s.glint.balls } } = s) ∧
    ((tget Ball.idle s.glint.balls b).lines ≠ 0 → exec (.glintLinePulseEnd b) s = .next s))

/-- CCI_LIST_START with nothing armed, a list running, no power, a halted part or the target line ahead changes nothing; else the list runs on a copy of its entries and the arm clears. CCI_LIST_END of a running list ends it with status 1, the index of its last entry, and one more list done; CCI_NACK of one of its entries ends it with status 2 and that index, and posts an event naming the controller's register. With no list running neither changes anything. The Line Index, the engines and the ledgers do not change. (R295, R296, R297) -/
def Obligations.CameraListsRunOnce : Prop :=
  (∀ (s : State) (n : Nat), (cciOf s n).armed = false ∨ (cciOf s n).running.isSome = true ∨ cciPowered s n = false ∨
    s.sys.halted = true ∨ targetReached s (cciOf s n).target 0 = false → exec (.cciListStart n) s = .next s) ∧
  (∀ (s : State) (n : Nat), (cciOf s n).armed = true → (cciOf s n).running = none → cciPowered s n = true → s.sys.halted = false →
    targetReached s (cciOf s n).target 0 = true → Answers (.cciListStart n) s fun t =>
      (cciOf t n).running = some (cciEntries (cciOf s n).window) ∧ (cciOf t n).startAt = s.now ∧ (cciOf t n).armed = false ∧
      (cciOf t n).lists = (cciOf s n).lists ∧
      t.lix = s.lix ∧ t.engines = s.engines ∧ t.ledgers = s.ledgers) ∧
  (∀ (s : State) (n : Nat) (l : List CciEntry) (reads : List (List Byte)), (cciOf s n).running = some l →
    (Answers (.cciListEnd n reads) s fun t => (cciOf t n).running = none ∧ (cciOf t n).last = 1 ∧ (cciOf t n).lastIndex = l.length - 1 ∧
      (cciOf t n).lists = (cciOf s n).lists + 1 ∧ t.lix = s.lix ∧ t.engines = s.engines ∧ t.ledgers = s.ledgers) ∧
    (∀ k, k < l.length → Answers (.cciNack n k) s fun t => (cciOf t n).running = none ∧ (cciOf t n).last = 2 ∧ (cciOf t n).lastIndex = k ∧
      (cciOf t n).lists = (cciOf s n).lists ∧ t.lix = s.lix ∧ t.engines = s.engines ∧ t.ledgers = s.ledgers ∧
      (tget EventRec.blank t.control.events ((t.control.head - 1).toNat % 2048)).register = BitVec.ofNat 32 (0x80060 + 4 * n))) ∧
  (∀ (s : State) (n k : Nat) (reads : List (List Byte)), (cciOf s n).running = none →
    exec (.cciListEnd n reads) s = .next s ∧ exec (.cciNack n k) s = .next s)

/-- DEFERRED_DECODE_DONE decodes the oldest queued sample of its stream not yet decoded, in its place in the queue, and changes no other entry and no engine; with none, below Stop 2 or while a DECODE runs in the slot it changes nothing. RTP_PACKET on a port that is not served changes nothing; one its stream does not accept counts in the discards alone; one not above the last sequence number counts as out of order alone; any other becomes the last accepted, with its source, and a unit is in progress after it exactly where its marker is clear. DECODE, FETCHSAMPLE and BATCHCLOSE, whose instance may issue with its predicate, whose batch, stream and coded data open, are in range and the context's, with the slots free, the sample within the ceilings, the buffers and the hard budget, room in the grant and words that read good, complete: DECODE within the soft budget and with nothing queued leaves its planes or the background in its slot, SAMPLE_SHORT where they are; beyond it, it defers its sample into a free entry; FETCHSAMPLE binds the oldest decoded samples; BATCHCLOSE seals an open batch; each with the occupancy, count and charge of its entry. (R159, R160, R303, R306, R307, R308, R311, R313, R316, R318) -/
def Obligations.StreamsDecodeAndAccept : Prop :=
  (∀ (s : State) (c k : Nat), ((streamOf s c k).queue.find? fun d => !d.decoded) = none ∨ s.iris.stop < 2 ∨ slotBusy s c k = true →
    exec (.deferredDecodeDone c k) s = .next s) ∧
  (∀ (s : State) (c k : Nat) (d : Deferred), ((streamOf s c k).queue.find? fun d => !d.decoded) = some d → 2 ≤ s.iris.stop →
    slotBusy s c k = false → Answers (.deferredDecodeDone c k) s fun t =>
      (∃ y : Deferred, y.decoded = true ∧ y.entry = d.entry ∧ y.coded = [] ∧
        (streamOf t c k).queue = (streamOf s c k).queue.map fun q => if q.entry = d.entry then y else q) ∧
      t.engines = s.engines ∧ t.ready = s.ready ∧ t.lix = s.lix ∧ t.now = s.now) ∧
  (∀ (s : State) (p : RtpPacket),
    (served s (packetIface p) = false → exec (.rtpPacket p) s = .next s) ∧
    (served s (packetIface p) = true → streamTakes s p = false → Answers (.rtpPacket p) s fun t =>
      t = { s with media := { s.media with rtpDiscard := min (s.media.rtpDiscard + 1) 0xFFFFFFFF } }) ∧
    (served s (packetIface p) = true → streamTakes s p = true → rtpAbove (streamOf s p.slot (packetKey s p)) p.seq = false →
      Answers (.rtpPacket p) s fun t => t = { s with media := { s.media with rtpOrder := min (s.media.rtpOrder + 1) 0xFFFFFFFF } }) ∧
    (served s (packetIface p) = true → streamTakes s p = true → rtpAbove (streamOf s p.slot (packetKey s p)) p.seq = true →
      Answers (.rtpPacket p) s fun t => (streamOf t p.slot (packetKey s p)).lastSeq = some p.seq ∧
        (streamOf t p.slot (packetKey s p)).ssrc = some p.ssrc ∧
        (streamOf t p.slot (packetKey s p)).unitTime = (if p.marker then none else some p.timestamp) ∧ t.engines = s.engines ∧
        t.ready = s.ready)) ∧
  (∀ (s : State) (e : Nat) (w : Insn) (i : Inst) (r q : Run) (b : Batch), Turn s e i w → r = runAt s i w 0 → batchAt w r = .ok (b, q, false) →
    IssuesTo (.batchclose e w) s e i w 0 (if b.sealed_ then q else stageAt (stageAt q 2 b.base [1]) 2 (b.base + 8) (bytesLe b.filled 8))
      ⟨stOk, 5, 80, 80, 250 * 80⟩ 0) ∧
  (∀ (s : State) (e : Nat) (w : Insn) (i : Inst) (r q u z : Run) (b : Batch) (x : StreamRec) (c k n : Nat), Turn s e i w →
    r = runAt s i w 2 → batchAt w r = .ok (b, q, false) → streamAt q b.stream = .ok (x, u, false) →
    k = (slotValue i w.kindB w.b).toNat → c = w.c.toNat % 64 → 1 ≤ k → k ≤ 64 → slotsFree (opened b) c k = true →
    buffersFit u b = true → k ≤ (fetchable u x.key).length → grantFits (reopen u b) k = true →
    fillAll (reopen u b) b = .ok (z, false) → n = 24 + 8 * k →
    IssuesTo (.fetchsample e w) s e i w 2 (fetchSamples z (opened b) c x.key ((fetchable u x.key).take k))
      ⟨stOk, 5, n, n, 250 * n⟩ k) ∧
  (∀ (s : State) (e : Nat) (w : Insn) (i : Inst) (r q p z u o y : Run) (b : Batch) (x : StreamRec) (v : View) (coded : List Byte)
      (empty gap : Bool) (info : Config.SampleInfo) (planes : List (Nat × Nat)) (c n d size : Nat), Turn s e i w → r = runAt s i w 0 →
    batchAt w r = .ok (b, q, false) → codedView q w = .ok v → streamAt q b.stream = .ok (x, p, false) → c = w.c.toNat % 64 →
    slotsFree (opened b) c 1 = true → buffersFit p b = true →
    3 ≤ x.format ∨ x.dpbSize = 0 ∨ checkSpan p true 3 x.dpbAt (x.dpbAt + x.dpbSize - 1) = .ok () → reading p v = .ok (z, false) →
    (if x.format < 3 then scanning z 3 (span x.dpbAt x.dpbSize) else .ok (z, false)) = .ok (u, false) →
    coded = (ldView u v).map (fun y => BitVec.ofNat 8 (lowBits 8 y)) → empty = (bit x.flags 0 && decide (coded.length = 0)) →
    info = sampleInfo x.kind empty coded → planes = samplePlanes x.kind empty info → size = planesBytes (elemSize info) planes →
    n = 32 + ceilDiv info.header 16 →
    d = decodeCount x.kind (slotsOf s x.key) coded.length info (sampleBlocks x.kind info planes) → info.width ≤ s.facet.widthCeiling →
    info.height ≤ s.facet.heightCeiling → info.width * info.height ≤ s.facet.pixelCeiling → size ≤ b.size →
    (x.format < 3 → info.dpbBytes ≤ x.dpbSize) → info.excluded = false → d ≤ (ctxOf s i.origin.slot).granted.hard * x.nominal →
    o = reopen u b → grantFits o 1 = true → gap = unitGap u x v coded.length → fillAll o b = .ok (y, false) →
    (∀ l count xs cut g from_, d ≤ (ctxOf s i.origin.slot).granted.soft * x.nominal →
      (x.format < 3 → ∀ k ∈ queuedOf u x.key, k.decoded = true) → count = n + ceilDiv (5 * d) 6 →
      checkArrival u v.space count v.addrs = .ok () →
      size = 0 ∨ checkSpan u true (bufferSpace o b c) (bufferAt o b c) (bufferAt o b c + size - 1) = .ok () →
      from_ = decodeInput o x (opened b) → (xs, cut) = sampleCodes x.kind from_ info planes coded → g = (cut || gap || empty) →
      scanning y (bufferSpace o b c) ((planeRows (elemSize info) 0 planes).flatMap fun k => edgeWords (bufferAt o b c + k.1)
        (elemSize info * k.2)) = .ok (l, false) →
      IssuesTo (.decode e w) s e i w 0
        (decodedNow l (opened b) x c (bufferSpace o b c) (bufferAt o b c) info planes xs
          (if empty then [] else dpbBytes x.kind from_ x.dpbAt x.dpbSize coded) g empty
          (if x.format < 3 && !empty then Config.nextReference x.kind from_ coded else from_.reference))
        ⟨if g then stShort else stOk, 5, count, count, 250 * count⟩ coded.length) ∧
    (∀ entry, (d ≤ (ctxOf s i.origin.slot).granted.soft * x.nominal → x.format < 3 ∧ ∃ k ∈ queuedOf u x.key, k.decoded = false) →
      checkArrival u v.space n v.addrs = .ok () → size ≤ x.entrySize → deferredEntry u x = some entry →
      checkSpan u true 3 x.areaAt (x.areaAt + x.entries * x.entrySize - 1) = .ok () →
      IssuesTo (.decode e w) s e i w 0
        (decodedLater y (opened b) x.key c info (deferredSample (opened b) x info (gap || empty) empty coded entry))
        ⟨stDeferred, 5, n, n, 250 * n + 250 * ceilDiv (5 * d) 6⟩ coded.length))


/-- STOP_RAISE_DONE of a raise whose rails stand, on a part not halted and, from Stop 0, collimated, makes the target the level, with the placed SENSOR_MCLK outputs running; otherwise it changes nothing. RAISE_MAIN_EN_READY with MAIN_EN up locks the PLLs. IDLE_LOWERING, when its hold time has passed with no work at the level and a lower target is needed, starts a lowering to that target and changes nothing else. FORCED_LOWERING, above the allowed Stop, starts one to it. STOP_LOWER_STEP_DONE with the departing units free goes down one level and ends the lowering at its target; at Stop 0 the clocks are not collimated, the island counts LIX alone and MAIN_EN is low. THERMAL_TRIP at 110 C or more halts the part with cause 5, closes the shutter, drops every REFLEX_OUT ball and sets THERMTRIP; below, it changes nothing. TRIP_MAIN_EN_FALL lowers MAIN_EN after a trip alone. BUDGET_LEVEL_CHANGE takes a level that two ticks have read. (R18, R46, R346, R372, R379, R380, R381, R502, R506, R509) -/
def Obligations.LevelsRiseAndFall : Prop :=
  (∀ s : State, s.iris.raising = true → s.iris.railsDue = false → s.sys.halted = false → (s.iris.stop = 0 → s.clk.collimated = true) →
    Answers .stopRaiseDone s fun t => t.iris.stop = s.iris.target ∧ t.iris.target = s.iris.target ∧ t.iris.raising = false ∧
      t.iris.lowering = s.iris.lowering ∧ t.engines = s.engines ∧ t.clk = { s.clk with mclk := mclkOutputs t } ∧ t.now = s.now ∧
      t.iris.free = s.iris.free) ∧
  (∀ s : State, s.iris.raising = false ∨ s.iris.railsDue = true ∨ s.sys.halted = true → exec .stopRaiseDone s = .next s) ∧
  (∀ s : State, s.iris.railsDue = true → s.iris.mainEn = true → Answers .raiseMainEnReady s fun t =>
    t = { s with iris := { s.iris with railsDue := false }, clk := { s.clk with lock := 0b111 } }) ∧
  (∀ s : State, s.sys.ready = true → s.sys.halted = false → s.iris.raising = false → s.iris.lowering = false → s.iris.stop ≠ 0 →
    holdTime s s.iris.stop ≤ s.iris.quiet → raiseAsked s ≤ s.iris.stop → idleTarget s < s.iris.stop → Answers .idleLowering s fun t =>
      t = { s with iris := { s.iris with lowering := true, target := idleTarget s } }) ∧
  (∀ s : State, s.sys.ready = true → s.sys.halted = false → s.iris.raising = false → s.iris.lowering = false →
    allowedStop s < s.iris.stop → Answers .forcedLowering s fun t => t.iris.lowering = true ∧ t.iris.target = allowedStop s ∧
      t.iris.stop = s.iris.stop ∧ t.iris.raising = false ∧ (t.iris.forced = none ↔ departing t (allowedStop s) = [])) ∧
  (∀ s : State, s.iris.lowering = true → s.iris.target < s.iris.stop → s.sys.halted = false → s.iris.forced = none →
    departing s s.iris.target = [] → Answers .stopLowerStepDone s fun t => t.iris.stop + 1 = s.iris.stop ∧ t.iris.target = s.iris.target ∧
      t.iris.lowering = decide (s.iris.target < t.iris.stop) ∧ t.iris.raising = s.iris.raising ∧ t.lix.count = s.lix.count ∧
      (t.iris.stop = 0 → t.clk.collimated = false ∧ t.lix.islandOnly = true ∧ t.iris.mainEn = false) ∧
      (t.iris.stop ≠ 0 → t.clk = s.clk ∧ t.lix = s.lix ∧ t.iris.mainEn = s.iris.mainEn)) ∧
  (∀ (s : State) (n : Nat) (x : Int), n < 32 → 1760 ≤ x → s.iris.thermtrip = false → s.sys.powerGood = true →
    Answers (.thermalTrip n x) s fun t => t.sys.halted = true ∧ t.sys.cause = 5 ∧ t.iris.thermtrip = true ∧ t.iris.raising = false ∧
      t.island.open_ = false ∧ t.glint.balls = [] ∧ tget 400 t.iris.temps n = x ∧ t.iris.stop = s.iris.stop ∧ t.ctxs = s.ctxs ∧
      t.engines = s.engines ∧ t.control.head = s.control.head + 1) ∧
  (∀ (s : State) (n : Nat) (x : Int), x < 1760 → exec (.thermalTrip n x) s = .next s) ∧
  (∀ s : State, (s.iris.thermtrip = true → s.iris.mainEn = true → Answers .tripMainEnFall s fun t =>
      t = { s with iris := { s.iris with mainEn := false, mainOff := 0 } }) ∧
    (s.iris.thermtrip = false → exec .tripMainEnFall s = .next s)) ∧
  (∀ (s : State) (v : BitVec 2), s.iris.budgetTwice = true → v = s.iris.budgetLast → v ≠ s.iris.budget →
    Answers (.budgetLevelChange v) s fun t => t.iris = { s.iris with budget := v } ∧ t.ctxs = s.ctxs ∧ t.engines = s.engines)

/-- Without power nothing happens on a tick. Otherwise the sample position goes on by 16 modulo 2^48 and the first 32 readings replace the temperatures; the Stop level and time stay. On a part ready and not halted, besides, the tokens in flight that the limit pays for above the standing charge move to free, the held ones stay, the line edges of the millisecond are counted off, the BUDGET balls are read, and a raise is decided only to a level above the present one that the limit allows. Premise: the table of temperatures is in canonical form (log 1). (R323, R372, R373, R374, R375, R377, R378) -/
def Obligations.TheTickRefillsAndGoverns : Prop :=
  (∀ (s : State) (l : List Int) (b : BitVec 2) (w : Bool), s.sys.powerGood = false → exec (.islandMsTick l b w) s = .next s) ∧
  (∀ (s : State) (l : List Int) (b : BitVec 2) (w : Bool), s.sys.powerGood = true → tableWf 400 s.iris.temps = true →
    Answers (.islandMsTick l b w) s fun t => t.island.position = (s.island.position + 16) % 2 ^ 48 ∧ t.now = s.now ∧
      t.iris.stop = s.iris.stop ∧ t.iris.held = s.iris.held ∧ t.island.lowTicks = (if w then 0 else s.island.lowTicks + 1) ∧
      (∀ k, k < 32 → tget 400 t.iris.temps k = l.getD k (tget 400 s.iris.temps k)) ∧
      (s.sys.ready = false ∨ s.sys.halted = true → t.iris.free = s.iris.free ∧ t.iris.flight = s.iris.flight ∧
        t.iris.raising = s.iris.raising ∧ t.ready = s.ready) ∧
      (s.sys.ready = true → s.sys.halted = false →
        t.iris.free = s.iris.free + min s.iris.flight (limitMw s - standing s) ∧
        t.iris.flight = s.iris.flight - min s.iris.flight (limitMw s - standing s) ∧ t.lix.msEdges = 0 ∧
        t.iris.budgetLast = budgetRead s b ∧ t.iris.budget = s.iris.budget ∧
        (s.iris.raising = true → t.iris.raising = true ∧ t.iris.target = s.iris.target) ∧
        (s.iris.raising = false → t.iris.raising = true →
          s.iris.lowering = false ∧ s.iris.stop < t.iris.target ∧ t.iris.target ≤ allowedStop s)))

/-- KEYWORD_EVAL counts an evaluation and keeps its score. WAKE_N_PRESS, on the second low tick and unless the tick's wake is put off already, opens a closed shutter with one more session, the facet's time-out and the causes of the tick, and hands off at once at Stop 1 and above unless going to Stop 0; with the shutter open it reloads the time-out and keeps it open; it marks the frame its position lies in. RING_FRAME_END without a wake ends one frame, starts its burst where the island has an owner, counts an open idle session down before a reload of its tick (log 109), marks a due close and raises a line edge where the ring is the line source. RING_FRAME_WRITE_DONE puts the burst into its slot. SESSION_TIMEOUT and SHUTTER_CLOSE of a closing tick close the shutter, start the clear and stop every play entry. RING_CLEAR_DONE leaves the ring zero in good words. A request bit acts once: END_REQUEST marks a close of an open shutter unless a wake fell on the same tick, EXTEND_REQUEST reloads the time-out of an open session. ISLAND_MESSAGE_POST hands the held messages to an active owner. (R325, R326, R327, R329, R332, R333, R334, R336, R337, R338, R341, R342) -/
def Obligations.WakesOpenTheShutterAndTicksCloseIt : Prop :=
  (∀ (s : State) (v : BitVec 16), s.island.detector = true → s.facet.island.owner.isSome = true → s.island.evals < 10 →
    Answers (.keywordEval v) s fun t => t.island.evals = s.island.evals + 1 ∧ t.island.lastScore = v ∧
      (v.toInt < s.facet.island.threshold → t.island.bestScore = s.island.bestScore) ∧
      (s.facet.island.threshold ≤ v.toInt → t.island.bestScore.isSome = true) ∧ { t with island := s.island } = s) ∧
  (∀ s : State, s.facet.island.wakeN = true → s.island.lowTicks = 2 → s.facet.island.owner.isSome = true → s.sys.halted = false →
    wakePutOff s = false → Answers .wakeNPress s fun t => t.island.open_ = true ∧ t.island.timeout = s.facet.island.timeout ∧
      (frameEndDue s = true → t.island.nextWakeN = true) ∧ (frameEndDue s = false → t.island.frameWakeN = true) ∧
      (s.island.open_ = false → t.island.sessions = (s.island.sessions + 1) % 2 ^ 32 ∧
        t.island.wakeCause = (if frameEndDue s = true ∧ s.island.bestScore.isSome = true then 3 else 2) ∧
        t.island.wakeAt = s.island.position ∧
        t.island.handedOff = (decide (1 ≤ s.iris.stop) && !(s.iris.lowering && decide (s.iris.target = 0)))) ∧
      (s.island.open_ = true → t.island.sessions = s.island.sessions ∧ (s.island.closeOwner = false → t.island.closing = false)) ∧
      t.engines = s.engines ∧ t.iris.stop = s.iris.stop) ∧
  (∀ s : State, s.facet.island.wakeN = false ∨ s.island.lowTicks ≠ 2 ∨ wakePutOff s = true → exec .wakeNPress s = .next s) ∧
  (∀ (s : State) (l : List (List Bool)), s.island.position % 160 = 0 → s.island.frames < s.island.position / 160 → s.sys.powerGood = true →
    s.island.bestScore = none → s.island.wakeNext = none → pressDue s = false → Answers (.ringFrameEnd l) s fun t =>
      t.island.frames = s.island.position / 160 ∧
      t.island.burst.map (·.1) = (if s.facet.island.owner.isSome then some (s.island.position / 160 - 1) else none) ∧
      t.island.timeout = timeoutAfter s ∧ t.island.evals = 0 ∧ t.island.open_ = s.island.open_ ∧
      t.island.closing = (s.island.open_ && (s.island.closeEnd || s.island.closeOwner || s.island.closeFacet || decide (timeoutAfter s = 0))) ∧
      t.lix.due = s.lix.due + (if s.lix.source = 5 then 1 else 0) ∧ t.engines = s.engines) ∧
  (∀ (s : State) (k : Nat) (b : List Byte), s.island.burst = some (k, b) → s.island.closing = false → s.island.clearing = false →
    Answers .ringFrameWriteDone s fun t => t.island.burst = none ∧ t.island.newest = some k ∧
      t.island.ring = wrBytes s.island.ring (688 * (k % 1000)) b ∧ tget false t.island.written (k % 1000) = true ∧
      t.island.open_ = s.island.open_ ∧ t.ctxs = s.ctxs ∧ t.engines = s.engines) ∧
  (∀ s : State, s.island.burst = none ∨ s.island.closing = true → exec .ringFrameWriteDone s = .next s) ∧
  (∀ s : State, s.island.closing = true →
    (s.island.closeTime = true → Answers .sessionTimeout s fun t => Closed s t) ∧
    (s.island.closeEnd = true ∨ s.island.closeOwner = true ∨ s.island.closeFacet = true → Answers .shutterClose s fun t => Closed s t)) ∧
  (∀ s : State, s.island.closing = false → exec .sessionTimeout s = .next s ∧ exec .shutterClose s = .next s) ∧
  (∀ s : State, (s.island.clearing = true → Answers .ringClearDone s fun t => t.island.ring = [] ∧ t.island.upRing = [] ∧ t.island.clearing = false ∧
      { t with island := { t.island with ring := s.island.ring, upRing := s.island.upRing, clearing := true } } = s) ∧
    (s.island.endBit = true → Answers .endRequest s fun t => t.island.endBit = false ∧
      t.island.closeEnd = (s.island.closeEnd || (s.island.open_ && decide (s.island.wokeAt ≠ (s.now, s.island.position)))) ∧
      t.island.timeout = s.island.timeout ∧ { t with island := s.island } = s) ∧
    (s.island.extendBit = true → Answers .extendRequest s fun t => t.island.extendBit = false ∧
      t.island.timeout = (if s.island.open_ then s.facet.island.timeout else s.island.timeout) ∧ t.island.closeEnd = s.island.closeEnd ∧
      { t with island := s.island } = s) ∧
    (s.island.endBit = false → exec .endRequest s = .next s) ∧ (s.island.extendBit = false → exec .extendRequest s = .next s)) ∧
  (∀ s : State, (ownerActive s = true → s.island.held ≠ [] → Answers .islandMessagePost s fun t => t.island.held = [] ∧
      t.island.open_ = s.island.open_ ∧ t.engines = s.engines ∧ t.ready = s.ready) ∧
    (ownerActive s = false → exec .islandMessagePost s = .next s))

/-- PLAY_ENTRY_QUEUED takes the entry off the bridge; while its slot is queued or playing it is dropped, with the shutter closed it is rejected, one the island cannot play is rejected too, any other is queued. PLAY_ENTRY_START with nothing playing, above Stop 0, on a frame end after its arrival, starts the next queued entry and the entry after it is next, and the millisecond's TDM frames carry its samples in the slots of its mask, and 0 in the others and after its last frame; otherwise it changes nothing. PLAY_ENTRY_END leaves its entry done with all its frames played, and the next due entry plays from the frame after its last, or nothing does. The shutter stays as it was. (R338, R339, R340) -/
def Obligations.PlayEntriesRunInTurn : Prop :=
  (∀ (s : State) (e : Nat) (p : Play), tget Play.empty s.island.bridge e = p → tableWf Play.empty s.island.plays = true →
    (p.state ≠ 1 → exec (.playEntryQueued e) s = .next s) ∧
    (p.state = 1 → (tget Play.empty s.island.plays e).state = 1 ∨ (tget Play.empty s.island.plays e).state = 2 →
      Answers (.playEntryQueued e) s fun t => Queued s t e (tget Play.empty s.island.plays e)) ∧
    (p.state = 1 → (tget Play.empty s.island.plays e).state ≠ 1 → (tget Play.empty s.island.plays e).state ≠ 2 →
      (s.island.open_ = false → Answers (.playEntryQueued e) s fun t => Queued s t e { p with state := 4 }) ∧
      (s.island.open_ = true → playOk s p = false → Answers (.playEntryQueued e) s fun t => Queued s t e { p with state := 4 }) ∧
      (s.island.open_ = true → playOk s p = true → Answers (.playEntryQueued e) s fun t =>
        Queued s t e { p with arrived := s.island.position }))) ∧
  (∀ s : State, (queuedNext s.island = none ∨ s.island.playing.isSome = true ∨ s.iris.stop = 0 ∨ s.island.position % 160 ≠ 0 →
      exec .playEntryStart s = .next s) ∧
    ∀ e, queuedNext s.island = some e → s.island.playing = none → playDue s.island e = true → s.iris.stop ≠ 0 →
      s.island.position % 160 = 0 → Answers .playEntryStart s fun t => t.island.playing = some e ∧
        (tget Play.empty t.island.plays e).state = 2 ∧ t.island.nextPlay = (e + 1) % 4 ∧
        t.island.playStart = s.island.position * tdmRate s ∧ t.island.open_ = s.island.open_ ∧ t.engines = s.engines ∧
        ∀ c n, s.facet.island.owner = some c → n < 16 * tdmRate s → t.island.tdm.getD n [] =
          (if n < (tget Play.empty s.island.plays e).frames then slotWords s c (tget Play.empty s.island.plays e) n
           else List.replicate 8 0)) ∧
  (∀ s : State, (s.island.playing = none → exec .playEntryEnd s = .next s) ∧
    ∀ e, s.island.playing = some e → Answers .playEntryEnd s fun t => (tget Play.empty t.island.plays e).state = 3 ∧
      (tget Play.empty t.island.plays e).played = (tget Play.empty s.island.plays e).frames ∧ t.island.playing ≠ some e ∧
      (∀ k, t.island.playing = some k → (tget Play.empty t.island.plays k).state = 2 ∧
        t.island.playStart = s.island.playStart + (tget Play.empty s.island.plays e).frames) ∧
      t.island.open_ = s.island.open_ ∧ t.engines = s.engines)

/-- A Relay port that does not train changes nothing on LINK_TRAINING and TRAINING_STEP_TIMEOUT. One that trains comes up with a partner that says what the facet asks and has a flight of at most 72 ns: peer and depth taken, no cause, the higher of the two set epochs. A flight above that fails with cause 3, a wrong identity before step 3 with cause 2 and a timeout with cause 1, each with an event and the port down. RELAY_RETRAIN of a port up at Stop 4, LINK_DOWN of a link and PEER_CUT of a peer whose every port has failed three retrains take the ports down; where the link was up, every context with a grant toward the peer is parked, or stays stopped, and waits for its restart. A cut marks the peer and raises the set epoch by one. (R57, R384, R386, R388, R396, R398) -/
def Obligations.RelayLinksTrainAndFall : Prop :=
  (∀ (s : State) (n : Nat) (p : RelayIdentity), portTrains s n = false → exec (.linkTraining n p) s = .next s ∧
    exec (.trainingStepTimeout n) s = .next s) ∧
  (∀ (s : State) (n : Nat) (p : RelayIdentity), portTrains s n = true →
    (identityOk s n p = true → s.relay.cut.getLsbD p.partIndex = false ∨ p.epoch = 0 → p.flight ≤ 720 →
      Answers (.linkTraining n p) s fun t => (relayPort t n).up = true ∧ (relayPort t n).cause = 0 ∧ (relayPort t n).peer = p.partIndex ∧
        (relayPort t n).depth = p.depth ∧ t.relay.epoch.toNat = max s.relay.epoch.toNat p.epoch.toNat ∧
        (s.relay.formed = true → t.relay.formed = true) ∧ t.ctxs = s.ctxs ∧ t.engines = s.engines ∧
        ∀ k, k ≠ n → relayPort t k = relayPort s k) ∧
    (identityOk s n p = true → s.relay.cut.getLsbD p.partIndex = false ∨ p.epoch = 0 → 720 < p.flight →
      Answers (.linkTraining n p) s fun t => TrainFailed s t n 3) ∧
    (identityOk s n p = false → (relayPort s n).step ≠ 3 → Answers (.linkTraining n p) s fun t => TrainFailed s t n 2) ∧
    (Answers (.trainingStepTimeout n) s fun t => TrainFailed s t n 1)) ∧
  (∀ (s : State) (n : Nat), (relayPort s n).up = true → s.iris.stop = 4 → Answers (.relayRetrain n) s fun t =>
    (relayPort t n).up = false ∧ (relayPort t n).step = 3 ∧ (relayPort t n).cause = 5 ∧
    (relayPort t n).retrains = min ((relayPort s n).retrains + 1) 255 ∧ t.iris.stop = 4 ∧
    (linkUp s (peerOfPort s n) = true → HoldersParked s t (peerOfPort s n))) ∧
  (∀ (s : State) (j : Nat), linkUp s j = true → j < s.facet.setSize → j ≠ s.facet.partIndex → Answers (.linkDown j) s fun t =>
    (∀ n ∈ portsToward s j, (relayPort t n).up = false ∧ (relayPort t n).step = 1) ∧ HoldersParked s t j ∧ t.relay.cut = s.relay.cut) ∧
  (∀ (s : State) (j : Nat), linkUp s j = false → exec (.linkDown j) s = .next s) ∧
  (∀ (s : State) (j : Nat), s.iris.stop = 4 → 1 < s.facet.setSize → j < s.facet.setSize → j ≠ s.facet.partIndex → allFailed s j = true →
    s.relay.cut.getLsbD j = false → Answers (.peerCut j) s fun t => t.relay.cut = s.relay.cut ||| BitVec.ofNat 9 (2 ^ j) ∧
      t.relay.epoch = s.relay.epoch + 1 ∧ (linkUp s j = true → HoldersParked s t j)) ∧
  (∀ (s : State) (j : Nat), allFailed s j = false → exec (.peerCut j) s = .next s)

/-- On a port that is not up, below Stop 4 or on a halted part a flit changes nothing. A flit that fails its codeword, its check or its sequence number counts as that error and takes its port down to retrain with cause 4. A good flit of another epoch, no control flit of a higher one, counts as stale and does nothing else but take its sequence number. A good flit of the epoch that carries no credits: DATA_FLIT for a window of an occupied slot starts its message with its words; RELEASE_FLIT moves its message, unreleased, to the end of the queue, released, while fewer than 64 wait; DISCARD_FLIT drops its unreleased message and returns its credits; EXCHANGE_FLIT for which nothing waits keeps its words as a chunk; CREDIT_RETURN_FLIT returns credits from flight to free. A control flit of a higher epoch is adopted. (R389, R390, R392, R393, R394, R395, R396) -/
def Obligations.FlitsAreCheckedThenTaken : Prop :=
  (∀ x ∈ flitRows, ∀ (s : State) (f : FlitIn),
    ((relayPort s f.port).up = false ∨ s.iris.stop ≠ 4 ∨ s.sys.halted = true → exec (x.2 f) s = .next s) ∧
    (FlitHere s f x.1 → ∀ k, flitError s f = some k → Answers (x.2 f) s fun t =>
      (relayPort t f.port).up = false ∧ (relayPort t f.port).step = 3 ∧ (relayPort t f.port).cause = 4 ∧
      t.relay.fecUncorr = (if k = 1 then bump s.relay.fecUncorr 1 else s.relay.fecUncorr) ∧
      t.relay.checkFail = (if k = 2 then bump s.relay.checkFail 1 else s.relay.checkFail) ∧
      t.relay.seqGap = (if k = 3 then bump s.relay.seqGap 1 else s.relay.seqGap)) ∧
    (FlitHere s f x.1 → flitError s f = none → flitEpoch f ≠ s.relay.epoch.toNat → x.1 ≠ 6 ∨ flitEpoch f < s.relay.epoch.toNat →
      Answers (x.2 f) s fun t => LaneMoved s t f ∧ t.relay.stale = bump s.relay.stale 1 ∧ t.relay.windows = s.relay.windows ∧
        t.relay.chunks = s.relay.chunks ∧ t.ctxs = s.ctxs ∧ t.engines = s.engines)) ∧
  (∀ (s : State) (f : FlitIn) (w : WindowCfg), FlitTaken s f 1 → flitWindow s f = some w →
    16 * (flitField f 96 32 + (flitWords f).length) ≤ w.size → messageOf s w (flitField f 64 32) (flitSlot f) = none →
    Answers (.dataFlit f) s fun t => LaneMoved s t f ∧ t.engines = s.engines ∧
      windowQueue t w.number = windowQueue s w.number ++ [{
        number := flitField f 64 32, slot := flitSlot f, offset := flitField f 96 32,
        length := 16 * (flitWords f).length, released := false, last := decide (flitField f 134 1 = 1), returned := false }]) ∧
  (∀ (s : State) (f : FlitIn) (w : WindowCfg) (m : Message), FlitTaken s f 2 → flitWindow s f = some w →
    messageOf s w (flitField f 64 32) (flitSlot f) = some m → m.released = false →
    ((windowQueue s w.number).filter (·.released)).length < 64 → Answers (.releaseFlit f) s fun t => LaneMoved s t f ∧ t.ctxs = s.ctxs ∧
      windowQueue t w.number = (windowQueue s w.number).erase m ++ [{ m with released := true }]) ∧
  (∀ (s : State) (f : FlitIn) (w : WindowCfg) (m : Message), FlitTaken s f 3 → flitWindow s f = some w →
    messageOf s w (flitField f 64 32) (flitSlot f) = some m → m.released = false → m.returned = false →
    tableWf [] s.relay.windows = true → Answers (.discardFlit f) s fun t => LaneMoved s t f ∧ t.ctxs = s.ctxs ∧
      windowQueue t w.number = (windowQueue s w.number).erase m ∧
      t.relay.sent = s.relay.sent ++ [{
        peer := w.fromPart, kind := 5, slot := m.slot, window := w.number, message := m.number, offset := 0,
        bytes := [], credits := ceilDiv m.length 256 }]) ∧
  (∀ (s : State) (f : FlitIn), FlitTaken s f 4 → reducing s (flitSlot f) (flitField f 48 8) = [] →
    (∀ c ∈ s.relay.chunks, c.part ≠ flitPart f) → Answers (.exchangeFlit f) s fun t => LaneMoved s t f ∧ t.ctxs = s.ctxs ∧
      t.relay.chunks = s.relay.chunks ++ [{
        slot := flitSlot f, tag := flitField f 48 8, part := flitPart f, owner := flitField f 96 4,
        phase := flitField f 100 1, words := flitWords f }]) ∧
  (∀ (s : State) (f : FlitIn), FlitHere s f 5 → flitError s f = none → flitEpoch f = s.relay.epoch.toNat → flitField f 144 24 ≠ 0 →
    Canonical s → tableWf Credit.none (ctxOf s (flitField f 168 5)).credits = true → Answers (.creditReturnFlit f) s fun t =>
      LaneMoved s t f ∧
      creditOf t (flitField f 168 5) (flitPart f) = { creditOf s (flitField f 168 5) (flitPart f) with
        free := (creditOf s (flitField f 168 5) (flitPart f)).free + min (flitField f 144 24) (creditOf s (flitField f 168 5) (flitPart f)).flight,
        flight := (creditOf s (flitField f 168 5) (flitPart f)).flight - min (flitField f 144 24) (creditOf s (flitField f 168 5) (flitPart f)).flight }) ∧
  (∀ (s : State) (f : FlitIn), FlitHere s f 6 → flitError s f = none → s.relay.epoch.toNat < flitEpoch f → Answers (.controlFlit f) s fun t =>
    t.relay.epoch.toNat = flitEpoch f ∧ t.now = s.now)

/-- POWER_GOOD_RISE without power, RESET_N_LOW with it, and a SYS_RESET write that takes its value start the part: powered, not ready, time and the line count 0, no engine with anything, the flash as it was. With no acceptable image it is in mask-ROM service with no context; with three failed collimations it is halted with cause 1; with a DRAM channel that fails, halted with cause 2 and that channel; else it is collimated and at Stop 3, with the empty facet where the selected one is not accepted. READY, once start-up has ended, sets readiness with one event and starts the raise to Stop 4 where a set needs it and the limit allows. POWER_GOOD_FALL leaves reset, with the NVS, the flash and what has been sent. Each changes nothing where its condition does not hold. (R27, R50, R386, R399, R402, R403, R404, R409, R433, R476, R496) -/
def Obligations.PowerAndReadiness : Prop :=
  (∀ (s : State) (x : ColdStart), (s.sys.powerGood = false → Answers (.powerGoodRise x) s fun t => Started s x t) ∧
    (s.sys.powerGood = true → exec (.powerGoodRise x) s = .next s) ∧
    (s.sys.powerGood = true → Answers (.resetNLow x) s fun t => Started s x t) ∧
    (s.sys.powerGood = false → exec (.resetNLow x) s = .next s)) ∧
  (∀ (s : State) (i : Iface) (v : Word) (x : ColdStart), (reaches s i 0x18 = true → v.toNat % 65536 = 0xC01D →
      Answers (.sysReset i v x) s fun t => Started (writeReset i v.toNat s).2 x t) ∧
    (reaches s i 0x18 = false ∨ v.toNat % 65536 ≠ 0xC01D → exec (.sysReset i v x) s = .next s)) ∧
  (∀ s : State, (s.sys.powerGood = true → Answers .powerGoodFall s fun t => t.sys.powerGood = false ∧ t.sys.ready = false ∧ t.ctxs = [] ∧
      t.engines = [] ∧ t.ready = [] ∧ t.iris.stop = 0 ∧ t.clk = Clk.reset ∧ t.sec.nvs = s.sec.nvs ∧ t.sec.flash = s.sec.flash ∧
      t.control.sent = s.control.sent ∧ t.island.open_ = false ∧ t.island.ring = []) ∧
    (s.sys.powerGood = false → exec .powerGoodFall s = .next s)) ∧
  (∀ s : State, (startupDone s = true → Answers .ready s fun t => t.sys.ready = true ∧ t.control.head = s.control.head + 1 ∧
      t.iris.stop = 3 ∧ t.ctxs = s.ctxs ∧ t.engines = s.engines ∧
      (1 < s.facet.setSize → allowedStop s = 4 → t.iris.raising = true ∧ t.iris.target = 4) ∧
      (s.facet.setSize ≤ 1 ∨ allowedStop s ≠ 4 → t.iris = s.iris)) ∧
    (startupDone s = false → exec .ready s = .next s))

/-- A frame on an interface that is not served changes nothing; one whose magic, version, length, op or trailer is wrong, or whose UART bytes hold another delimiter or another escape sequence than the two, counts in NET_FRAMES_BAD alone. An accepted READ of one register answers its value; one that names an address outside the map answers LENGTH_EXCEEDS and reads none. An accepted WRITE that names one answers LENGTH_EXCEEDS with its pair and applies none; one of a single register other than SYS_RESET applies it. An accepted POST to a slot and an inbox is a message that arrives from its interface; an accepted STAGE that fits puts its bytes into the staging area; an accepted ATTEST of a part that can sign, and is not signing, takes the next leaf, and raises the leaf bound by 64 above it first where the leaf has reached it; of one that cannot, changes no identity state. Each reply on a network port or the UART is sent as one frame, on the UART between delimiters with its escapes, which undo to the frame. (R416, R419, R439, R461, R463, R464, R465, R466, R469, R471) -/
def Obligations.FramesAreAcceptedOrCounted : Prop :=
  (∀ x ∈ frameRows, ∀ (s : State) (i : Iface) (l : List Byte),
    (served s i = false → exec (x.2 i l) s = .next s) ∧
    (served s i = true → (∀ b, frameBody i l = some b → Machine.frameOk i b = false) → Answers (x.2 i l) s fun t =>
      t = { s with control := { s.control with bad := min (s.control.bad + 1) 0xFFFFFFFF } })) ∧
  (∀ (s : State) (i : Iface) (b l : List Byte), FrameTaken s i 1 b l →
    (∀ a, readAddresses (framePayload l) = [a] → addressOk a = true → Answers (.read i b) s fun t => t.control.sent =
      replied s i 1 stOk l (bytesLe (BitVec.ofNat 32 (regPeek (counted s) a)).toNat 4) ∧ t.ctxs = s.ctxs ∧ t.iris = s.iris ∧ t.engines = s.engines) ∧
    ((readAddresses (framePayload l)).all addressOk = false → Answers (.read i b) s fun t =>
      t = { counted s with control := { (counted s).control with sent := replied s i 1 stLength l [] } })) ∧
  (∀ (s : State) (i : Iface) (b l : List Byte), FrameTaken s i 2 b l →
    (∀ k, badPair 0 (pairsOf (framePayload l)) = some k → Answers (.write i b) s fun t =>
      t = { counted s with control := { (counted s).control with sent := replied s i 2 stLength l (bytesLe k 2) } }) ∧
    (∀ a v, pairsOf (framePayload l) = [(a, v)] → addressOk a = true → a ≠ 0x18 → Answers (.write i b) s fun t =>
      t.lix = (regWrite i a v (counted s)).2.lix ∧ t.iris = (regWrite i a v (counted s)).2.iris ∧
      t.ctxs = (regWrite i a v (counted s)).2.ctxs ∧ t.sec = (regWrite i a v (counted s)).2.sec ∧
      t.digest = (regWrite i a v (counted s)).2.digest)) ∧
  (∀ (s : State) (i : Iface) (b l : List Byte), FrameTaken s i 3 b l → field (framePayload l) 0 1 < 32 → field (framePayload l) 1 1 < 8 →
    Answers (.post i b) s fun t =>
      t.ctxs = (arrive s (field (framePayload l) 0 1) (field (framePayload l) 1 1) (postSource i) 0 ((framePayload l).drop 4)).2.ctxs ∧
      t.control.sent = replied s i 3 (if (arrive s (field (framePayload l) 0 1) (field (framePayload l) 1 1) (postSource i) 0
        ((framePayload l).drop 4)).1 then stOk else stLength) l [] ∧ t.iris = s.iris ∧ t.sec = s.sec ∧ t.engines = s.engines) ∧
  (∀ (s : State) (i : Iface) (b l : List Byte), FrameTaken s i 5 b l → Memory.wf s.sec.staging = true →
    field (framePayload l) 0 4 + ((framePayload l).length - 4) ≤ 65536 → Answers (.stage i b) s fun t =>
      (∀ k, k < (framePayload l).length - 4 → rd t.sec.staging (field (framePayload l) 0 4 + k) = (framePayload l).getD (k + 4) 0) ∧
      t.sec.nvs = s.sec.nvs ∧ t.sec.stageAddr = s.sec.stageAddr ∧ t.ctxs = s.ctxs ∧ t.control.sent = replied s i 5 stOk l []) ∧
  (∀ (s : State) (i : Iface) (b l : List Byte), FrameTaken s i 4 b l →
    (canSign s.sec = true → s.sec.signing = none → s.sec.building = false → Answers (.attest i b) s fun t =>
      (∃ g, t.sec.signing = some g ∧ g.leaf = s.sec.nextLeaf ∧ g.iface = i ∧ g.request = BitVec.ofNat 32 (frameRequest l)) ∧
      t.sec.nextLeaf = s.sec.nextLeaf + 1 ∧
      t.sec.bound = (if s.sec.nextLeaf < s.sec.bound then s.sec.bound else s.sec.nextLeaf + 64) ∧ t.control.sent = s.control.sent ∧
      t.ctxs = s.ctxs) ∧
    (canSign s.sec = false → Answers (.attest i b) s fun t => t.sec = s.sec ∧ t.control.sent = replied s i 4 stSignature l [])) ∧
  (∀ l : List Byte, frameBody .uart (onLine .uart l) = some l) ∧
  (∀ (l : List Byte) (k : Nat), k + 2 < l.length → l.getD (k + 1) 0 = 0xC0 → frameBody .uart l = none) ∧
  (∀ l r : List Byte, (∀ c ∈ l, c ≠ 0xC0 ∧ c ≠ 0xDB) → r.headD 0 ≠ 0xDC → r.headD 0 ≠ 0xDD →
    frameBody .uart (0xC0 :: l ++ 0xDB :: r) = none)

/-- ATTEST_SIGNED ends the signing and starts the building of the next bottom tree where the leaves of this one are used up; BOTTOM_TREE_BUILT takes the tree of the next leaf into use; with none of either nothing changes. SPI_REPLY_READ sends the oldest waiting reply of the SPI target and drops it from those waiting. ETHERNET_LINK_TRAINING brings a served port up, with RS-FEC on a 25GbE port alone; ETHERNET_LINK_DOWN takes it down with one event; an answered upkeep frame is answered, a lease is taken by a port without a fixed address, and an unsupported one changes nothing. JTAG_INSTRUCTION changes the instruction, the boundary register where SAMPLE or an acting EXTEST shifts it, and nothing else; EXTEST, CLAMP and HIGHZ are BYPASS while RESET_N is high. (R57, R402, R413, R418, R419, R462, R470, R498) -/
def Obligations.SignaturesLinksAndTestPort : Prop :=
  (∀ s : State, (s.sec.signing = none → exec .attestSigned s = .next s) ∧
    (s.sec.signing.isSome = true → Answers .attestSigned s fun t => t.sec.signing = none ∧ t.sec.nextLeaf = s.sec.nextLeaf ∧
      t.sec.bound = s.sec.bound ∧ t.sec.building = (s.sec.building || decide (s.sec.nextLeaf / 2 ^ 20 ≠ s.sec.bottom)) ∧ t.ctxs = s.ctxs) ∧
    (s.sec.building = false → exec .bottomTreeBuilt s = .next s) ∧
    (s.sec.building = true → Answers .bottomTreeBuilt s fun t => t.sec.building = false ∧ t.sec.bottom = s.sec.nextLeaf / 2 ^ 20 ∧
      t.sec.nextLeaf = s.sec.nextLeaf ∧ t.sec.journalHead = s.sec.journalHead ∧ t.control = s.control)) ∧
  (∀ (s : State) (b : List Byte) (r : List (List Byte)), served s .spi = true → s.control.spi = b :: r → Answers .spiReplyRead s fun t =>
    t.control.spi = r ∧ t.control.sent = s.control.sent ++ [{ iface := .spi, bytes := b }] ∧ t.control.head = s.control.head ∧ t.sec = s.sec) ∧
  (∀ s : State, served s .spi = false ∨ s.control.spi = [] → exec .spiReplyRead s = .next s) ∧
  (∀ (s : State) (p : Nat) (fec : Bool), netServed s p = true →
    ((netPort s p).link = false → Answers (.ethernetLinkTraining p fec) s fun t =>
      netPort t p = { netPort s p with link := true, rsFec := fec && decide (p ≠ 0) } ∧ (∀ k, k ≠ p → netPort t k = netPort s k) ∧ t.sec = s.sec) ∧
    ((netPort s p).link = true → tableWf NetPort.idle s.control.nets = true → Answers (.ethernetLinkDown p) s fun t =>
      (netPort t p).link = false ∧ (netPort t p).ipv4 = (netPort s p).ipv4 ∧ t.control.head = s.control.head + 1 ∧ t.sec = s.sec ∧
      t.ctxs = s.ctxs)) ∧
  (∀ (s : State) (p : Nat), netServed s p = true → (netPort s p).link = true →
    (∀ f ∈ [NetFrame.arpRequest, .icmpEcho, .neighbourSolicit], Answers (.arpIcmpDhcpFrame p f) s fun t =>
      t = { s with control := { s.control with upkeep := s.control.upkeep ++ [(p, f)] } }) ∧
    (∀ a, fixedAddress s p = false → Answers (.arpIcmpDhcpFrame p (.dhcpAck a)) s fun t =>
      netPort t p = { netPort s p with ipv4 := a, dhcp := true } ∧ t.sec = s.sec) ∧
    exec (.arpIcmpDhcpFrame p .unsupported) s = .next s) ∧
  (∀ (s : State) (op : JtagOp) (l : List (Nat × Bool)), Answers (.jtagInstruction op l) s fun t =>
    { t with sys := { t.sys with jtag := s.sys.jtag, boundary := s.sys.boundary } } = s ∧
    (op ≠ .sample → op ≠ .extest ∨ s.sys.resetN = true → t.sys.boundary = s.sys.boundary) ∧
    (s.sys.resetN = true → op = .extest ∨ op = .clamp ∨ op = .highz → t.sys.jtag = .bypass) ∧
    (s.sys.resetN = false → t.sys.jtag = op))

/-- No register row changes anything on an interface that is not served. Otherwise: LIX_SOURCE takes a source that differs, is no reserved value and is available, with the count kept, the phase held and no edge due; a reserved value, the present one or one not available changes nothing. Each write of LIX_DIVIDER takes a divider, keeps the count and counts on from the highest position with no edge of ENC3 counted. LIX_STATUS clears OVERSPEED on a one. IRIS_BUDGET_LIMIT is kept within 1,800 and 60,000 mW, the clip threshold at most 65,536; an instance admitted on this edge keeps the threshold before the write, one that starts on a later edge takes the new one. LEDGER_SELECT captures the four columns of the ledger it names, and keeps the name alone (log 113). GLINT_STATUS clears BANK_REFUSED on a one. EVENT_TAIL takes a value from the tail to the head. LIX_REF_PERIOD is at least 9, and EVENT_MASK takes its value. SEC_NVS_STAGE_DATA stores its word and advances the offset by 4. A write that changes its register adds one journal entry; contexts and engines stay, but for the threshold. (R13, R28, R29, R43, R45, R186, R372, R475, R479, R481, R483, R484) -/
def Obligations.RegisterWritesTakeEffect : Prop :=
  (∀ (s : State) (i : Iface) (v : Word), served s i = false →
    ∀ c ∈ [Instr.lixSource i v, .lixDivider i v, .lixStatusClear i v, .irisBudgetLimit i v, .qntClipThreshold i 0 v, .ledgerSelect i v,
      .glintStatusClear i v, .eventTail i v, .registerWrite i 0x10008 v, .secNvsStageData i v, .sysFacet i v, .sysCountersClear i v,
      .ctxStop i 0, .ctxResume i 0, .ctxUnload i 0, .ctxLoad i 0, .relayRetrainPort i (v.truncate 8), .relayCutPeer i (v.truncate 9),
      .flashRead i, .flashProgram i, .flashErase i, .storeFacet i (v.truncate 2), .enrolKey i (v.truncate 2), .revokeKey i (v.truncate 2),
      .writeBootRecord i, .digestReplayCtrl i v, .digestReplayData i v, .digestMark i v, .digestBreak i v, .digestBreakResume i],
      exec c s = .next s) ∧
  (∀ (s : State) (i : Iface) (v : Word), writable s i →
    (v.toNat % 16 = 6 ∨ v.toNat % 16 = 7 ∨ v.toNat % 16 = s.lix.source ∨ sourceAvailable s (v.toNat % 16) = false →
      exec (.lixSource i v) s = .next s) ∧
    (v.toNat % 16 ≠ 6 → v.toNat % 16 ≠ 7 → v.toNat % 16 ≠ s.lix.source → sourceAvailable s (v.toNat % 16) = true →
      Answers (.lixSource i v) s fun t => t.lix.source = v.toNat % 16 ∧ t.lix.count = s.lix.count ∧ t.lix.hold = true ∧ t.lix.due = 0 ∧
        t.lix.firstEdge = true ∧ t.lix.divider = s.lix.divider ∧ t.ctxs = s.ctxs ∧ journalGrows s t true) ∧
    (0 < s.lix.divider → Answers (.lixDivider i v) s fun t => t.lix.divider = v.toNat % 65536 + 1 ∧ t.lix.count = s.lix.count ∧
      t.lix.origin = s.lix.high ∧ t.lix.pulses = 0 ∧ t.lix.position = s.lix.position ∧ t.lix.source = s.lix.source ∧ t.lix.due = s.lix.due ∧
      t.ctxs = s.ctxs ∧ journalGrows s t (decide (v.toNat % 65536 + 1 ≠ s.lix.divider))) ∧
    (Answers (.lixStatusClear i v) s fun t => t.lix = { s.lix with overspeed := s.lix.overspeed && !v.getLsbD 0 } ∧ t.ctxs = s.ctxs ∧
      journalGrows s t (s.lix.overspeed && v.getLsbD 0)) ∧
    (Answers (.irisBudgetLimit i v) s fun t => t.iris = { s.iris with budgetLimit := max 1800 (min 60000 (v.toNat % 65536)) } ∧ t.ctxs = s.ctxs ∧
      journalGrows s t (decide (s.iris.budgetLimit ≠ max 1800 (min 60000 (v.toNat % 65536))))) ∧
    (∀ c, c < 32 → Canonical s → Answers (.qntClipThreshold i c v) s fun t =>
      ctxOf t c = { ctxOf s c with theta := min 65536 (v.toNat % 2 ^ 17), thetaWas := thetaFor (ctxOf s c) s.now, thetaEdge := s.now } ∧
      (∀ d, d ≠ c → ctxOf t d = ctxOf s d) ∧ t.ready = s.ready ∧ t.now = s.now ∧
      t.sec.journalHead = s.sec.journalHead + (if (ctxOf s c).theta ≠ min 65536 (v.toNat % 2 ^ 17) then 1 else 0) ∧
      (∀ e, e ∉ startLater s c → engOf t e = engOf s e) ∧
      (∀ e ∈ startLater s c, ∀ j, (engOf s e).run = some j → (engOf t e).run = some { j with theta := min 65536 (v.toNat % 2 ^ 17) })) ∧
    (Answers (.ledgerSelect i v) s fun t => (t.ledgers.selTotal, t.ledgers.selFree, t.ledgers.selHeld, t.ledgers.selFlight) =
        ledgerColumns s (v.toNat / 256 % 16) (v.toNat / 65536 % 1024) ∧ t.ledgers.es = s.ledgers.es ∧ t.ledgers.sems = s.ledgers.sems ∧
      t.ctxs = s.ctxs ∧ t.iris = s.iris ∧
      journalGrows s t (decide (s.ledgers.select ≠ BitVec.ofNat 26 (256 * (v.toNat / 256 % 16) + 65536 * (v.toNat / 65536 % 1024))))) ∧
    (Answers (.glintStatusClear i v) s fun t => t.glint = { s.glint with refused := s.glint.refused && !v.getLsbD 0 } ∧ t.ctxs = s.ctxs ∧
      journalGrows s t (s.glint.refused && v.getLsbD 0)) ∧
    (Answers (.eventTail i v) s fun t => (v - s.control.tail ≤ s.control.head - s.control.tail → t.control.tail = v) ∧
      (¬ v - s.control.tail ≤ s.control.head - s.control.tail → (v - s.control.head).toNat < 2 ^ 31 → t.control.tail = s.control.head) ∧
      (¬ v - s.control.tail ≤ s.control.head - s.control.tail → 2 ^ 31 ≤ (v - s.control.head).toNat → t.control.tail = s.control.tail) ∧
      t.control.head = s.control.head ∧ journalGrows s t (decide (t.control.tail ≠ s.control.tail))) ∧
    (s.lix.refPeriod < 2 ^ 32 → Answers (.registerWrite i 0x10008 v) s fun t => t.lix = { s.lix with refPeriod := max 9 v.toNat } ∧
      t.ctxs = s.ctxs ∧ journalGrows s t (decide (s.lix.refPeriod ≠ max 9 v.toNat))) ∧
    (Answers (.registerWrite i 0xF000C v) s fun t => t.control.mask = v.truncate 24 ∧ t.control.head = s.control.head ∧ t.ctxs = s.ctxs ∧
      journalGrows s t (decide (s.control.mask ≠ v.truncate 24))) ∧
    (Memory.wf s.sec.staging = true → Answers (.secNvsStageData i v) s fun t => t.sec.stageAddr = s.sec.stageAddr + 4 ∧
      (∀ k, k < 4 → rd t.sec.staging ((s.sec.stageAddr.toNat + k) % 65536) = (bytesLe v.toNat 4).getD k 0) ∧ t.ctxs = s.ctxs ∧ t.iris = s.iris ∧
      journalGrows s t (decide (v.toNat ≠ regPeek s 0xE0024))))

/-- On a served interface: STOP makes an active or parked slot stopped; RESUME makes a stopped one parked where a restart is due or its level is above the present one, else active; UNLOAD gives an occupied slot its teardown, at the next edge unless one is due already; a LOAD whose record is present, in range, powered and within the ledgers makes an empty slot loading with the record granted, and any other LOAD changes nothing. A clear of the counters zeroes them. SYS_FACET checks the facet it names, takes it for the next beat where the code is 0, and leaves the present one; it changes nothing for a reserved number or while a change waits. A port selected for retraining that is up at Stop 4 goes down to step 3 with cause 0. A part selected to be cut is cut. At the beat, the accepted facet is in use with its number. Where a condition fails, nothing changes. (R344, R345, R347, R365, R388, R396, R398, R435, R436, R475, R476, R478) -/
def Obligations.ContextAndPartControls : Prop :=
  (∀ (s : State) (i : Iface) (c : Nat), writable s i → c < 32 → Canonical s →
    ((ctxOf s c).state = .active ∨ (ctxOf s c).state = .parked →
      Answers (.ctxStop i c) s fun t => ctxOf t c = { ctxOf s c with state := .stopped } ∧ slotWritten s t c ∧ t.ready = s.ready) ∧
    ((ctxOf s c).state ≠ .active → (ctxOf s c).state ≠ .parked → exec (.ctxStop i c) s = .next s) ∧
    ((ctxOf s c).state = .stopped → Answers (.ctxResume i c) s fun t =>
      (ctxOf t c).state = (if (ctxOf s c).restart = none ∧ (ctxOf s c).granted.level ≤ s.iris.stop then .active else .parked) ∧
      (ctxOf t c).granted = (ctxOf s c).granted ∧ (ctxOf t c).stores = (ctxOf s c).stores ∧ slotWritten s t c) ∧
    ((ctxOf s c).state ≠ .stopped → exec (.ctxResume i c) s = .next s) ∧
    (occupied (ctxOf s c) = true → Answers (.ctxUnload i c) s fun t =>
      ctxOf t c = { ctxOf s c with tear := some ((ctxOf s c).tear.getD (.unload, none, s.now + 1)) } ∧ slotWritten s t c ∧ t.ready = s.ready) ∧
    (occupied (ctxOf s c) = false → exec (.ctxUnload i c) s = .next s) ∧
    (∀ u, (ctxOf s c).state = .empty → (ctxOf s c).record.present = true → recordRanged s.iris.capacity (ctxOf s c).record = true →
      coresPowered (ctxOf s c).record = true → grantShares s c (ctxOf s c).record = some u → Answers (.ctxLoad i c) s fun t =>
        (ctxOf t c).state = .loading ∧ (ctxOf t c).granted = (ctxOf s c).record ∧ (ctxOf t c).step = 0 ∧ (ctxOf t c).chain = 0 ∧
        (ctxOf t c).restart = none ∧ t.ledgers.es = u.ledgers.es ∧ t.ledgers.cs = u.ledgers.cs ∧ t.ledgers.xs = u.ledgers.xs ∧
        t.ledgers.ds = u.ledgers.ds ∧ slotWritten s t c) ∧
    ((ctxOf s c).state ≠ .empty ∨ (ctxOf s c).record.present = false ∨ recordRanged s.iris.capacity (ctxOf s c).record = false ∨
      coresPowered (ctxOf s c).record = false ∨ grantShares s c (ctxOf s c).record = none → exec (.ctxLoad i c) s = .next s)) ∧
  (∀ (s : State) (i : Iface) (v : Word), writable s i →
    (v.getLsbD 0 = true → Answers (.sysCountersClear i v) s fun t => t.sys.epochStale = 0 ∧ t.lix.late = 0 ∧ t.iris.deferBeats = 0 ∧
      t.ledgers.unitOverflow = 0 ∧ t.mem.corrEs = 0 ∧ t.mem.uncorr = 0 ∧ t.media.rtpDiscard = 0 ∧ t.glint.late = 0 ∧ t.relay.fecCorr = 0 ∧
      t.control.lost = 0 ∧ t.control.frames = 0 ∧ t.control.bad = 0 ∧ t.digest.lost = 0 ∧
      (∀ c, (ctxOf t c).inboxOverflow = 0 ∧ (ctxOf t c).satCount = 0 ∧ (ctxOf t c).satEvents = 0 ∧ (∀ p, (portOf t p).dropped = 0)) ∧
      t.lix.count = s.lix.count ∧ t.control.head = s.control.head ∧ t.engines = s.engines ∧ t.sec.journalHead = s.sec.journalHead + 1) ∧
    (v.getLsbD 0 = false → exec (.sysCountersClear i v) s = .next s) ∧
    (v.toNat % 256 < 4 → s.sys.nextFacet = none → Answers (.sysFacet i v) s fun t => t.sys.facetCode = checkNvs s (v.toNat % 256) ∧
      (checkNvs s (v.toNat % 256) = 0 →
        t.sys.nextFacet = some (v.toNat % 256, facetAt s.sec.nvs (facetPlace (v.toNat % 256)), ifaceCode i)) ∧
      (checkNvs s (v.toNat % 256) ≠ 0 → t.sys.nextFacet = none) ∧ t.facet = s.facet ∧ t.sys.facetNumber = s.sys.facetNumber ∧
      t.ctxs = s.ctxs ∧ t.sec = s.sec) ∧
    (4 ≤ v.toNat % 256 ∨ s.sys.nextFacet ≠ none → exec (.sysFacet i v) s = .next s)) ∧
  (∀ (s : State) (n : Nat) (g : Facet) (j : Nat), s.sys.nextFacet = some (n, g, j) → s.clk.collimated = true → s.sys.halted = false →
    s.iris.raising = false → s.iris.lowering = false →
    Answers .facetApply s fun t => t.facet = g ∧ t.sys.facetNumber = n ∧ t.sys.nextFacet = none ∧ t.iris.stop = s.iris.stop) ∧
  (∀ s : State, s.sys.nextFacet = none ∨ s.clk.collimated = false ∨ s.sys.halted = true ∨ s.iris.raising = true ∨ s.iris.lowering = true →
    exec .facetApply s = .next s) ∧
  (∀ (s : State) (i : Iface), writable s i →
    (∀ ports : BitVec 8, ports ≠ 0 → Answers (.relayRetrainPort i ports) s fun t => t.sec.journalHead = s.sec.journalHead + 1 ∧
      (∀ n, n < 8 → (if ports.getLsbD n = true ∧ (relayPort s n).up = true ∧ s.iris.stop = 4 then
        (relayPort t n).up = false ∧ (relayPort t n).step = 3 ∧ (relayPort t n).cause = 0 else relayPort t n = relayPort s n))) ∧
    exec (.relayRetrainPort i 0) s = .next s ∧
    (∀ parts : BitVec 9, parts ≠ 0 → Answers (.relayCutPeer i parts) s fun t => t.sec.journalHead = s.sec.journalHead + 1 ∧
      (∀ j, j < 9 → parts.getLsbD j = true → j ≠ s.facet.partIndex → j < s.facet.setSize → t.relay.cut.getLsbD j = true) ∧
      (∀ j, parts.getLsbD j = false → t.relay.cut.getLsbD j = s.relay.cut.getLsbD j)) ∧
    exec (.relayCutPeer i 0) s = .next s)

/-- On a part whose registers answer reads: a read of LIX_COUNT_LO captures count and phase, of AUDIO_POSITION_LO the position, of DIGEST_CHAIN_LO the chain and the step; EVENT_DATA and DIGEST_TRACE_DATA go to the next word, SEC_CERT_DATA advances by 4, and DIGEST_PEEK_DATA to the next word of its store. On a served interface: a flash read takes the word at the address; a program clears bits of its four bytes alone; an erase sets its sector to 0xFF. An NVS command starts where none runs, the facet store with the staging area in the shadow, an enrolment into a free slot alone; while one runs nothing changes. Its end leaves none running, an enrolled key present, a revoked one absent. One slot alone replays; the log gains its word; the mark and the breakpoint are as written; a resume lets the stopped instance issue. (R41, R405, R412, R413, R420, R438, R450, R451, R481, R483, R484, R485) -/
def Obligations.ReadsFlashNvsAndDigest : Prop :=
  (∀ x ∈ readRows, ∀ s : State, readable s x.2 = false → exec x.1 s = .next s) ∧
  (∀ s : State, (∀ x ∈ readRows, readable s x.2 = true) →
    (Answers .lixCountCapture s fun t => t = { s with lix := { s.lix with capCount := s.lix.count, capPhase := s.lix.phase } }) ∧
    (Answers .audioPositionCapture s fun t => t = { s with island := { s.island with capPosition := s.island.position } }) ∧
    (Answers .digestChainCapture s fun t =>
      t = { s with digest := { s.digest with capChain := (ctxOf s s.digest.ctx).chain, capStep := (ctxOf s s.digest.ctx).step } }) ∧
    (Answers .eventData s fun t => t = { s with control := { s.control with word := (s.control.word + 1) % 16 } }) ∧
    (Answers .digestTraceData s fun t => t = { s with digest := { s.digest with traceWord := (s.digest.traceWord + 1) % 8 } }) ∧
    (Answers .secCertData s fun t => t = { s with sec := { s.sec with certAddr := s.sec.certAddr + 4 } }) ∧
    (Answers .digestPeekData s fun t => t.digest.peekAddr.toNat % 2 ^ 28 = (s.digest.peekAddr.toNat + 1) % 2 ^ 28 ∧
      t.digest.peekAddr.toNat / 2 ^ 28 = s.digest.peekAddr.toNat / 2 ^ 28 ∧ t.ctxs = s.ctxs)) ∧
  (∀ (s : State) (i : Iface), writable s i →
    (Answers (.flashRead i) s fun t => t.sec.flashData = BitVec.ofNat 32 (flashWord s s.sec.flashAddr.toNat) ∧ t.sec.flash = s.sec.flash ∧
      t.sec.flashAddr = s.sec.flashAddr ∧ t.ctxs = s.ctxs ∧ t.sec.journalHead = s.sec.journalHead + 1) ∧
    (tableWf 0xFF s.sec.flash = true → Answers (.flashProgram i) s fun t =>
      (∀ k, k < 4 → flashByte t (s.sec.flashAddr.toNat + k) =
        flashByte s (s.sec.flashAddr.toNat + k) &&& (bytesLe s.sec.flashData.toNat 4).getD k 0) ∧
      (∀ a, a < s.sec.flashAddr.toNat ∨ s.sec.flashAddr.toNat + 4 ≤ a → flashByte t a = flashByte s a) ∧ t.ctxs = s.ctxs ∧
      t.sec.journalHead = s.sec.journalHead + 1) ∧
    (tableWf 0xFF s.sec.flash = true → Answers (.flashErase i) s fun t =>
      (∀ a, flashByte t a = if a / 65536 = s.sec.flashAddr.toNat / 65536 then 0xFF else flashByte s a) ∧ t.ctxs = s.ctxs ∧
      t.sec.journalHead = s.sec.journalHead + 1) ∧
    (s.sec.job = none → Memory.wf s.sec.nvs = true → ∀ n : BitVec 2, Answers (.storeFacet i n) s fun t =>
      t.sec.job = some { op := 1, index := n.toNat, iface := i, data := [] } ∧
      rdBytes t.sec.nvs 0x50000 65536 = rdBytes s.sec.staging 0 65536 ∧ t.facet = s.facet ∧ t.ctxs = s.ctxs) ∧
    (s.sec.job = none → ∀ x ∈ jobRows s i, Answers x.1 s fun t =>
      t = { s with sec := { s.sec with job := some { op := x.2.1, index := x.2.2.1, iface := i, data := x.2.2.2 } } }) ∧
    (s.sec.job = none → ∀ n : BitVec 2, keyPresent s n.toNat = true → Answers (.enrolKey i n) s fun t =>
      t = { s with sec := { s.sec with result := stHeld } }) ∧
    (s.sec.job ≠ none → exec (.writeBootRecord i) s = .next s ∧
      ∀ n : BitVec 2, exec (.storeFacet i n) s = .next s ∧ exec (.enrolKey i n) s = .next s ∧ exec (.revokeKey i n) s = .next s) ∧
    (∀ v : Word, Canonical s → Answers (.digestReplayCtrl i v) s fun t => t.digest.replaySlot = v.toNat % 32 ∧ t.digest.replayOn = v.getLsbD 31 ∧
      t.engines = s.engines ∧ (∀ c, c < 32 → (ctxOf t c).replay.on = (v.getLsbD 31 && decide (c = v.toNat % 32)) ∧
        (ctxOf t c).stores = (ctxOf s c).stores ∧
        (ctxOf t c).replay.words = if c = v.toNat % 32 ∧ v.getLsbD 31 = true then (ctxOf s c).replay.words else [])) ∧
    (∀ v : Word, Canonical s → (ctxOf s s.digest.replaySlot).replay.words.length < 262144 → Answers (.digestReplayData i v) s fun t =>
      (ctxOf t s.digest.replaySlot).replay.words = (ctxOf s s.digest.replaySlot).replay.words ++ [v] ∧
      (∀ d, d ≠ s.digest.replaySlot → ctxOf t d = ctxOf s d) ∧ t.digest = s.digest) ∧
    (∀ v : Word, 262144 ≤ (ctxOf s s.digest.replaySlot).replay.words.length → exec (.digestReplayData i v) s = .next s) ∧
    (∀ v : Word, Answers (.digestMark i v) s fun t => t.ctxs = s.ctxs ∧ t.engines = s.engines ∧
      t.digest = { s.digest with markSlot := v.toNat % 32, markOn := v.getLsbD 5, markCmd := v.toNat / 65536 }) ∧
    (∀ v : Word, Answers (.digestBreak i v) s fun t => t.ctxs = s.ctxs ∧ t.engines = s.engines ∧
      t.digest = { s.digest with breakInstr := v.toNat % 2 ^ 24, breakArmed := v.getLsbD 30 }) ∧
    (∀ e b x, s.digest.broken = some (e, b) → (engOf s e).run = some x → x.halted = true → Canonical s → Answers (.digestBreakResume i) s fun t =>
      (engOf t e).run = some { x with halted := false, passed := true, nextIssue := max s.now x.nextIssue } ∧ t.digest.broken = none ∧
      t.ctxs = s.ctxs ∧ (∀ d, d ≠ e → engOf t d = engOf s d)) ∧
    (s.digest.broken = none → exec (.digestBreakResume i) s = .next s)) ∧
  (∀ s : State, (s.sec.job = none → exec .nvsCommandDone s = .next s) ∧
    (∀ j, s.sec.job = some j → Answers .nvsCommandDone s fun t => t.sec.job = none ∧ t.ctxs = s.ctxs ∧ t.facet = s.facet ∧ t.engines = s.engines ∧
      (j.op = 2 → j.index < 4 → j.data.length = 32 → Memory.wf s.sec.nvs = true → keyPresent t j.index = true ∧ t.sec.result = stOk ∧
        rdBytes t.sec.nvs (keyPlace j.index) 32 = j.data) ∧
      (j.op = 3 → j.index < 4 → Memory.wf s.sec.nvs = true → keyPresent t j.index = false ∧ t.sec.result = stOk)))
end

