-- ==== Sys2Proof/Laws/Table.lean ====
section
/-! SUPPORT. The laws of sparse tables: read after write, and that every operation keeps the canonical form. -/

namespace Sys2Proof.Machine

open Sys2Proof

variable {α : Type}

/-! ### Reading -/

@[simp] theorem tget_nil (d : α) (k : Nat) : tget d [] k = d := rfl

/-- Below every listed key a canonical table reads as unlisted. -/
theorem tget_below [DecidableEq α] (d : α) (t : Table α) (lo k : Nat) (h : tableFrom d lo t = true) (hk : k < lo) :
    tget d t k = d := by
  cases t with
  | nil => rfl
  | cons e r =>
    simp only [tableFrom, Bool.and_eq_true, decide_eq_true_eq] at h
    have : k < e.1 := by omega
    simp [tget, this]

/-- Every element of a tail of a canonical table lies above its head. -/
theorem tableFrom_weaken [DecidableEq α] (d : α) (t : Table α) {lo lo' : Nat} (hl : lo' ≤ lo) (h : tableFrom d lo t = true) :
    tableFrom d lo' t = true := by
  cases t with
  | nil => rfl
  | cons e r =>
    simp only [tableFrom, Bool.and_eq_true, decide_eq_true_eq] at h ⊢
    exact ⟨⟨by omega, h.1.2⟩, h.2⟩

/-- An entry just written reads back. -/
theorem tget_tset_same [DecidableEq α] (d : α) (t : Table α) (lo k : Nat) (v : α) (h : tableFrom d lo t = true) :
    tget d (tset d t k v) k = v := by
  induction t generalizing lo with
  | nil => by_cases hv : v = d <;> simp [tset, tget, hv]
  | cons e r ih =>
    obtain ⟨k', v'⟩ := e
    simp only [tableFrom, Bool.and_eq_true, decide_eq_true_eq] at h
    by_cases h1 : k < k'
    · by_cases hv : v = d <;> simp [tset, tget, h1, hv]
    · by_cases h2 : k = k'
      · subst h2
        by_cases hv : v = d
        · simp [tset, hv, tget_below d r (k + 1) k h.2 (by omega)]
        · simp [tset, tget, hv]
      · simp [tset, tget, h1, h2, ih _ h.2]

/-- Every other entry reads as before. -/
theorem tget_tset_ne [DecidableEq α] (d : α) (t : Table α) (lo k j : Nat) (v : α) (h : tableFrom d lo t = true) (hj : j ≠ k) :
    tget d (tset d t k v) j = tget d t j := by
  induction t generalizing lo with
  | nil => by_cases hv : v = d <;> simp [tset, tget, hv, hj]
  | cons e r ih =>
    obtain ⟨k', v'⟩ := e
    simp only [tableFrom, Bool.and_eq_true, decide_eq_true_eq] at h
    by_cases h1 : k < k'
    · by_cases hv : v = d
      · simp [tset, h1, hv]
      · by_cases h3 : j < k
        · simp [tset, tget, h1, hv, h3, show j < k' by omega]
        · simp [tset, tget, h1, hv, h3, hj]
    · by_cases h2 : k = k'
      · subst h2
        by_cases h3 : j < k
        · by_cases hv : v = d
          · simp [tset, tget, hv, h3, tget_below d r (k + 1) j h.2 (by omega)]
          · simp [tset, tget, hv, h3]
        · by_cases hv : v = d <;> simp [tset, tget, hv, h3, hj]
      · by_cases h3 : j < k'
        · simp [tset, tget, h1, h2, h3]
        · by_cases h4 : j = k'
          · simp [tset, tget, h1, h2, h4]
          · simp [tset, tget, h1, h2, h3, h4, ih _ h.2]

/-! ### The canonical form -/

theorem tableFrom_tset [DecidableEq α] (d : α) (t : Table α) (lo k : Nat) (v : α) (h : tableFrom d lo t = true) (hk : lo ≤ k) :
    tableFrom d lo (tset d t k v) = true := by
  induction t generalizing lo with
  | nil => by_cases hv : v = d <;> simp [tset, tableFrom, hv, hk]
  | cons e r ih =>
    obtain ⟨k', v'⟩ := e
    have h0 := h
    simp only [tableFrom, Bool.and_eq_true, decide_eq_true_eq] at h
    by_cases h1 : k < k'
    · by_cases hv : v = d
      · simpa [tset, h1, hv] using h0
      · have hv' : v' ≠ d := by simpa using h.1.2
        simp [tset, tableFrom, h1, hv, hk, hv', h.2, show k + 1 ≤ k' by omega]
    · by_cases h2 : k = k'
      · subst h2
        by_cases hv : v = d
        · simpa [tset, hv] using tableFrom_weaken d r (by omega) h.2
        · simp [tset, tableFrom, hv, h.2, hk]
      · have hv' : v' ≠ d := by simpa using h.1.2
        simp [tset, tableFrom, h1, h2, h.1.1, hv', ih _ h.2 (by omega)]

theorem tableFrom_filter [DecidableEq α] (d : α) (p : Nat × α → Bool) (t : Table α) (lo : Nat) (h : tableFrom d lo t = true) :
    tableFrom d lo (t.filter p) = true := by
  induction t generalizing lo with
  | nil => rfl
  | cons e r ih =>
    obtain ⟨k, v⟩ := e
    simp only [tableFrom, Bool.and_eq_true, decide_eq_true_eq] at h
    by_cases hp : p (k, v) = true
    · have hv : v ≠ d := by simpa using h.1.2
      simp [hp, tableFrom, h.1.1, hv, ih _ h.2]
    · simpa [List.filter_cons, hp] using tableFrom_weaken d _ (by omega) (ih _ h.2)

theorem tableFrom_tmap [DecidableEq α] (d : α) (f : α → α) (t : Table α) (lo : Nat) (h : tableFrom d lo t = true) :
    tableFrom d lo (tmap d f t) = true := by
  induction t generalizing lo with
  | nil => rfl
  | cons e r ih =>
    obtain ⟨k, v⟩ := e
    simp only [tableFrom, Bool.and_eq_true, decide_eq_true_eq] at h
    have hr := ih _ h.2
    unfold tmap at hr ⊢
    by_cases hv : f v = d
    · simpa [List.filter_cons, hv] using tableFrom_weaken d _ (by omega) hr
    · simpa [List.filter_cons, hv, tableFrom, h.1.1] using hr

theorem tableWf_tset [DecidableEq α] (d : α) (t : Table α) (k : Nat) (v : α) (h : tableWf d t = true) :
    tableWf d (tset d t k v) = true := tableFrom_tset d t 0 k v h (Nat.zero_le k)

theorem tableWf_tmod [DecidableEq α] (d : α) (t : Table α) (k : Nat) (f : α → α) (h : tableWf d t = true) :
    tableWf d (tmod d t k f) = true := tableWf_tset d t k _ h

/-! ### Stores -/

@[simp] theorem Memory.wf_nil : Memory.wf [] = true := rfl

theorem Memory.wf_wr (m : Memory) (a : Nat) (b : Byte) (h : Memory.wf m = true) : Memory.wf (wr m a b) = true :=
  tableWf_tset 0 m a b h

theorem Memory.wf_wrBytes (m : Memory) (a : Nat) (l : List Byte) (h : Memory.wf m = true) : Memory.wf (wrBytes m a l) = true := by
  induction l generalizing m a with
  | nil => exact h
  | cons b r ih => exact ih _ _ (Memory.wf_wr m a b h)

theorem Memory.wf_clearRange (m : Memory) (a n : Nat) (h : Memory.wf m = true) : Memory.wf (clearRange m a n) = true :=
  tableFrom_filter 0 _ m 0 h

theorem rd_wr_same (m : Memory) (a : Nat) (b : Byte) (h : Memory.wf m = true) : rd (wr m a b) a = b :=
  tget_tset_same 0 m 0 a b h

theorem rd_wr_ne (m : Memory) (a k : Nat) (b : Byte) (h : Memory.wf m = true) (hk : k ≠ a) : rd (wr m a b) k = rd m k :=
  tget_tset_ne 0 m 0 a k b h hk

/-- Bytes below a run of written bytes read as before. -/
theorem rd_wrBytes_below (m : Memory) (a k : Nat) (l : List Byte) (h : Memory.wf m = true) (hk : k < a) :
    rd (wrBytes m a l) k = rd m k := by
  induction l generalizing m a with
  | nil => rfl
  | cons b r ih =>
    show rd (wrBytes (wr m a b) (a + 1) r) k = rd m k
    rw [ih _ _ (Memory.wf_wr m a b h) (by omega), rd_wr_ne m a k b h (by omega)]

/-- Bytes above a run of written bytes read as before. -/
theorem rd_wrBytes_above (m : Memory) (a k : Nat) (l : List Byte) (h : Memory.wf m = true) (hk : a + l.length ≤ k) :
    rd (wrBytes m a l) k = rd m k := by
  induction l generalizing m a with
  | nil => rfl
  | cons b r ih =>
    simp only [List.length_cons] at hk
    show rd (wrBytes (wr m a b) (a + 1) r) k = rd m k
    rw [ih _ _ (Memory.wf_wr m a b h) (by omega), rd_wr_ne m a k b h (by omega)]

/-- Written bytes read back. -/
theorem rdBytes_wrBytes (m : Memory) (a : Nat) (l : List Byte) (h : Memory.wf m = true) :
    rdBytes (wrBytes m a l) a l.length = l := by
  induction l generalizing m a with
  | nil => rfl
  | cons b r ih =>
    have hw := Memory.wf_wr m a b h
    show rd (wrBytes (wr m a b) (a + 1) r) a :: rdBytes (wrBytes (wr m a b) (a + 1) r) (a + 1) r.length = b :: r
    rw [rd_wrBytes_below _ _ _ _ hw (by omega), rd_wr_same m a b h, ih _ _ hw]

end Sys2Proof.Machine
end

