-- ==== Sys2Proof/Laws/State.lean ====
section
/-! SUPPORT. The laws of the State updates: what each accessor leaves alone (by rfl), and what it reads back. -/

namespace Sys2Proof.Machine

open Sys2Proof

/-! ### Sparse tables whose written entry differs from the unlisted one: no canonical form is needed -/

theorem tget_tset_set {α : Type} [DecidableEq α] (d : α) (t : Table α) (k : Nat) (v : α) (hv : v ≠ d) :
    tget d (tset d t k v) k = v := by
  induction t with
  | nil => simp [tset, tget, hv]
  | cons e r ih =>
    obtain ⟨k', v'⟩ := e
    by_cases h1 : k < k'
    · simp [tset, tget, h1, hv]
    · by_cases h2 : k = k'
      · simp [tset, tget, h2, hv]
      · simp [tset, tget, h1, h2, ih]

theorem tget_tset_other {α : Type} [DecidableEq α] (d : α) (t : Table α) (k j : Nat) (v : α) (hv : v ≠ d) (hj : j ≠ k) :
    tget d (tset d t k v) j = tget d t j := by
  induction t with
  | nil => simp [tset, tget, hv, hj]
  | cons e r ih =>
    obtain ⟨k', v'⟩ := e
    by_cases h1 : k < k'
    · by_cases h3 : j < k
      · simp [tset, tget, h1, hv, h3, show j < k' by omega]
      · simp [tset, tget, h1, hv, h3, hj]
    · by_cases h2 : k = k'
      · subst h2
        by_cases h3 : j < k <;> simp [tset, tget, hv, h3, hj]
      · by_cases h3 : j < k'
        · simp [tset, tget, h1, h2, h3]
        · by_cases h4 : j = k'
          · simp [tset, tget, h1, h2, h4]
          · simp [tset, tget, h1, h2, h3, h4, ih]

/-- The engine reads back its running instance. -/
@[simp] theorem engOf_setInst (s : State) (e : Nat) (i : Inst) :
    engOf (setInst s e i) e = { engOf s e with run := some i } :=
  tget_tset_set Engine.idle s.engines e { engOf s e with run := some i } (by intro h; cases congrArg Engine.run h)

/-- Another engine is as before. -/
theorem engOf_setInst_other (s : State) (e k : Nat) (i : Inst) (h : k ≠ e) : engOf (setInst s e i) k = engOf s k :=
  tget_tset_other Engine.idle s.engines e k { engOf s e with run := some i } (by intro h; cases congrArg Engine.run h) h

/-! ### Accessors over updates of other fields -/

@[simp] theorem ctxOf_setInst (s : State) (e c : Nat) (i : Inst) : ctxOf (setInst s e i) c = ctxOf s c := rfl
@[simp] theorem moduleOf_setInst (s : State) (e c : Nat) (i : Inst) : moduleOf (setInst s e i) c = moduleOf s c := rfl
@[simp] theorem engOf_setCtx (s : State) (c e : Nat) (x : Ctx) : engOf (setCtx s c x) e = engOf s e := rfl
@[simp] theorem engOf_modCtx (s : State) (c e : Nat) (f : Ctx → Ctx) : engOf (modCtx s c f) e = engOf s e := rfl
@[simp] theorem ctxOf_setSem (s : State) (k c : Nat) (x : Sem) : ctxOf (setSem s k x) c = ctxOf s c := rfl
@[simp] theorem engOf_setSem (s : State) (k e : Nat) (x : Sem) : engOf (setSem s k x) e = engOf s e := rfl

/-! ### Reset -/

/-- Every store of the part at reset is in its canonical form. -/
theorem reset_memory_wf : Memory.wf State.reset.glint.active = true ∧ Memory.wf State.reset.glint.window = true ∧
    Memory.wf State.reset.island.ring = true ∧ Memory.wf State.reset.sec.nvs = true ∧ Memory.wf State.reset.sec.flash = true ∧
    ∀ c, Memory.wf (ctxOf State.reset c).stores.xs = true ∧ Memory.wf (ctxOf State.reset c).stores.ds = true ∧
      Memory.wf (ctxOf State.reset c).stores.es = true ∧ Memory.wf (ctxOf State.reset c).stores.cs = true :=
  ⟨rfl, rfl, rfl, rfl, rfl, fun _ => ⟨rfl, rfl, rfl, rfl⟩⟩

/-! ### Stores under the word code -/

/-- A store write keeps both canonical forms. -/
theorem wrStore_wf (m : Memory) (up : Table (BitVec 144)) (a : Nat) (b : Byte) (h : Memory.wf m = true) (hu : tableWf 0 up = true) :
    Memory.wf (wrStore m up a b).1 = true ∧ tableWf 0 (wrStore m up a b).2 = true := by
  unfold wrStore; dsimp only
  split
  · exact ⟨Memory.wf_wr m a b h, hu⟩
  · exact ⟨Memory.wf_wr _ a b (Memory.wf_wrBytes m _ _ h), tableWf_tset 0 up _ 0 hu⟩

/-! ### One lemma per field per update -/

@[simp] theorem setCtx_now (s : State) (c : Nat) (x : Ctx) : (setCtx s c x).now = s.now := (rfl)
@[simp] theorem setCtx_freeCount (s : State) (c : Nat) (x : Ctx) : (setCtx s c x).freeCount = s.freeCount := (rfl)
@[simp] theorem setCtx_facet (s : State) (c : Nat) (x : Ctx) : (setCtx s c x).facet = s.facet := (rfl)
@[simp] theorem setCtx_lix (s : State) (c : Nat) (x : Ctx) : (setCtx s c x).lix = s.lix := (rfl)
@[simp] theorem setCtx_clk (s : State) (c : Nat) (x : Ctx) : (setCtx s c x).clk = s.clk := (rfl)
@[simp] theorem setCtx_glint (s : State) (c : Nat) (x : Ctx) : (setCtx s c x).glint = s.glint := (rfl)
@[simp] theorem setCtx_engines (s : State) (c : Nat) (x : Ctx) : (setCtx s c x).engines = s.engines := (rfl)
@[simp] theorem setCtx_ready (s : State) (c : Nat) (x : Ctx) : (setCtx s c x).ready = s.ready := (rfl)
@[simp] theorem setCtx_ledgers (s : State) (c : Nat) (x : Ctx) : (setCtx s c x).ledgers = s.ledgers := (rfl)
@[simp] theorem setCtx_mem (s : State) (c : Nat) (x : Ctx) : (setCtx s c x).mem = s.mem := (rfl)
@[simp] theorem setCtx_media (s : State) (c : Nat) (x : Ctx) : (setCtx s c x).media = s.media := (rfl)
@[simp] theorem setCtx_island (s : State) (c : Nat) (x : Ctx) : (setCtx s c x).island = s.island := (rfl)
@[simp] theorem setCtx_iris (s : State) (c : Nat) (x : Ctx) : (setCtx s c x).iris = s.iris := (rfl)
@[simp] theorem setCtx_relay (s : State) (c : Nat) (x : Ctx) : (setCtx s c x).relay = s.relay := (rfl)
@[simp] theorem setCtx_sec (s : State) (c : Nat) (x : Ctx) : (setCtx s c x).sec = s.sec := (rfl)
@[simp] theorem setCtx_digest (s : State) (c : Nat) (x : Ctx) : (setCtx s c x).digest = s.digest := (rfl)
@[simp] theorem setCtx_control (s : State) (c : Nat) (x : Ctx) : (setCtx s c x).control = s.control := (rfl)
@[simp] theorem setCtx_sys (s : State) (c : Nat) (x : Ctx) : (setCtx s c x).sys = s.sys := (rfl)
@[simp] theorem setCtx_pending (s : State) (c : Nat) (x : Ctx) : (setCtx s c x).pending = s.pending := (rfl)

@[simp] theorem modCtx_now (s : State) (c : Nat) (f : Ctx → Ctx) : (modCtx s c f).now = s.now := (rfl)
@[simp] theorem modCtx_freeCount (s : State) (c : Nat) (f : Ctx → Ctx) : (modCtx s c f).freeCount = s.freeCount := (rfl)
@[simp] theorem modCtx_facet (s : State) (c : Nat) (f : Ctx → Ctx) : (modCtx s c f).facet = s.facet := (rfl)
@[simp] theorem modCtx_lix (s : State) (c : Nat) (f : Ctx → Ctx) : (modCtx s c f).lix = s.lix := (rfl)
@[simp] theorem modCtx_clk (s : State) (c : Nat) (f : Ctx → Ctx) : (modCtx s c f).clk = s.clk := (rfl)
@[simp] theorem modCtx_glint (s : State) (c : Nat) (f : Ctx → Ctx) : (modCtx s c f).glint = s.glint := (rfl)
@[simp] theorem modCtx_engines (s : State) (c : Nat) (f : Ctx → Ctx) : (modCtx s c f).engines = s.engines := (rfl)
@[simp] theorem modCtx_ready (s : State) (c : Nat) (f : Ctx → Ctx) : (modCtx s c f).ready = s.ready := (rfl)
@[simp] theorem modCtx_ledgers (s : State) (c : Nat) (f : Ctx → Ctx) : (modCtx s c f).ledgers = s.ledgers := (rfl)
@[simp] theorem modCtx_mem (s : State) (c : Nat) (f : Ctx → Ctx) : (modCtx s c f).mem = s.mem := (rfl)
@[simp] theorem modCtx_media (s : State) (c : Nat) (f : Ctx → Ctx) : (modCtx s c f).media = s.media := (rfl)
@[simp] theorem modCtx_island (s : State) (c : Nat) (f : Ctx → Ctx) : (modCtx s c f).island = s.island := (rfl)
@[simp] theorem modCtx_iris (s : State) (c : Nat) (f : Ctx → Ctx) : (modCtx s c f).iris = s.iris := (rfl)
@[simp] theorem modCtx_relay (s : State) (c : Nat) (f : Ctx → Ctx) : (modCtx s c f).relay = s.relay := (rfl)
@[simp] theorem modCtx_sec (s : State) (c : Nat) (f : Ctx → Ctx) : (modCtx s c f).sec = s.sec := (rfl)
@[simp] theorem modCtx_digest (s : State) (c : Nat) (f : Ctx → Ctx) : (modCtx s c f).digest = s.digest := (rfl)
@[simp] theorem modCtx_control (s : State) (c : Nat) (f : Ctx → Ctx) : (modCtx s c f).control = s.control := (rfl)
@[simp] theorem modCtx_sys (s : State) (c : Nat) (f : Ctx → Ctx) : (modCtx s c f).sys = s.sys := (rfl)
@[simp] theorem modCtx_pending (s : State) (c : Nat) (f : Ctx → Ctx) : (modCtx s c f).pending = s.pending := (rfl)

@[simp] theorem setEng_now (s : State) (e : Nat) (x : Engine) : (setEng s e x).now = s.now := (rfl)
@[simp] theorem setEng_freeCount (s : State) (e : Nat) (x : Engine) : (setEng s e x).freeCount = s.freeCount := (rfl)
@[simp] theorem setEng_facet (s : State) (e : Nat) (x : Engine) : (setEng s e x).facet = s.facet := (rfl)
@[simp] theorem setEng_lix (s : State) (e : Nat) (x : Engine) : (setEng s e x).lix = s.lix := (rfl)
@[simp] theorem setEng_clk (s : State) (e : Nat) (x : Engine) : (setEng s e x).clk = s.clk := (rfl)
@[simp] theorem setEng_glint (s : State) (e : Nat) (x : Engine) : (setEng s e x).glint = s.glint := (rfl)
@[simp] theorem setEng_ctxs (s : State) (e : Nat) (x : Engine) : (setEng s e x).ctxs = s.ctxs := (rfl)
@[simp] theorem setEng_ready (s : State) (e : Nat) (x : Engine) : (setEng s e x).ready = s.ready := (rfl)
@[simp] theorem setEng_ledgers (s : State) (e : Nat) (x : Engine) : (setEng s e x).ledgers = s.ledgers := (rfl)
@[simp] theorem setEng_mem (s : State) (e : Nat) (x : Engine) : (setEng s e x).mem = s.mem := (rfl)
@[simp] theorem setEng_media (s : State) (e : Nat) (x : Engine) : (setEng s e x).media = s.media := (rfl)
@[simp] theorem setEng_island (s : State) (e : Nat) (x : Engine) : (setEng s e x).island = s.island := (rfl)
@[simp] theorem setEng_iris (s : State) (e : Nat) (x : Engine) : (setEng s e x).iris = s.iris := (rfl)
@[simp] theorem setEng_relay (s : State) (e : Nat) (x : Engine) : (setEng s e x).relay = s.relay := (rfl)
@[simp] theorem setEng_sec (s : State) (e : Nat) (x : Engine) : (setEng s e x).sec = s.sec := (rfl)
@[simp] theorem setEng_digest (s : State) (e : Nat) (x : Engine) : (setEng s e x).digest = s.digest := (rfl)
@[simp] theorem setEng_control (s : State) (e : Nat) (x : Engine) : (setEng s e x).control = s.control := (rfl)
@[simp] theorem setEng_sys (s : State) (e : Nat) (x : Engine) : (setEng s e x).sys = s.sys := (rfl)
@[simp] theorem setEng_pending (s : State) (e : Nat) (x : Engine) : (setEng s e x).pending = s.pending := (rfl)

@[simp] theorem modEng_now (s : State) (e : Nat) (f : Engine → Engine) : (modEng s e f).now = s.now := (rfl)
@[simp] theorem modEng_freeCount (s : State) (e : Nat) (f : Engine → Engine) : (modEng s e f).freeCount = s.freeCount := (rfl)
@[simp] theorem modEng_facet (s : State) (e : Nat) (f : Engine → Engine) : (modEng s e f).facet = s.facet := (rfl)
@[simp] theorem modEng_lix (s : State) (e : Nat) (f : Engine → Engine) : (modEng s e f).lix = s.lix := (rfl)
@[simp] theorem modEng_clk (s : State) (e : Nat) (f : Engine → Engine) : (modEng s e f).clk = s.clk := (rfl)
@[simp] theorem modEng_glint (s : State) (e : Nat) (f : Engine → Engine) : (modEng s e f).glint = s.glint := (rfl)
@[simp] theorem modEng_ctxs (s : State) (e : Nat) (f : Engine → Engine) : (modEng s e f).ctxs = s.ctxs := (rfl)
@[simp] theorem modEng_ready (s : State) (e : Nat) (f : Engine → Engine) : (modEng s e f).ready = s.ready := (rfl)
@[simp] theorem modEng_ledgers (s : State) (e : Nat) (f : Engine → Engine) : (modEng s e f).ledgers = s.ledgers := (rfl)
@[simp] theorem modEng_mem (s : State) (e : Nat) (f : Engine → Engine) : (modEng s e f).mem = s.mem := (rfl)
@[simp] theorem modEng_media (s : State) (e : Nat) (f : Engine → Engine) : (modEng s e f).media = s.media := (rfl)
@[simp] theorem modEng_island (s : State) (e : Nat) (f : Engine → Engine) : (modEng s e f).island = s.island := (rfl)
@[simp] theorem modEng_iris (s : State) (e : Nat) (f : Engine → Engine) : (modEng s e f).iris = s.iris := (rfl)
@[simp] theorem modEng_relay (s : State) (e : Nat) (f : Engine → Engine) : (modEng s e f).relay = s.relay := (rfl)
@[simp] theorem modEng_sec (s : State) (e : Nat) (f : Engine → Engine) : (modEng s e f).sec = s.sec := (rfl)
@[simp] theorem modEng_digest (s : State) (e : Nat) (f : Engine → Engine) : (modEng s e f).digest = s.digest := (rfl)
@[simp] theorem modEng_control (s : State) (e : Nat) (f : Engine → Engine) : (modEng s e f).control = s.control := (rfl)
@[simp] theorem modEng_sys (s : State) (e : Nat) (f : Engine → Engine) : (modEng s e f).sys = s.sys := (rfl)
@[simp] theorem modEng_pending (s : State) (e : Nat) (f : Engine → Engine) : (modEng s e f).pending = s.pending := (rfl)

@[simp] theorem setInst_now (s : State) (e : Nat) (i : Inst) : (setInst s e i).now = s.now := (rfl)
@[simp] theorem setInst_freeCount (s : State) (e : Nat) (i : Inst) : (setInst s e i).freeCount = s.freeCount := (rfl)
@[simp] theorem setInst_facet (s : State) (e : Nat) (i : Inst) : (setInst s e i).facet = s.facet := (rfl)
@[simp] theorem setInst_lix (s : State) (e : Nat) (i : Inst) : (setInst s e i).lix = s.lix := (rfl)
@[simp] theorem setInst_clk (s : State) (e : Nat) (i : Inst) : (setInst s e i).clk = s.clk := (rfl)
@[simp] theorem setInst_glint (s : State) (e : Nat) (i : Inst) : (setInst s e i).glint = s.glint := (rfl)
@[simp] theorem setInst_ctxs (s : State) (e : Nat) (i : Inst) : (setInst s e i).ctxs = s.ctxs := (rfl)
@[simp] theorem setInst_ready (s : State) (e : Nat) (i : Inst) : (setInst s e i).ready = s.ready := (rfl)
@[simp] theorem setInst_ledgers (s : State) (e : Nat) (i : Inst) : (setInst s e i).ledgers = s.ledgers := (rfl)
@[simp] theorem setInst_mem (s : State) (e : Nat) (i : Inst) : (setInst s e i).mem = s.mem := (rfl)
@[simp] theorem setInst_media (s : State) (e : Nat) (i : Inst) : (setInst s e i).media = s.media := (rfl)
@[simp] theorem setInst_island (s : State) (e : Nat) (i : Inst) : (setInst s e i).island = s.island := (rfl)
@[simp] theorem setInst_iris (s : State) (e : Nat) (i : Inst) : (setInst s e i).iris = s.iris := (rfl)
@[simp] theorem setInst_relay (s : State) (e : Nat) (i : Inst) : (setInst s e i).relay = s.relay := (rfl)
@[simp] theorem setInst_sec (s : State) (e : Nat) (i : Inst) : (setInst s e i).sec = s.sec := (rfl)
@[simp] theorem setInst_digest (s : State) (e : Nat) (i : Inst) : (setInst s e i).digest = s.digest := (rfl)
@[simp] theorem setInst_control (s : State) (e : Nat) (i : Inst) : (setInst s e i).control = s.control := (rfl)
@[simp] theorem setInst_sys (s : State) (e : Nat) (i : Inst) : (setInst s e i).sys = s.sys := (rfl)
@[simp] theorem setInst_pending (s : State) (e : Nat) (i : Inst) : (setInst s e i).pending = s.pending := (rfl)

@[simp] theorem setCore_now (s : State) (k : Nat) (x : Core) : (setCore s k x).now = s.now := (rfl)
@[simp] theorem setCore_freeCount (s : State) (k : Nat) (x : Core) : (setCore s k x).freeCount = s.freeCount := (rfl)
@[simp] theorem setCore_facet (s : State) (k : Nat) (x : Core) : (setCore s k x).facet = s.facet := (rfl)
@[simp] theorem setCore_lix (s : State) (k : Nat) (x : Core) : (setCore s k x).lix = s.lix := (rfl)
@[simp] theorem setCore_clk (s : State) (k : Nat) (x : Core) : (setCore s k x).clk = s.clk := (rfl)
@[simp] theorem setCore_glint (s : State) (k : Nat) (x : Core) : (setCore s k x).glint = s.glint := (rfl)
@[simp] theorem setCore_ctxs (s : State) (k : Nat) (x : Core) : (setCore s k x).ctxs = s.ctxs := (rfl)
@[simp] theorem setCore_engines (s : State) (k : Nat) (x : Core) : (setCore s k x).engines = s.engines := (rfl)
@[simp] theorem setCore_ready (s : State) (k : Nat) (x : Core) : (setCore s k x).ready = s.ready := (rfl)
@[simp] theorem setCore_ledgers (s : State) (k : Nat) (x : Core) : (setCore s k x).ledgers = s.ledgers := (rfl)
@[simp] theorem setCore_mem (s : State) (k : Nat) (x : Core) : (setCore s k x).mem = s.mem := (rfl)
@[simp] theorem setCore_media (s : State) (k : Nat) (x : Core) : (setCore s k x).media = s.media := (rfl)
@[simp] theorem setCore_island (s : State) (k : Nat) (x : Core) : (setCore s k x).island = s.island := (rfl)
@[simp] theorem setCore_iris (s : State) (k : Nat) (x : Core) : (setCore s k x).iris = s.iris := (rfl)
@[simp] theorem setCore_relay (s : State) (k : Nat) (x : Core) : (setCore s k x).relay = s.relay := (rfl)
@[simp] theorem setCore_sec (s : State) (k : Nat) (x : Core) : (setCore s k x).sec = s.sec := (rfl)
@[simp] theorem setCore_digest (s : State) (k : Nat) (x : Core) : (setCore s k x).digest = s.digest := (rfl)
@[simp] theorem setCore_control (s : State) (k : Nat) (x : Core) : (setCore s k x).control = s.control := (rfl)
@[simp] theorem setCore_pending (s : State) (k : Nat) (x : Core) : (setCore s k x).pending = s.pending := (rfl)

@[simp] theorem setPort_now (s : State) (p : Nat) (x : Port) : (setPort s p x).now = s.now := (rfl)
@[simp] theorem setPort_freeCount (s : State) (p : Nat) (x : Port) : (setPort s p x).freeCount = s.freeCount := (rfl)
@[simp] theorem setPort_facet (s : State) (p : Nat) (x : Port) : (setPort s p x).facet = s.facet := (rfl)
@[simp] theorem setPort_lix (s : State) (p : Nat) (x : Port) : (setPort s p x).lix = s.lix := (rfl)
@[simp] theorem setPort_clk (s : State) (p : Nat) (x : Port) : (setPort s p x).clk = s.clk := (rfl)
@[simp] theorem setPort_glint (s : State) (p : Nat) (x : Port) : (setPort s p x).glint = s.glint := (rfl)
@[simp] theorem setPort_ctxs (s : State) (p : Nat) (x : Port) : (setPort s p x).ctxs = s.ctxs := (rfl)
@[simp] theorem setPort_engines (s : State) (p : Nat) (x : Port) : (setPort s p x).engines = s.engines := (rfl)
@[simp] theorem setPort_ready (s : State) (p : Nat) (x : Port) : (setPort s p x).ready = s.ready := (rfl)
@[simp] theorem setPort_ledgers (s : State) (p : Nat) (x : Port) : (setPort s p x).ledgers = s.ledgers := (rfl)
@[simp] theorem setPort_mem (s : State) (p : Nat) (x : Port) : (setPort s p x).mem = s.mem := (rfl)
@[simp] theorem setPort_island (s : State) (p : Nat) (x : Port) : (setPort s p x).island = s.island := (rfl)
@[simp] theorem setPort_iris (s : State) (p : Nat) (x : Port) : (setPort s p x).iris = s.iris := (rfl)
@[simp] theorem setPort_relay (s : State) (p : Nat) (x : Port) : (setPort s p x).relay = s.relay := (rfl)
@[simp] theorem setPort_sec (s : State) (p : Nat) (x : Port) : (setPort s p x).sec = s.sec := (rfl)
@[simp] theorem setPort_digest (s : State) (p : Nat) (x : Port) : (setPort s p x).digest = s.digest := (rfl)
@[simp] theorem setPort_control (s : State) (p : Nat) (x : Port) : (setPort s p x).control = s.control := (rfl)
@[simp] theorem setPort_sys (s : State) (p : Nat) (x : Port) : (setPort s p x).sys = s.sys := (rfl)
@[simp] theorem setPort_pending (s : State) (p : Nat) (x : Port) : (setPort s p x).pending = s.pending := (rfl)

@[simp] theorem setCci_now (s : State) (n : Nat) (x : Cci) : (setCci s n x).now = s.now := (rfl)
@[simp] theorem setCci_freeCount (s : State) (n : Nat) (x : Cci) : (setCci s n x).freeCount = s.freeCount := (rfl)
@[simp] theorem setCci_facet (s : State) (n : Nat) (x : Cci) : (setCci s n x).facet = s.facet := (rfl)
@[simp] theorem setCci_lix (s : State) (n : Nat) (x : Cci) : (setCci s n x).lix = s.lix := (rfl)
@[simp] theorem setCci_clk (s : State) (n : Nat) (x : Cci) : (setCci s n x).clk = s.clk := (rfl)
@[simp] theorem setCci_glint (s : State) (n : Nat) (x : Cci) : (setCci s n x).glint = s.glint := (rfl)
@[simp] theorem setCci_ctxs (s : State) (n : Nat) (x : Cci) : (setCci s n x).ctxs = s.ctxs := (rfl)
@[simp] theorem setCci_engines (s : State) (n : Nat) (x : Cci) : (setCci s n x).engines = s.engines := (rfl)
@[simp] theorem setCci_ready (s : State) (n : Nat) (x : Cci) : (setCci s n x).ready = s.ready := (rfl)
@[simp] theorem setCci_ledgers (s : State) (n : Nat) (x : Cci) : (setCci s n x).ledgers = s.ledgers := (rfl)
@[simp] theorem setCci_mem (s : State) (n : Nat) (x : Cci) : (setCci s n x).mem = s.mem := (rfl)
@[simp] theorem setCci_island (s : State) (n : Nat) (x : Cci) : (setCci s n x).island = s.island := (rfl)
@[simp] theorem setCci_iris (s : State) (n : Nat) (x : Cci) : (setCci s n x).iris = s.iris := (rfl)
@[simp] theorem setCci_relay (s : State) (n : Nat) (x : Cci) : (setCci s n x).relay = s.relay := (rfl)
@[simp] theorem setCci_sec (s : State) (n : Nat) (x : Cci) : (setCci s n x).sec = s.sec := (rfl)
@[simp] theorem setCci_digest (s : State) (n : Nat) (x : Cci) : (setCci s n x).digest = s.digest := (rfl)
@[simp] theorem setCci_control (s : State) (n : Nat) (x : Cci) : (setCci s n x).control = s.control := (rfl)
@[simp] theorem setCci_sys (s : State) (n : Nat) (x : Cci) : (setCci s n x).sys = s.sys := (rfl)
@[simp] theorem setCci_pending (s : State) (n : Nat) (x : Cci) : (setCci s n x).pending = s.pending := (rfl)

@[simp] theorem setSem_now (s : State) (k : Nat) (x : Sem) : (setSem s k x).now = s.now := (rfl)
@[simp] theorem setSem_freeCount (s : State) (k : Nat) (x : Sem) : (setSem s k x).freeCount = s.freeCount := (rfl)
@[simp] theorem setSem_facet (s : State) (k : Nat) (x : Sem) : (setSem s k x).facet = s.facet := (rfl)
@[simp] theorem setSem_lix (s : State) (k : Nat) (x : Sem) : (setSem s k x).lix = s.lix := (rfl)
@[simp] theorem setSem_clk (s : State) (k : Nat) (x : Sem) : (setSem s k x).clk = s.clk := (rfl)
@[simp] theorem setSem_glint (s : State) (k : Nat) (x : Sem) : (setSem s k x).glint = s.glint := (rfl)
@[simp] theorem setSem_ctxs (s : State) (k : Nat) (x : Sem) : (setSem s k x).ctxs = s.ctxs := (rfl)
@[simp] theorem setSem_engines (s : State) (k : Nat) (x : Sem) : (setSem s k x).engines = s.engines := (rfl)
@[simp] theorem setSem_ready (s : State) (k : Nat) (x : Sem) : (setSem s k x).ready = s.ready := (rfl)
@[simp] theorem setSem_mem (s : State) (k : Nat) (x : Sem) : (setSem s k x).mem = s.mem := (rfl)
@[simp] theorem setSem_media (s : State) (k : Nat) (x : Sem) : (setSem s k x).media = s.media := (rfl)
@[simp] theorem setSem_island (s : State) (k : Nat) (x : Sem) : (setSem s k x).island = s.island := (rfl)
@[simp] theorem setSem_iris (s : State) (k : Nat) (x : Sem) : (setSem s k x).iris = s.iris := (rfl)
@[simp] theorem setSem_relay (s : State) (k : Nat) (x : Sem) : (setSem s k x).relay = s.relay := (rfl)
@[simp] theorem setSem_sec (s : State) (k : Nat) (x : Sem) : (setSem s k x).sec = s.sec := (rfl)
@[simp] theorem setSem_digest (s : State) (k : Nat) (x : Sem) : (setSem s k x).digest = s.digest := (rfl)
@[simp] theorem setSem_control (s : State) (k : Nat) (x : Sem) : (setSem s k x).control = s.control := (rfl)
@[simp] theorem setSem_sys (s : State) (k : Nat) (x : Sem) : (setSem s k x).sys = s.sys := (rfl)
@[simp] theorem setSem_pending (s : State) (k : Nat) (x : Sem) : (setSem s k x).pending = s.pending := (rfl)

@[simp] theorem setRelayPort_now (s : State) (n : Nat) (x : RelayPort) : (setRelayPort s n x).now = s.now := (rfl)
@[simp] theorem setRelayPort_freeCount (s : State) (n : Nat) (x : RelayPort) : (setRelayPort s n x).freeCount = s.freeCount := (rfl)
@[simp] theorem setRelayPort_facet (s : State) (n : Nat) (x : RelayPort) : (setRelayPort s n x).facet = s.facet := (rfl)
@[simp] theorem setRelayPort_lix (s : State) (n : Nat) (x : RelayPort) : (setRelayPort s n x).lix = s.lix := (rfl)
@[simp] theorem setRelayPort_clk (s : State) (n : Nat) (x : RelayPort) : (setRelayPort s n x).clk = s.clk := (rfl)
@[simp] theorem setRelayPort_glint (s : State) (n : Nat) (x : RelayPort) : (setRelayPort s n x).glint = s.glint := (rfl)
@[simp] theorem setRelayPort_ctxs (s : State) (n : Nat) (x : RelayPort) : (setRelayPort s n x).ctxs = s.ctxs := (rfl)
@[simp] theorem setRelayPort_engines (s : State) (n : Nat) (x : RelayPort) : (setRelayPort s n x).engines = s.engines := (rfl)
@[simp] theorem setRelayPort_ready (s : State) (n : Nat) (x : RelayPort) : (setRelayPort s n x).ready = s.ready := (rfl)
@[simp] theorem setRelayPort_ledgers (s : State) (n : Nat) (x : RelayPort) : (setRelayPort s n x).ledgers = s.ledgers := (rfl)
@[simp] theorem setRelayPort_mem (s : State) (n : Nat) (x : RelayPort) : (setRelayPort s n x).mem = s.mem := (rfl)
@[simp] theorem setRelayPort_media (s : State) (n : Nat) (x : RelayPort) : (setRelayPort s n x).media = s.media := (rfl)
@[simp] theorem setRelayPort_island (s : State) (n : Nat) (x : RelayPort) : (setRelayPort s n x).island = s.island := (rfl)
@[simp] theorem setRelayPort_iris (s : State) (n : Nat) (x : RelayPort) : (setRelayPort s n x).iris = s.iris := (rfl)
@[simp] theorem setRelayPort_sec (s : State) (n : Nat) (x : RelayPort) : (setRelayPort s n x).sec = s.sec := (rfl)
@[simp] theorem setRelayPort_digest (s : State) (n : Nat) (x : RelayPort) : (setRelayPort s n x).digest = s.digest := (rfl)
@[simp] theorem setRelayPort_control (s : State) (n : Nat) (x : RelayPort) : (setRelayPort s n x).control = s.control := (rfl)
@[simp] theorem setRelayPort_sys (s : State) (n : Nat) (x : RelayPort) : (setRelayPort s n x).sys = s.sys := (rfl)
@[simp] theorem setRelayPort_pending (s : State) (n : Nat) (x : RelayPort) : (setRelayPort s n x).pending = s.pending := (rfl)

@[simp] theorem setNetPort_now (s : State) (p : Nat) (x : NetPort) : (setNetPort s p x).now = s.now := (rfl)
@[simp] theorem setNetPort_freeCount (s : State) (p : Nat) (x : NetPort) : (setNetPort s p x).freeCount = s.freeCount := (rfl)
@[simp] theorem setNetPort_facet (s : State) (p : Nat) (x : NetPort) : (setNetPort s p x).facet = s.facet := (rfl)
@[simp] theorem setNetPort_lix (s : State) (p : Nat) (x : NetPort) : (setNetPort s p x).lix = s.lix := (rfl)
@[simp] theorem setNetPort_clk (s : State) (p : Nat) (x : NetPort) : (setNetPort s p x).clk = s.clk := (rfl)
@[simp] theorem setNetPort_glint (s : State) (p : Nat) (x : NetPort) : (setNetPort s p x).glint = s.glint := (rfl)
@[simp] theorem setNetPort_ctxs (s : State) (p : Nat) (x : NetPort) : (setNetPort s p x).ctxs = s.ctxs := (rfl)
@[simp] theorem setNetPort_engines (s : State) (p : Nat) (x : NetPort) : (setNetPort s p x).engines = s.engines := (rfl)
@[simp] theorem setNetPort_ready (s : State) (p : Nat) (x : NetPort) : (setNetPort s p x).ready = s.ready := (rfl)
@[simp] theorem setNetPort_ledgers (s : State) (p : Nat) (x : NetPort) : (setNetPort s p x).ledgers = s.ledgers := (rfl)
@[simp] theorem setNetPort_mem (s : State) (p : Nat) (x : NetPort) : (setNetPort s p x).mem = s.mem := (rfl)
@[simp] theorem setNetPort_media (s : State) (p : Nat) (x : NetPort) : (setNetPort s p x).media = s.media := (rfl)
@[simp] theorem setNetPort_island (s : State) (p : Nat) (x : NetPort) : (setNetPort s p x).island = s.island := (rfl)
@[simp] theorem setNetPort_iris (s : State) (p : Nat) (x : NetPort) : (setNetPort s p x).iris = s.iris := (rfl)
@[simp] theorem setNetPort_relay (s : State) (p : Nat) (x : NetPort) : (setNetPort s p x).relay = s.relay := (rfl)
@[simp] theorem setNetPort_sec (s : State) (p : Nat) (x : NetPort) : (setNetPort s p x).sec = s.sec := (rfl)
@[simp] theorem setNetPort_digest (s : State) (p : Nat) (x : NetPort) : (setNetPort s p x).digest = s.digest := (rfl)
@[simp] theorem setNetPort_sys (s : State) (p : Nat) (x : NetPort) : (setNetPort s p x).sys = s.sys := (rfl)
@[simp] theorem setNetPort_pending (s : State) (p : Nat) (x : NetPort) : (setNetPort s p x).pending = s.pending := (rfl)

/-! ### Time -/

@[simp] theorem advanceTo_now (s : State) (edge : Nat) : (advanceTo s edge).now = max s.now edge := by
  simp only [advanceTo]; omega
@[simp] theorem advanceTo_freeCount (s : State) (edge : Nat) : (advanceTo s edge).freeCount = s.freeCount := (rfl)
@[simp] theorem advanceTo_facet (s : State) (edge : Nat) : (advanceTo s edge).facet = s.facet := (rfl)
@[simp] theorem advanceTo_clk (s : State) (edge : Nat) : (advanceTo s edge).clk = s.clk := (rfl)
@[simp] theorem advanceTo_glint (s : State) (edge : Nat) : (advanceTo s edge).glint = s.glint := (rfl)
@[simp] theorem advanceTo_ctxs (s : State) (edge : Nat) : (advanceTo s edge).ctxs = s.ctxs := (rfl)
@[simp] theorem advanceTo_engines (s : State) (edge : Nat) : (advanceTo s edge).engines = s.engines := (rfl)
@[simp] theorem advanceTo_ready (s : State) (edge : Nat) : (advanceTo s edge).ready = s.ready := (rfl)
@[simp] theorem advanceTo_ledgers (s : State) (edge : Nat) : (advanceTo s edge).ledgers = s.ledgers := (rfl)
@[simp] theorem advanceTo_mem (s : State) (edge : Nat) : (advanceTo s edge).mem = s.mem := (rfl)
@[simp] theorem advanceTo_media (s : State) (edge : Nat) : (advanceTo s edge).media = s.media := (rfl)
@[simp] theorem advanceTo_island (s : State) (edge : Nat) : (advanceTo s edge).island = s.island := (rfl)
@[simp] theorem advanceTo_iris (s : State) (edge : Nat) : (advanceTo s edge).iris = s.iris := (rfl)
@[simp] theorem advanceTo_relay (s : State) (edge : Nat) : (advanceTo s edge).relay = s.relay := (rfl)
@[simp] theorem advanceTo_sec (s : State) (edge : Nat) : (advanceTo s edge).sec = s.sec := (rfl)
@[simp] theorem advanceTo_digest (s : State) (edge : Nat) : (advanceTo s edge).digest = s.digest := (rfl)
@[simp] theorem advanceTo_control (s : State) (edge : Nat) : (advanceTo s edge).control = s.control := (rfl)
@[simp] theorem advanceTo_sys (s : State) (edge : Nat) : (advanceTo s edge).sys = s.sys := (rfl)
@[simp] theorem advanceTo_pending (s : State) (edge : Nat) : (advanceTo s edge).pending = s.pending := (rfl)
@[simp] theorem advanceTo_count (s : State) (edge : Nat) : (advanceTo s edge).lix.count = s.lix.count := (rfl)
@[simp] theorem advanceTo_engOf (s : State) (edge e : Nat) : engOf (advanceTo s edge) e = engOf s e := (rfl)
@[simp] theorem advanceTo_ctxOf (s : State) (edge c : Nat) : ctxOf (advanceTo s edge) c = ctxOf s c := (rfl)

end Sys2Proof.Machine
end

