-- ==== Sys2Proof/Laws/Kept.lean ====
section
/-! SUPPORT. What every operation leaves alone: the queue of commands, and the governor's level and target. -/

namespace Sys2Proof.Machine

open Sys2Proof

/-- A fold keeps what each of its steps keeps. -/
theorem fold_keep {α β γ : Type} (π : α → γ) (g : α → β → α) (h : ∀ t x, π (g t x) = π t) (l : List β) (s : α) :
    π (l.foldl g s) = π s := by
  induction l generalizing s with
  | nil => rfl
  | cons a l ih => simp [ih, h]

theorem foldl_keep {β γ : Type} (π : State → γ) (g : State → β → State) (h : ∀ t x, π (g t x) = π t) (l : List β) (s : State) :
    π (l.foldl g s) = π s := fold_keep π g h l s

@[simp] theorem foldl_pending {β : Type} (g : State → β → State) (l : List β) (s : State) (h : ∀ t x, (g t x).pending = t.pending) :
    (l.foldl g s).pending = s.pending := foldl_keep (·.pending) g h l s

@[simp] theorem ite_pending (c : Prop) [Decidable c] (a b : State) :
    (if c then a else b).pending = if c then a.pending else b.pending := apply_ite (·.pending) c a b

@[simp] theorem foldl_iris {β : Type} (g : State → β → State) (l : List β) (s : State) (h : ∀ t x, (g t x).iris = t.iris) :
    (l.foldl g s).iris = s.iris := foldl_keep (·.iris) g h l s

@[simp] theorem ite_iris (c : Prop) [Decidable c] (a b : State) :
    (if c then a else b).iris = if c then a.iris else b.iris := apply_ite (·.iris) c a b

@[simp] theorem foldl_stop {β : Type} (g : State → β → State) (l : List β) (s : State) (h : ∀ t x, (g t x).iris.stop = t.iris.stop) :
    (l.foldl g s).iris.stop = s.iris.stop := foldl_keep (·.iris.stop) g h l s

@[simp] theorem foldl_target {β : Type} (g : State → β → State) (l : List β) (s : State) (h : ∀ t x, (g t x).iris.target = t.iris.target) :
    (l.foldl g s).iris.target = s.iris.target := foldl_keep (·.iris.target) g h l s

/-! ### Ops -/

@[simp] theorem freshWord_kept (s : State) :
    (freshWord s).2.pending = s.pending ∧
    (freshWord s).2.iris = s.iris := by
  unfold freshWord
  try dsimp only
  all_goals simp

@[simp] theorem sendFrame_kept (s : State) (i : Iface) (frame : List Byte) :
    (sendFrame s i frame).pending = s.pending ∧
    (sendFrame s i frame).iris = s.iris := by
  unfold sendFrame
  try dsimp only
  repeat' split
  all_goals simp

@[simp] theorem ringEvent_kept (s : State) (status slot addr : Nat) (detail : List Byte) :
    (ringEvent s status slot addr detail).pending = s.pending ∧
    (ringEvent s status slot addr detail).iris = s.iris := by
  unfold ringEvent
  try dsimp only
  all_goals simp

@[simp] theorem postEvent_kept (s : State) (status slot addr : Nat) (detail : List Byte) :
    (postEvent s status slot addr detail).pending = s.pending ∧
    (postEvent s status slot addr detail).iris = s.iris := by
  unfold postEvent
  try dsimp only
  repeat' split
  all_goals simp

@[simp] theorem chipEvent_kept (s : State) (status addr : Nat) :
    (chipEvent s status addr).pending = s.pending ∧
    (chipEvent s status addr).iris = s.iris := by
  unfold chipEvent
  try dsimp only
  all_goals simp

@[simp] theorem counterEvent_kept (s : State) (addr status : Nat) :
    (counterEvent s addr status).pending = s.pending ∧
    (counterEvent s addr status).iris = s.iris := by
  unfold counterEvent
  try dsimp only
  repeat' split
  all_goals simp

@[simp] theorem counterTick_kept (s : State) :
    (counterTick s).pending = s.pending ∧
    (counterTick s).iris = s.iris := by
  unfold counterTick
  try dsimp only
  all_goals simp

@[simp] theorem traceOn_kept (s : State) (edge kind slot cmd instr : Nat) (value : BitVec 64) :
    (traceOn s edge kind slot cmd instr value).pending = s.pending ∧
    (traceOn s edge kind slot cmd instr value).iris = s.iris := by
  unfold traceOn
  try dsimp only
  all_goals simp

@[simp] theorem trace_kept (s : State) (kind slot cmd instr : Nat) (value : BitVec 64) :
    (trace s kind slot cmd instr value).pending = s.pending ∧
    (trace s kind slot cmd instr value).iris = s.iris := by
  unfold trace
  try dsimp only
  all_goals simp

@[simp] theorem journal_kept (s : State) (iface kind addr old new : Nat) :
    (journal s iface kind addr old new).pending = s.pending ∧
    (journal s iface kind addr old new).iris = s.iris := by
  unfold journal
  try dsimp only
  all_goals simp

@[simp] theorem journalWrite_kept (s : State) (i : Iface) (addr old new : Nat) :
    (journalWrite s i addr old new).pending = s.pending ∧
    (journalWrite s i addr old new).iris = s.iris := by
  unfold journalWrite
  try dsimp only
  all_goals simp

@[simp] theorem reflexSafe_kept (s : State) :
    (reflexSafe s).pending = s.pending ∧
    (reflexSafe s).iris = s.iris := by
  unfold reflexSafe
  try dsimp only
  all_goals simp

@[simp] theorem shutterCut_kept (s : State) :
    (shutterCut s).pending = s.pending ∧
    (shutterCut s).iris = s.iris := by
  unfold shutterCut
  try dsimp only
  all_goals simp

@[simp] theorem cutList_kept (s : State) (n : Nat) :
    (cutList s n).pending = s.pending ∧
    (cutList s n).iris = s.iris := by
  unfold cutList
  try dsimp only
  repeat' split
  all_goals simp

@[simp] theorem cutLists_kept (s : State) :
    (cutLists s).pending = s.pending ∧
    (cutLists s).iris = s.iris := by
  unfold cutLists
  try dsimp only
  all_goals simp

@[simp] theorem makeSafe_kept (s : State) :
    (makeSafe s).pending = s.pending ∧
    (makeSafe s).iris = s.iris := by
  unfold makeSafe
  try dsimp only
  all_goals simp

@[simp] theorem ledgerViolation_kept (s : State) (which index total free held flight : Nat) :
    (ledgerViolation s which index total free held flight).pending = s.pending ∧
    (ledgerViolation s which index total free held flight).iris = s.iris := by
  unfold ledgerViolation
  try dsimp only
  repeat' split
  all_goals simp

@[simp] theorem checkLedger_kept (s : State) (which index : Nat) :
    (checkLedger s which index).pending = s.pending ∧
    (checkLedger s which index).iris = s.iris := by
  unfold checkLedger
  try dsimp only
  repeat' split
  all_goals simp

@[simp] theorem checkLedgers_kept (s : State) :
    (checkLedgers s).pending = s.pending ∧
    (checkLedgers s).iris = s.iris := by
  unfold checkLedgers
  try dsimp only
  all_goals simp

@[simp] theorem semTake_kept (s : State) (k n : Nat) :
    (semTake s k n).pending = s.pending ∧
    (semTake s k n).iris = s.iris := by
  unfold semTake
  try dsimp only
  all_goals simp

@[simp] theorem semFree_kept (s : State) (k n : Nat) :
    (semFree s k n).pending = s.pending ∧
    (semFree s k n).iris = s.iris := by
  unfold semFree
  try dsimp only
  repeat' split
  all_goals simp

@[simp] theorem unitPost_kept (s : State) (k : Nat) :
    (unitPost s k).pending = s.pending ∧
    (unitPost s k).iris = s.iris := by
  unfold unitPost
  try dsimp only
  repeat' split
  all_goals simp

@[simp] theorem unitPostBound_kept (s : State) (c k : Nat) :
    (unitPostBound s c k).pending = s.pending ∧
    (unitPostBound s c k).iris = s.iris := by
  unfold unitPostBound
  try dsimp only
  repeat' split
  all_goals simp

@[simp] theorem setCredit_kept (s : State) (c peer : Nat) (x : Credit) :
    (setCredit s c peer x).pending = s.pending ∧
    (setCredit s c peer x).iris = s.iris := by
  unfold setCredit
  try dsimp only
  all_goals simp

@[simp] theorem creditReturn_kept (s : State) (c peer n : Nat) :
    (creditReturn s c peer n).pending = s.pending ∧
    (creditReturn s c peer n).iris = s.iris := by
  unfold creditReturn
  try dsimp only
  all_goals simp

@[simp] theorem reserveTokens_kept (s : State) (c n : Nat) :
    (reserveTokens s c n).pending = s.pending ∧
    (reserveTokens s c n).iris.stop = s.iris.stop ∧
    (reserveTokens s c n).iris.target = s.iris.target := by
  unfold reserveTokens
  try dsimp only
  all_goals simp

@[simp] theorem settleTokens_kept (s : State) (c reserved charge : Nat) :
    (settleTokens s c reserved charge).pending = s.pending ∧
    (settleTokens s c reserved charge).iris.stop = s.iris.stop ∧
    (settleTokens s c reserved charge).iris.target = s.iris.target := by
  unfold settleTokens
  try dsimp only
  all_goals simp

@[simp] theorem countCorrected_kept (s : State) (sp n : Nat) :
    (countCorrected s sp n).pending = s.pending ∧
    (countCorrected s sp n).iris = s.iris := by
  unfold countCorrected
  try dsimp only
  repeat' split
  all_goals simp

@[simp] theorem countUncorrectable_kept (s : State) (store owner word core : Nat) :
    (countUncorrectable s store owner word core).pending = s.pending ∧
    (countUncorrectable s store owner word core).iris = s.iris := by
  unfold countUncorrectable
  try dsimp only
  all_goals simp

@[simp] theorem markTear_kept (s : State) (c : Nat) (cause : TearCause) (e : Option Nat) :
    (markTear s c cause e).pending = s.pending ∧
    (markTear s c cause e).iris = s.iris := by
  unfold markTear
  try dsimp only
  all_goals simp

@[simp] theorem partWord_kept (s : State) (store word : Nat) :
    (partWord s store word).pending = s.pending ∧
    (partWord s store word).iris = s.iris := by
  unfold partWord
  simp

@[simp] theorem ctxWord_kept (s : State) (c store word core : Nat) (e : Option Nat) :
    (ctxWord s c store word core e).pending = s.pending ∧
    (ctxWord s c store word core e).iris = s.iris := by
  unfold ctxWord
  simp

/-- A fold over a state with something beside it keeps what each of its steps keeps. -/
theorem pairFold_kept {β δ : Type} (g : State × δ → β → State × δ) (l : List β) (p : State × δ)
    (h : ∀ q x, (g q x).1.pending = q.1.pending ∧ (g q x).1.iris = q.1.iris) :
    (l.foldl g p).1.pending = p.1.pending ∧ (l.foldl g p).1.iris = p.1.iris :=
  ⟨fold_keep (fun q => q.1.pending) g (fun q x => (h q x).1) l p, fold_keep (fun q => q.1.iris) g (fun q x => (h q x).2) l p⟩

@[simp] theorem mergeWords_kept (s : State) (c store a n : Nat) (up : Table (BitVec 144)) :
    (mergeWords s c store a n up).1.pending = s.pending ∧
    (mergeWords s c store a n up).1.iris = s.iris :=
  pairFold_kept _ _ _ (by intro q x; split <;> simp)

@[simp] theorem partReads_kept (s : State) (c : Nat) (words : List Nat) :
    (partReads s c words).pending = s.pending ∧
    (partReads s c words).iris = s.iris :=
  ⟨foldl_pending _ _ _ (by intro q x; split <;> simp), foldl_iris _ _ _ (by intro q x; split <;> simp)⟩

@[simp] theorem xsPut_kept (s : State) (c a : Nat) (l : List Byte) :
    (xsPut s c a l).pending = s.pending ∧
    (xsPut s c a l).iris = s.iris := by
  unfold xsPut
  try dsimp only
  all_goals simp

@[simp] theorem dsPut_kept (s : State) (c a : Nat) (l : List Byte) :
    (dsPut s c a l).pending = s.pending ∧
    (dsPut s c a l).iris = s.iris := by
  unfold dsPut
  try dsimp only
  all_goals simp

@[simp] theorem arrive_kept (s : State) (c n source detail : Nat) (msg : List Byte) :
    (arrive s c n source detail msg).2.pending = s.pending ∧
    (arrive s c n source detail msg).2.iris = s.iris := by
  unfold arrive
  try dsimp only
  repeat' split
  all_goals simp

/-! ### Glint -/

@[simp] theorem toggleBalls_kept (s : State) (fired : Word) :
    (toggleBalls s fired).pending = s.pending ∧
    (toggleBalls s fired).iris = s.iris := by
  unfold toggleBalls
  try dsimp only
  all_goals simp

@[simp] theorem clearBanks_kept (s : State) :
    (clearBanks s).pending = s.pending ∧
    (clearBanks s).iris = s.iris := by
  unfold clearBanks
  try dsimp only
  all_goals simp

@[simp] theorem readBank_kept (s : State) :
    (readBank s).pending = s.pending ∧
    (readBank s).iris = s.iris := by
  unfold readBank
  split <;> simp

@[simp] theorem glintLine_kept (s : State) (p : Nat) (bits : Nat) (px : Option (List Nat)) :
    (glintLine s p bits px).pending = s.pending ∧
    (glintLine s p bits px).iris = s.iris := by
  unfold glintLine
  try dsimp only
  repeat' split
  all_goals simp

@[simp] theorem swapBanks_kept (s : State) :
    (swapBanks s).pending = s.pending ∧
    (swapBanks s).iris = s.iris := by
  unfold swapBanks
  try dsimp only
  all_goals simp

/-! ### Runs -/

/-- A run's state keeps the queue and the governor. -/
def RunKept (r q : Run) : Prop := q.s.pending = r.s.pending ∧ q.s.iris = r.s.iris

/-- What an effect answers keeps the queue and the governor, whether it fails or not. -/
def AnswerKept {α : Type} (r : Run) (run : α → Run) : Except Fail α → Prop
  | .ok a => RunKept r (run a)
  | .error f => RunKept r f.r

@[simp] theorem RunKept.refl (r : Run) : RunKept r r := ⟨rfl, rfl⟩

theorem RunKept.trans {r q p : Run} (h : RunKept r q) (k : RunKept q p) : RunKept r p :=
  ⟨k.1.trans h.1, k.2.trans h.2⟩

@[simp] theorem stageOne_kept (r : Run) (k : Nat) (b : Byte) :
    (stageOne r k b).s.pending = r.s.pending ∧ (stageOne r k b).s.iris = r.s.iris := ⟨rfl, rfl⟩

@[simp] theorem stByte_kept (r : Run) (sp a : Nat) (b : Byte) :
    (stByte r sp a b).s.pending = r.s.pending ∧ (stByte r sp a b).s.iris = r.s.iris := by
  unfold stByte
  dsimp only
  repeat' split
  all_goals simp

@[simp] theorem stBytes_kept (r : Run) (sp a : Nat) (l : List Byte) :
    (stBytes r sp a l).s.pending = r.s.pending ∧ (stBytes r sp a l).s.iris = r.s.iris := by
  induction l generalizing r a with
  | nil => exact ⟨rfl, rfl⟩
  | cons b l ih => simp [stBytes, ih]

@[simp] theorem stageAt_kept (r : Run) (sp a : Nat) (l : List Byte) :
    (stageAt r sp a l).s.pending = r.s.pending ∧ (stageAt r sp a l).s.iris = r.s.iris :=
  ⟨fold_keep (fun q : Run => q.s.pending) _ (fun q _ => (stageOne_kept q _ _).1) _ _,
    fold_keep (fun q : Run => q.s.iris) _ (fun q _ => (stageOne_kept q _ _).2) _ _⟩

@[simp] theorem noteReads_kept (r : Run) (sp : Nat) (l : List Nat) :
    (noteReads r sp l).s.pending = r.s.pending ∧ (noteReads r sp l).s.iris = r.s.iris := by
  unfold noteReads
  split <;> exact ⟨rfl, rfl⟩

@[simp] theorem stElem_kept (r : Run) (v : View) (t : List Nat) (x : Int) :
    (stElem r v t x).s.pending = r.s.pending ∧ (stElem r v t x).s.iris = r.s.iris := by
  unfold stElem
  dsimp only
  split <;> simp

/-- Folds over runs keep what each of their steps keeps. -/
theorem runFold_kept {β : Type} (g : Run → β → Run) (l : List β) (r : Run)
    (h : ∀ q x, (g q x).s.pending = q.s.pending ∧ (g q x).s.iris = q.s.iris) :
    (l.foldl g r).s.pending = r.s.pending ∧ (l.foldl g r).s.iris = r.s.iris := by
  induction l generalizing r with
  | nil => exact ⟨rfl, rfl⟩
  | cons x l ih => rw [List.foldl_cons, (ih _).1, (ih _).2]; exact h r x

@[simp] theorem stElems_kept (r : Run) (v : View) (l : List (List Nat × Int)) :
    (stElems r v l).s.pending = r.s.pending ∧ (stElems r v l).s.iris = r.s.iris :=
  runFold_kept _ _ _ (by intro q x; split <;> simp)

@[simp] theorem putScale_kept (r : Run) (v : View) (c : Nat) (e : Entry16) :
    (putScale r v c e).s.pending = r.s.pending ∧ (putScale r v c e).s.iris = r.s.iris := by
  simp [putScale]

@[simp] theorem putColsum_kept (r : Run) (v : View) (c : Nat) (x : Int) :
    (putColsum r v c x).s.pending = r.s.pending ∧ (putColsum r v c x).s.iris = r.s.iris := by
  simp [putColsum]

theorem reportWord_kept (r : Run) (sp w : Nat) :
    (reportWord r sp w).s.pending = r.s.pending ∧ (reportWord r sp w).s.iris = r.s.iris := by
  simp [reportWord]

theorem scanWords_ok {r q : Run} {sp : Nat} {l : List Nat} {c : Bool} (h : scanWords r sp l = .ok (q, c)) : RunKept r q := by
  unfold scanWords at h
  dsimp only at h
  split at h
  · cases h
  · cases h
    have h := runFold_kept (fun q w => reportWord q sp w) ((wordsMet l).filter (wordLost r sp))
    exact ⟨by simp [(h _ fun q w => reportWord_kept q sp w).1], by simp [(h _ fun q w => reportWord_kept q sp w).2]⟩

theorem scanWords_error {r q : Run} {sp st : Nat} {l : List Nat} (h : scanWords r sp l = .error (q, st)) : RunKept r q := by
  unfold scanWords at h
  dsimp only at h
  split at h
  · cases h
    constructor <;> split <;> simp
  · cases h

theorem readView_ok {r q : Run} {v : View} {c : Bool} (h : readView r v = .ok (q, c)) : RunKept r q := by
  unfold readView at h
  split at h
  · cases h
  · next hs => cases h; exact (scanWords_ok hs).trans ⟨by simp, by simp⟩

theorem readView_error {r q : Run} {v : View} {st : Nat} (h : readView r v = .error (q, st)) : RunKept r q := by
  unfold readView at h
  split at h
  · next hs => cases h; exact scanWords_error hs
  · cases h

/-! ### Inst -/

@[simp] theorem diverge_kept (s : State) (c kind : Nat) (expect found : BitVec 64) :
    (diverge s c kind expect found).pending = s.pending ∧
    (diverge s c kind expect found).iris = s.iris := by
  unfold diverge
  try dsimp only
  all_goals simp

@[simp] theorem replayTake_kept (s : State) (c kind : Nat) (found : BitVec 64) :
    (replayTake s c kind found).2.pending = s.pending ∧
    (replayTake s c kind found).2.iris = s.iris := by
  unfold replayTake
  try dsimp only
  repeat' split
  all_goals simp

@[simp] theorem replayCompare_kept (s : State) (c kind : Nat) (found : BitVec 64) :
    (replayCompare s c kind found).pending = s.pending ∧
    (replayCompare s c kind found).iris = s.iris := by
  unfold replayCompare
  have h := replayTake_kept s c kind found
  revert h
  generalize replayTake s c kind found = q
  rcases q with ⟨_ | r, t⟩ <;> intro h <;> dsimp only at h ⊢
  · simpa using h
  · split <;> simp [h]

@[simp] theorem timedValue_kept (s : State) (c at_ : Nat) (l : List Byte) :
    (timedValue s c at_ l).2.pending = s.pending ∧
    (timedValue s c at_ l).2.iris = s.iris := by
  unfold timedValue
  try dsimp only
  repeat' split
  all_goals simp

@[simp] theorem timedWrite_kept (s : State) (c at_ : Nat) (l : List Byte) :
    (timedWrite s c at_ l).pending = s.pending ∧
    (timedWrite s c at_ l).iris = s.iris := by
  unfold timedWrite
  try dsimp only
  all_goals simp

@[simp] theorem requeue_kept (s : State) (r : Ready) :
    (requeue s r).pending = s.pending ∧ (requeue s r).iris = s.iris := ⟨rfl, rfl⟩

@[simp] theorem addReady_kept (s : State) (r : Ready) :
    (addReady s r).pending = s.pending ∧
    (addReady s r).iris = s.iris := by
  unfold addReady
  try dsimp only
  all_goals simp

@[simp] theorem startReady_kept (s : State) (c : Nat) :
    (startReady s c).pending = s.pending ∧
    (startReady s c).iris = s.iris := by
  unfold startReady
  try dsimp only
  all_goals simp

@[simp] theorem matchEnds_kept (s : State) (c d : Nat) :
    (matchEnds s c d).pending = s.pending ∧
    (matchEnds s c d).iris = s.iris := by
  unfold matchEnds
  try dsimp only
  repeat' split
  all_goals simp

@[simp] theorem offerEnd_kept (s : State) (c k : Nat) (e : EndRec) :
    (offerEnd s c k e).pending = s.pending ∧
    (offerEnd s c k e).iris = s.iris := by
  unfold offerEnd
  try dsimp only
  all_goals simp

@[simp] theorem recordIndex_kept (s : State) (o : Option Nat) :
    (recordIndex s o).2.pending = s.pending ∧
    (recordIndex s o).2.iris = s.iris := by
  cases o <;> simp [recordIndex]

@[simp] theorem writeRecordEnd_kept (s : State) (c k status kind : Nat) (at_ : Option Nat) (cycles tokens : Nat) :
    (writeRecordEnd s c k status kind at_ cycles tokens).2.pending = s.pending ∧
    (writeRecordEnd s c k status kind at_ cycles tokens).2.iris = s.iris := by
  unfold writeRecordEnd
  try dsimp only
  all_goals simp

@[simp] theorem traceEnd_kept (s : State) (edge c k kind status cycles : Nat) (late : Bool) :
    (traceEnd s edge c k kind status cycles late).pending = s.pending ∧
    (traceEnd s edge c k kind status cycles late).iris = s.iris := by
  unfold traceEnd
  try dsimp only
  all_goals simp

@[simp] theorem skipOne_kept (s : State) (r : Ready) (st : Nat) :
    (skipOne s r st).pending = s.pending ∧
    (skipOne s r st).iris = s.iris := by
  unfold skipOne
  try dsimp only
  all_goals simp

@[simp] theorem settleSkips_kept (n : Nat) (s : State) :
    (settleSkips n s).pending = s.pending ∧
    (settleSkips n s).iris = s.iris := by
  induction n generalizing s with
  | zero => simp [settleSkips]
  | succ n ih =>
    unfold settleSkips
    split
    · simp
    · simp [ih]

@[simp] theorem dropHolds_kept (s : State) (i : Inst) :
    (dropHolds s i).pending = s.pending ∧
    (dropHolds s i).iris = s.iris := by
  unfold dropHolds
  try dsimp only
  all_goals simp

@[simp] theorem dropCredits_kept (s : State) (i : Inst) :
    (dropCredits s i).pending = s.pending ∧
    (dropCredits s i).iris = s.iris := by
  unfold dropCredits
  try dsimp only
  all_goals simp

@[simp] theorem discardSends_kept (s : State) (i : Inst) :
    (discardSends s i).pending = s.pending ∧
    (discardSends s i).iris = s.iris := by
  unfold discardSends
  try dsimp only
  all_goals simp

@[simp] theorem dropWaiter_kept (s : State) (c k : Nat) :
    (dropWaiter s c k).pending = s.pending ∧
    (dropWaiter s c k).iris = s.iris := by
  unfold dropWaiter
  try dsimp only
  all_goals simp

@[simp] theorem freeInbox_kept (s : State) (c : Nat) (e : Option (Nat × Nat)) :
    (freeInbox s c e).pending = s.pending ∧
    (freeInbox s c e).iris = s.iris := by
  unfold freeInbox
  try dsimp only
  repeat' split
  all_goals simp

@[simp] theorem undo_kept (s : State) (i : Inst) :
    (undo s i).pending = s.pending ∧
    (undo s i).iris = s.iris := by
  unfold undo
  try dsimp only
  all_goals simp

@[simp] theorem leaveEngine_kept (s : State) (i : Inst) (free : Nat) :
    (leaveEngine s i free).pending = s.pending ∧
    (leaveEngine s i free).iris = s.iris := by
  unfold leaveEngine
  try dsimp only
  all_goals simp

@[simp] theorem finish_kept (s : State) (i : Inst) (kind : Nat) :
    (finish s i kind).2.pending = s.pending ∧
    (finish s i kind).2.iris.stop = s.iris.stop ∧
    (finish s i kind).2.iris.target = s.iris.target := by
  unfold finish
  try dsimp only
  repeat' split
  all_goals simp

@[simp] theorem endUncommitted_kept (s : State) (i : Inst) (kind : Nat) :
    (endUncommitted s i kind).pending = s.pending ∧
    (endUncommitted s i kind).iris.stop = s.iris.stop ∧
    (endUncommitted s i kind).iris.target = s.iris.target := by
  unfold endUncommitted
  try dsimp only
  repeat' split
  all_goals simp

@[simp] theorem kill_kept (s : State) (i : Inst) (edge : Nat) :
    (kill s i edge).pending = s.pending ∧
    (kill s i edge).iris.stop = s.iris.stop ∧
    (kill s i edge).iris.target = s.iris.target := by
  unfold kill
  try dsimp only
  all_goals simp

@[simp] theorem applyByte_kept (s : State) (c k : Nat) (b : Byte) :
    (applyByte s c k b).pending = s.pending ∧
    (applyByte s c k b).iris = s.iris := by
  unfold applyByte
  try dsimp only
  repeat' split
  all_goals simp

@[simp] theorem applySwap_kept (s : State) (m : Memory) :
    (applySwap s m).pending = s.pending ∧
    (applySwap s m).iris = s.iris := by
  unfold applySwap
  try dsimp only
  repeat' split
  all_goals simp

@[simp] theorem applyList_kept (s : State) (n : Nat) (m : Memory) :
    (applyList s n m).pending = s.pending ∧
    (applyList s n m).iris = s.iris := by
  unfold applyList
  try dsimp only
  repeat' split
  all_goals simp

@[simp] theorem applyIsland_kept (s : State) (m : Memory) :
    (applyIsland s m).pending = s.pending ∧
    (applyIsland s m).iris = s.iris := by
  unfold applyIsland
  try dsimp only
  repeat' split
  all_goals simp

@[simp] theorem applyStaged_kept (s : State) (c : Nat) (m : Memory) :
    (applyStaged s c m).pending = s.pending ∧
    (applyStaged s c m).iris = s.iris := by
  unfold applyStaged
  try dsimp only
  repeat' split
  all_goals simp

@[simp] theorem commitSem_kept (s : State) (c k hold post : Nat) :
    (commitSem s c k hold post).pending = s.pending ∧
    (commitSem s c k hold post).iris = s.iris := by
  unfold commitSem
  try dsimp only
  repeat' split
  all_goals simp

@[simp] theorem commitSems_kept (s : State) (i : Inst) :
    (commitSems s i).pending = s.pending ∧
    (commitSems s i).iris = s.iris := by
  unfold commitSems
  try dsimp only
  all_goals simp

@[simp] theorem releaseSends_kept (s : State) (i : Inst) :
    (releaseSends s i).pending = s.pending ∧
    (releaseSends s i).iris = s.iris := by
  unfold releaseSends
  try dsimp only
  all_goals simp

@[simp] theorem setStream_kept (s : State) (c k : Nat) (x : Stream) :
    (setStream s c k x).pending = s.pending ∧
    (setStream s c k x).iris = s.iris := by
  unfold setStream
  try dsimp only
  all_goals simp

@[simp] theorem reopenBatch_kept (s : State) (c b : Nat) :
    (reopenBatch s c b).pending = s.pending ∧
    (reopenBatch s c b).iris = s.iris := by
  unfold reopenBatch
  try dsimp only
  all_goals simp

@[simp] theorem commitMedia_kept (s : State) (i : Inst) :
    (commitMedia s i).pending = s.pending ∧
    (commitMedia s i).iris = s.iris := by
  unfold commitMedia
  try dsimp only
  all_goals simp

@[simp] theorem publishStream_kept (s : State) (c : Nat) (e : Nat × Stream) :
    (publishStream s c e).pending = s.pending ∧
    (publishStream s c e).iris = s.iris := by
  unfold publishStream
  try dsimp only
  repeat' split
  all_goals simp

@[simp] theorem commitStreams_kept (s : State) (i : Inst) :
    (commitStreams s i).pending = s.pending ∧
    (commitStreams s i).iris = s.iris := by
  unfold commitStreams
  try dsimp only
  all_goals simp

@[simp] theorem releasePosts_kept (s : State) (i : Inst) :
    (releasePosts s i).pending = s.pending ∧
    (releasePosts s i).iris = s.iris := by
  unfold releasePosts
  exact ⟨foldl_pending _ _ _ (by intro q x; split <;> simp), foldl_iris _ _ _ (by intro q x; split <;> simp)⟩

@[simp] theorem readBuffer_kept (s : State) (i : Inst) :
    (readBuffer s i).1.pending = s.pending ∧
    (readBuffer s i).1.iris = s.iris := by
  unfold readBuffer
  exact ⟨foldl_pending _ _ _ (by intro q x; split <;> simp), foldl_iris _ _ _ (by intro q x; split <;> simp)⟩

@[simp] theorem endCommitted_kept (s : State) (i : Inst) :
    (endCommitted s i).pending = s.pending ∧
    (endCommitted s i).iris.stop = s.iris.stop ∧
    (endCommitted s i).iris.target = s.iris.target := by
  unfold endCommitted
  try dsimp only
  all_goals simp

/-! ### Loader -/

@[simp] theorem bindModule_kept (s : State) (c : Nat) (m : Module) :
    (bindModule s c m).pending = s.pending ∧
    (bindModule s c m).iris = s.iris := by
  unfold bindModule
  try dsimp only
  all_goals simp

@[simp] theorem activate_kept (s : State) (c : Nat) :
    (activate s c).pending = s.pending ∧
    (activate s c).iris = s.iris := by
  unfold activate
  try dsimp only
  repeat' split
  all_goals simp

@[simp] theorem settleSlot_kept (s : State) (c : Nat) :
    (settleSlot s c).pending = s.pending ∧
    (settleSlot s c).iris = s.iris := by
  unfold settleSlot
  try dsimp only
  repeat' split
  all_goals simp

/-! ### Issue -/

@[simp] theorem traceReads_kept (s : State) (i : Inst) (w : Insn) (regs : List (Nat × Nat)) :
    (traceReads s i w regs).pending = s.pending ∧
    (traceReads s i w regs).iris = s.iris := by
  unfold traceReads
  try dsimp only
  repeat' split
  all_goals simp

@[simp] theorem retire_kept (s : State) (i : Inst) (edge : Nat) :
    (retire s i edge).1.pending = s.pending ∧
    (retire s i edge).1.iris = s.iris := by
  unfold retire
  exact ⟨foldl_keep (·.pending) _ (by intro t x; split <;> simp) _ _,
    foldl_keep (·.iris) _ (by intro t x; split <;> simp) _ _⟩

@[simp] theorem thaw_kept (s : State) (i : Inst) (natural : Inst → Nat) (edge : Nat) :
    (thaw s i natural edge).1.pending = s.pending ∧
    (thaw s i natural edge).1.iris = s.iris := by
  unfold thaw
  try dsimp only
  repeat' split
  all_goals simp

@[simp] theorem passOver_kept (s : State) (e : Nat) (i : Inst) (regs : List (Nat × Nat × Nat)) (w : Insn) :
    (passOver s e i regs w).pending = s.pending ∧
    (passOver s e i regs w).iris = s.iris := by
  unfold passOver
  try dsimp only
  all_goals simp

@[simp] theorem failInst_kept (s : State) (e : Nat) (i : Inst) (f : Fail) (edge : Nat) :
    (failInst s e i f edge).pending = s.pending ∧
    (failInst s e i f edge).iris.stop = s.iris.stop ∧
    (failInst s e i f edge).iris.target = s.iris.target := by
  unfold failInst
  try dsimp only
  repeat' split
  all_goals simp

/-- Scanned descriptors and the moves of a backed ES change no more than the effect itself. -/
theorem withSlots_kept (w : Insn) (f : Effect) (hf : ∀ r, AnswerKept r (fun a => a.r) (f r)) (i : Inst) (r : Run) :
    AnswerKept r (fun a => a.r) ((withSlots w f r).map (withBacking i)) := by
  unfold withSlots
  split
  · next h => exact scanWords_error (r := r) h
  · next q c h =>
    have hq : RunKept r q := scanWords_ok h
    have k := hf q
    revert k
    cases f q with
    | error x => exact fun k => hq.trans k
    | ok a => exact fun k => hq.trans k

/-- An instruction keeps what its effect keeps. -/
theorem issue_kept (s : State) (e : Nat) (w : Insn) (srcs : Nat) (f : Effect) (hf : ∀ r, AnswerKept r (fun a => a.r) (f r)) :
    (issue s e w srcs f).pending = s.pending ∧ (issue s e w srcs f).iris.stop = s.iris.stop ∧
      (issue s e w srcs f).iris.target = s.iris.target := by
  unfold issue
  split
  · simp
  · next i _ =>
    dsimp only
    split
    · simp
    · split
      · simp
      · split
        · simp
        · have h := withSlots_kept w f hf i { s := traceReads s i w (scalarReads w srcs), i := i }
          revert h
          cases (withSlots w f { s := traceReads s i w (scalarReads w srcs), i := i }).map (withBacking i) with
          | error x => intro h; simp [AnswerKept, RunKept] at h ⊢; simp [h]
          | ok a =>
            intro h
            dsimp only
            split
            · simp
            · simp [AnswerKept, RunKept] at h ⊢; simp [h]

@[simp] theorem stageFail_kept (s : State) (e : Nat) (i : Inst) (st edge : Nat) :
    (stageFail s e i st edge).pending = s.pending ∧
    (stageFail s e i st edge).iris.stop = s.iris.stop ∧
    (stageFail s e i st edge).iris.target = s.iris.target := by
  unfold stageFail
  try dsimp only
  all_goals simp

/-! ### Time -/

@[simp] theorem issueLate_kept (s : State) (e : Nat) (i : Inst) (t : Line) (p edge : Nat) :
    (issueLate s e i t p edge).pending = s.pending ∧
    (issueLate s e i t p edge).iris = s.iris := by
  unfold issueLate
  try dsimp only
  all_goals simp

/-! ### Sync -/

@[simp] theorem semTaken_kept (s : State) (e : Nat) (i : Inst) (k n edge : Nat) (reg : Option Nat) :
    (semTaken s e i k n edge reg).pending = s.pending ∧
    (semTaken s e i k n edge reg).iris = s.iris := by
  unfold semTaken
  try dsimp only
  repeat' split
  all_goals simp

@[simp] theorem semWaits_kept (s : State) (e : Nat) (i : Inst) (k n edge : Nat) (reg : Option Nat) :
    (semWaits s e i k n edge reg).pending = s.pending ∧
    (semWaits s e i k n edge reg).iris = s.iris := by
  unfold semWaits
  try dsimp only
  repeat' split
  all_goals simp

@[simp] theorem semTested_kept (s : State) (e : Nat) (i : Inst) (k n edge reg : Nat) (ok : Bool) :
    (semTested s e i k n edge reg ok).pending = s.pending ∧
    (semTested s e i k n edge reg ok).iris = s.iris := by
  unfold semTested
  try dsimp only
  repeat' split
  all_goals simp

@[simp] theorem traceTest_kept (s : State) (i : Inst) (k : Nat) (ok : Bool) :
    (traceTest s i k ok).pending = s.pending ∧
    (traceTest s i k ok).iris = s.iris := by
  unfold traceTest
  try dsimp only
  all_goals simp

@[simp] theorem takeCredits_kept (s : State) (e : Nat) (i : Inst) (p n edge : Nat) :
    (takeCredits s e i p n edge).pending = s.pending ∧
    (takeCredits s e i p n edge).iris = s.iris := by
  unfold takeCredits
  try dsimp only
  all_goals simp

/-! ### Collective -/

@[simp] theorem transmit_kept (s : State) (f : FlitOut) :
    (transmit s f).pending = s.pending ∧
    (transmit s f).iris = s.iris := by
  unfold transmit
  try dsimp only
  all_goals simp

@[simp] theorem setWindow_kept (s : State) (n : Nat) (l : List Message) :
    (setWindow s n l).pending = s.pending ∧
    (setWindow s n l).iris = s.iris := by
  unfold setWindow
  try dsimp only
  all_goals simp

@[simp] theorem sendChunk_kept (s : State) (slot tag peer owner phase : Nat) (l : List Byte) :
    (sendChunk s slot tag peer owner phase l).pending = s.pending ∧
    (sendChunk s slot tag peer owner phase l).iris = s.iris := by
  unfold sendChunk
  try dsimp only
  all_goals simp

@[simp] theorem dropChunks_kept (s : State) (slot tag : Nat) :
    (dropChunks s slot tag).pending = s.pending ∧
    (dropChunks s slot tag).iris = s.iris := by
  unfold dropChunks
  try dsimp only
  all_goals simp

/-! ### Iris -/

@[simp] theorem startTheta_kept (s : State) (r : Ready) (edge : Nat) :
    (startTheta s r edge).2.pending = s.pending ∧
    (startTheta s r edge).2.iris = s.iris := by
  unfold startTheta
  try dsimp only
  repeat' split
  all_goals simp

@[simp] theorem place_kept (s : State) (r : Ready) (e edge : Nat) :
    (place s r e edge).pending = s.pending ∧
    (place s r e edge).iris.stop = s.iris.stop ∧
    (place s r e edge).iris.target = s.iris.target := by
  unfold place
  try dsimp only
  repeat' split
  all_goals simp

@[simp] theorem admitOn_kept (s : State) (r : Ready) (e edge : Nat) :
    (admitOn s r e edge).pending = s.pending ∧
    (admitOn s r e edge).iris.stop = s.iris.stop ∧
    (admitOn s r e edge).iris.target = s.iris.target := by
  unfold admitOn
  try dsimp only
  all_goals simp

@[simp] theorem modReady_kept (s : State) (r : Ready) (f : Ready → Ready) :
    (modReady s r f).pending = s.pending ∧
    (modReady s r f).iris = s.iris := by
  unfold modReady
  try dsimp only
  all_goals simp

@[simp] theorem defer_kept (s : State) (r : Ready) (d : Deferral) :
    (defer s r d).pending = s.pending ∧
    (defer s r d).iris = s.iris := by
  unfold defer
  try dsimp only
  all_goals simp

@[simp] theorem beginFreeze_kept (s : State) (r : Ready) (e : Nat) (i : Inst) (edge : Nat) :
    (beginFreeze s r e i edge).pending = s.pending ∧
    (beginFreeze s r e i edge).iris.stop = s.iris.stop ∧
    (beginFreeze s r e i edge).iris.target = s.iris.target := by
  unfold beginFreeze
  try dsimp only
  all_goals simp

@[simp] theorem preempt_kept (s : State) (r : Ready) (v : Nat × Inst) (edge : Nat) :
    (preempt s r v edge).pending = s.pending ∧
    (preempt s r v edge).iris.stop = s.iris.stop ∧
    (preempt s r v edge).iris.target = s.iris.target := by
  unfold preempt
  try dsimp only
  repeat' split
  all_goals simp

theorem examineFit_cases (s : State) (b : Barrier) (r : Ready) (e : Nat) (go : State) :
    (examineFit s b r e go).1 = go ∨ (examineFit s b r e go).1 = s ∨ ∃ d, (examineFit s b r e go).1 = defer s r d := by
  unfold examineFit
  dsimp only
  repeat' split
  · exact .inr (.inl rfl)
  · exact .inr (.inr ⟨_, rfl⟩)
  · exact .inr (.inr ⟨_, rfl⟩)
  · exact .inl rfl

@[simp] theorem examine_kept (edge : Nat) (x : State × Barrier) (r : Ready) :
    (examine edge x r).1.pending = x.1.pending ∧
    (examine edge x r).1.iris.stop = x.1.iris.stop ∧
    (examine edge x r).1.iris.target = x.1.iris.target := by
  obtain ⟨s, b⟩ := x
  have key : ∀ (e : Nat) (go : State), (go.pending = s.pending ∧
    go.iris.stop = s.iris.stop ∧
    go.iris.target = s.iris.target) →
      ((examineFit s b r e go).1.pending = s.pending ∧
    (examineFit s b r e go).1.iris.stop = s.iris.stop ∧
    (examineFit s b r e go).1.iris.target = s.iris.target) := by
    intro e go h
    rcases examineFit_cases s b r e go with k | k | ⟨d, k⟩ <;> rw [k] <;> simp [h]
  unfold examine
  dsimp only
  repeat' split
  all_goals first
    | exact key _ _ (by simp)
    | simp

theorem examines_pending (edge : Nat) (l : List Ready) (x : State × Barrier) : (l.foldl (examine edge) x).1.pending = x.1.pending := by
  induction l generalizing x with
  | nil => rfl
  | cons a l ih => simp [ih]

theorem examines_iris_stop (edge : Nat) (l : List Ready) (x : State × Barrier) : (l.foldl (examine edge) x).1.iris.stop = x.1.iris.stop := by
  induction l generalizing x with
  | nil => rfl
  | cons a l ih => simp [ih]

theorem examines_iris_target (edge : Nat) (l : List Ready) (x : State × Barrier) : (l.foldl (examine edge) x).1.iris.target = x.1.iris.target := by
  induction l generalizing x with
  | nil => rfl
  | cons a l ih => simp [ih]
@[simp] theorem admitAll_kept (s : State) (edge : Nat) (p : Ready → Bool) (b : Barrier) :
    (admitAll s edge p b).pending = s.pending ∧
    (admitAll s edge p b).iris.stop = s.iris.stop ∧
    (admitAll s edge p b).iris.target = s.iris.target := by
  unfold admitAll
  split
  · simp
  · simp [examines_pending, examines_iris_stop, examines_iris_target]

@[simp] theorem admitFirst_kept (s : State) (l : List Nat) :
    (admitFirst s l).pending = s.pending ∧
    (admitFirst s l).iris.stop = s.iris.stop ∧
    (admitFirst s l).iris.target = s.iris.target := by
  induction l generalizing s with
  | nil => simp [admitFirst]
  | cons a l ih =>
    unfold admitFirst
    dsimp only
    split <;> simp [ih]

@[simp] theorem messageVisible_kept (s : State) (c : Nat) (m : Pending) :
    (messageVisible s c m).pending = s.pending ∧
    (messageVisible s c m).iris = s.iris := by
  unfold messageVisible
  try dsimp only
  all_goals simp

@[simp] theorem messagesVisible_kept (s : State) (c : Nat) :
    (messagesVisible s c).pending = s.pending ∧
    (messagesVisible s c).iris = s.iris := by
  unfold messagesVisible
  try dsimp only
  all_goals simp

@[simp] theorem countDeferral_kept (s : State) :
    (countDeferral s).pending = s.pending ∧
    (countDeferral s).iris.stop = s.iris.stop ∧
    (countDeferral s).iris.target = s.iris.target := by
  unfold countDeferral
  try dsimp only
  all_goals simp

@[simp] theorem resumeWait_kept (s : State) (e : Nat) (i : Inst) (edge : Nat) :
    (resumeWait s e i edge).pending = s.pending ∧
    (resumeWait s e i edge).iris = s.iris := by
  unfold resumeWait
  try dsimp only
  repeat' split
  all_goals simp

@[simp] theorem traceFrozen_kept (s : State) (i : Inst) (edge : Nat) :
    (traceFrozen s i edge).pending = s.pending ∧
    (traceFrozen s i edge).iris = s.iris := by
  unfold traceFrozen
  try dsimp only
  repeat' split
  all_goals simp

/-! ### Context -/

@[simp] theorem tearReady_kept (s : State) (st : Nat) (r : Ready) :
    (tearReady s st r).pending = s.pending ∧
    (tearReady s st r).iris = s.iris := by
  unfold tearReady
  try dsimp only
  all_goals simp

@[simp] theorem dropIncoming_kept (s : State) (c : Nat) :
    (dropIncoming s c).pending = s.pending ∧
    (dropIncoming s c).iris.stop = s.iris.stop ∧
    (dropIncoming s c).iris.target = s.iris.target := by
  unfold dropIncoming
  exact ⟨foldl_keep (·.pending) _ (by intro t x; repeat' split <;> simp) _ _,
    foldl_keep (·.iris.stop) _ (by intro t x; repeat' split <;> simp) _ _,
    foldl_keep (·.iris.target) _ (by intro t x; repeat' split <;> simp) _ _⟩

@[simp] theorem tearInstances_kept (s : State) (c : Nat) (st : Option Nat) :
    (tearInstances s c st).pending = s.pending ∧
    (tearInstances s c st).iris.stop = s.iris.stop ∧
    (tearInstances s c st).iris.target = s.iris.target := by
  unfold tearInstances
  try dsimp only
  all_goals simp

@[simp] theorem dropWindows_kept (s : State) (c : Nat) :
    (dropWindows s c).pending = s.pending ∧
    (dropWindows s c).iris = s.iris := by
  unfold dropWindows
  try dsimp only
  all_goals simp

@[simp] theorem dropHeld_kept (s : State) (c : Nat) :
    (dropHeld s c).pending = s.pending ∧
    (dropHeld s c).iris = s.iris := by
  unfold dropHeld
  try dsimp only
  all_goals simp

@[simp] theorem dropBroken_kept (s : State) :
    (dropBroken s).pending = s.pending ∧
    (dropBroken s).iris = s.iris := by
  unfold dropBroken
  try dsimp only
  repeat' split
  all_goals simp

@[simp] theorem tearSteps_kept (s : State) (c : Nat) (st : Option Nat) :
    (tearSteps s c st).pending = s.pending ∧
    (tearSteps s c st).iris.stop = s.iris.stop ∧
    (tearSteps s c st).iris.target = s.iris.target := by
  unfold tearSteps
  try dsimp only
  all_goals simp

@[simp] theorem settleEmpty_kept (s : State) (c : Nat) :
    (settleEmpty s c).pending = s.pending ∧
    (settleEmpty s c).iris = s.iris := by
  unfold settleEmpty
  try dsimp only
  repeat' split
  all_goals simp

@[simp] theorem returnShares_kept (s : State) (c : Nat) :
    (returnShares s c).pending = s.pending ∧
    (returnShares s c).iris = s.iris := by
  unfold returnShares
  try dsimp only
  all_goals simp

@[simp] theorem tearUnits_kept (s : State) (c : Nat) (cause : TearCause) :
    (tearUnits s c cause).pending = s.pending ∧
    (tearUnits s c cause).iris = s.iris := by
  unfold tearUnits
  try dsimp only
  repeat' split
  all_goals simp

@[simp] theorem tearDown_kept (s : State) (c : Nat) (cause : TearCause) (e : Option Nat) (restart : Option Nat) :
    (tearDown s c cause e restart).pending = s.pending ∧
    (tearDown s c cause e restart).iris.stop = s.iris.stop ∧
    (tearDown s c cause e restart).iris.target = s.iris.target := by
  unfold tearDown
  try dsimp only
  all_goals simp

@[simp] theorem rejectLoad_kept (s : State) (c code : Nat) :
    (rejectLoad s c code).pending = s.pending ∧
    (rejectLoad s c code).iris = s.iris := by
  unfold rejectLoad
  try dsimp only
  all_goals simp

@[simp] theorem reload_kept (s : State) (c cause : Nat) :
    (reload s c cause).pending = s.pending ∧
    (reload s c cause).iris = s.iris := by
  unfold reload
  try dsimp only
  all_goals simp

theorem takeHoldings_kept (l : List (Nat × Nat)) (s t : State) (c : Nat) (h : takeHoldings s c l = some t) :
    t.pending = s.pending ∧ t.iris = s.iris := by
  induction l generalizing s with
  | nil => cases h; exact ⟨rfl, rfl⟩
  | cons x l ih =>
    unfold takeHoldings at h
    split at h
    · cases h
    · simpa using ih _ h

/-- What granting shares leaves alone, where they are granted. -/
theorem grantShares_kept (s t : State) (c : Nat) (g : CtxRecord) (h : grantShares s c g = some t) :
    t.pending = s.pending ∧
    t.iris = s.iris := by
  unfold grantShares at h
  simp only [Option.bind_eq_bind, Option.bind_eq_some_iff, Option.ite_none_right_eq_some] at h
  obtain ⟨_, _, _, _, _, _, _, _, _, u, hu, h⟩ := h
  have := takeHoldings_kept _ _ _ _ hu
  cases h
  simpa using this

@[simp] theorem regrant_kept (s : State) (c cause : Nat) :
    (regrant s c cause).pending = s.pending ∧
    (regrant s c cause).iris = s.iris := by
  unfold regrant
  dsimp only
  split
  · simp
  · split
    · next t h => simpa using grantShares_kept _ _ _ _ h
    · simp

/-! ### Relay -/

@[simp] theorem failReady_kept (s : State) (st : Nat) (r : Ready) :
    (failReady s st r).pending = s.pending ∧
    (failReady s st r).iris = s.iris := by
  unfold failReady
  try dsimp only
  all_goals simp

@[simp] theorem failInstances_kept (s : State) (c : Nat) :
    (failInstances s c).pending = s.pending ∧
    (failInstances s c).iris.stop = s.iris.stop ∧
    (failInstances s c).iris.target = s.iris.target := by
  unfold failInstances
  try dsimp only
  all_goals simp

@[simp] theorem dropReceived_kept (s : State) (c : Nat) :
    (dropReceived s c).pending = s.pending ∧
    (dropReceived s c).iris = s.iris := by
  unfold dropReceived
  try dsimp only
  all_goals simp

@[simp] theorem linkLost_kept (s : State) (c : Nat) :
    (linkLost s c).pending = s.pending ∧
    (linkLost s c).iris.stop = s.iris.stop ∧
    (linkLost s c).iris.target = s.iris.target := by
  unfold linkLost
  try dsimp only
  all_goals simp

@[simp] theorem linkGone_kept (s : State) (peer : Nat) :
    (linkGone s peer).pending = s.pending ∧
    (linkGone s peer).iris.stop = s.iris.stop ∧
    (linkGone s peer).iris.target = s.iris.target := by
  unfold linkGone
  try dsimp only
  all_goals simp

/-- Taking a link down keeps what the change of the port keeps. -/
theorem takeDown_kept (s : State) (peer : Nat) (f : State → State) (hp : ∀ t, (f t).pending = t.pending)
    (h1 : ∀ t, (f t).iris.stop = t.iris.stop) (h2 : ∀ t, (f t).iris.target = t.iris.target) :
    (takeDown s peer f).pending = s.pending ∧
    (takeDown s peer f).iris.stop = s.iris.stop ∧
    (takeDown s peer f).iris.target = s.iris.target := by
  unfold takeDown
  split <;> simp [hp, h1, h2]

@[simp] theorem retrainRelay_kept (s : State) (n cause : Nat) :
    (retrainRelay s n cause).pending = s.pending ∧
    (retrainRelay s n cause).iris.stop = s.iris.stop ∧
    (retrainRelay s n cause).iris.target = s.iris.target := by
  unfold retrainRelay
  exact takeDown_kept _ _ _ (by intro t; simp) (by intro t; simp) (by intro t; simp)

@[simp] theorem dropPorts_kept (s : State) (peer : Nat) :
    (dropPorts s peer).pending = s.pending ∧
    (dropPorts s peer).iris = s.iris := by
  unfold dropPorts
  exact ⟨foldl_pending _ _ _ fun _ _ => rfl, foldl_iris _ _ _ fun _ _ => rfl⟩

@[simp] theorem announce_kept (s : State) :
    (announce s).pending = s.pending ∧
    (announce s).iris = s.iris := by
  unfold announce
  try dsimp only
  all_goals simp

@[simp] theorem fence_kept (s : State) (j : Nat) :
    (fence s j).pending = s.pending ∧
    (fence s j).iris.stop = s.iris.stop ∧
    (fence s j).iris.target = s.iris.target := by
  unfold fence
  split
  · simp
  · exact takeDown_kept _ _ _ (by intro t; simp) (by intro t; simp) (by intro t; simp)

@[simp] theorem cutPeer_kept (s : State) (j : Nat) :
    (cutPeer s j).pending = s.pending ∧
    (cutPeer s j).iris.stop = s.iris.stop ∧
    (cutPeer s j).iris.target = s.iris.target := by
  unfold cutPeer
  try dsimp only
  repeat' split
  all_goals simp

@[simp] theorem trainingFailed_kept (s : State) (n cause : Nat) :
    (trainingFailed s n cause).pending = s.pending ∧
    (trainingFailed s n cause).iris = s.iris := by
  unfold trainingFailed
  try dsimp only
  repeat' split
  all_goals simp

@[simp] theorem formSet_kept (s : State) :
    (formSet s).pending = s.pending ∧
    (formSet s).iris = s.iris := by
  unfold formSet
  try dsimp only
  repeat' split
  all_goals simp

@[simp] theorem portUp_kept (s : State) (n : Nat) (p : RelayIdentity) :
    (portUp s n p).pending = s.pending ∧
    (portUp s n p).iris = s.iris := by
  unfold portUp
  try dsimp only
  repeat' split
  all_goals simp

@[simp] theorem relayError_kept (s : State) (f : FlitIn) (kind : Nat) :
    (relayError s f kind).pending = s.pending ∧
    (relayError s f kind).iris = s.iris := by
  unfold relayError
  try dsimp only
  all_goals simp

@[simp] theorem noteCorrected_kept (s : State) (f : FlitIn) :
    (noteCorrected s f).pending = s.pending ∧
    (noteCorrected s f).iris = s.iris := by
  unfold noteCorrected
  try dsimp only
  repeat' split
  all_goals simp

@[simp] theorem flitDiscard_kept (s : State) (f : FlitIn) (kind : Nat) :
    (flitDiscard s f kind).pending = s.pending ∧
    (flitDiscard s f kind).iris.stop = s.iris.stop ∧
    (flitDiscard s f kind).iris.target = s.iris.target := by
  unfold flitDiscard
  try dsimp only
  repeat' split
  all_goals simp

@[simp] theorem flitStale_kept (s : State) (f : FlitIn) :
    (flitStale s f).pending = s.pending ∧
    (flitStale s f).iris = s.iris := by
  unfold flitStale
  try dsimp only
  all_goals simp

@[simp] theorem takeData_kept (s : State) (f : FlitIn) :
    (takeData s f).pending = s.pending ∧
    (takeData s f).iris = s.iris := by
  unfold takeData
  try dsimp only
  repeat' split
  all_goals simp

@[simp] theorem dropMessage_kept (s : State) (w : WindowCfg) (m : Message) :
    (dropMessage s w m).pending = s.pending ∧
    (dropMessage s w m).iris = s.iris := by
  unfold dropMessage
  try dsimp only
  repeat' split
  all_goals simp

@[simp] theorem takeRelease_kept (s : State) (f : FlitIn) :
    (takeRelease s f).pending = s.pending ∧
    (takeRelease s f).iris = s.iris := by
  unfold takeRelease
  try dsimp only
  repeat' split
  all_goals simp

@[simp] theorem takeDiscard_kept (s : State) (f : FlitIn) :
    (takeDiscard s f).pending = s.pending ∧
    (takeDiscard s f).iris = s.iris := by
  unfold takeDiscard
  try dsimp only
  repeat' split
  all_goals simp

@[simp] theorem takeControl_kept (s : State) (f : FlitIn) :
    (takeControl s f).pending = s.pending ∧
    (takeControl s f).iris.stop = s.iris.stop ∧
    (takeControl s f).iris.target = s.iris.target := by
  unfold takeControl
  try dsimp only
  repeat' split
  all_goals simp

@[simp] theorem flitCredits_kept (s : State) (f : FlitIn) :
    (flitCredits s f).pending = s.pending ∧
    (flitCredits s f).iris = s.iris := by
  unfold flitCredits
  try dsimp only
  repeat' split
  all_goals simp

/-! ### Lix -/

@[simp] theorem selectSource_kept (s : State) (v : Nat) :
    (selectSource s v).pending = s.pending ∧
    (selectSource s v).iris = s.iris := by
  unfold selectSource
  try dsimp only
  all_goals simp

@[simp] theorem selectDivider_kept (s : State) (d : Nat) :
    (selectDivider s d).pending = s.pending ∧
    (selectDivider s d).iris = s.iris := by
  unfold selectDivider
  try dsimp only
  all_goals simp

@[simp] theorem raiseEdge_kept (s : State) :
    (raiseEdge s).pending = s.pending ∧
    (raiseEdge s).iris = s.iris := by
  unfold raiseEdge
  try dsimp only
  all_goals simp

@[simp] theorem lineValid_kept (s : State) (p : Nat) :
    (lineValid s p).pending = s.pending ∧
    (lineValid s p).iris = s.iris := by
  unfold lineValid
  try dsimp only
  repeat' split
  all_goals simp

@[simp] theorem moveBy_kept (s : State) (k : Int) :
    (moveBy s k).pending = s.pending ∧
    (moveBy s k).iris = s.iris := by
  unfold moveBy
  try dsimp only
  repeat' split
  all_goals simp

@[simp] theorem countPulse_kept (s : State) :
    (countPulse s).pending = s.pending ∧
    (countPulse s).iris = s.iris := by
  unfold countPulse
  try dsimp only
  repeat' split
  all_goals simp

@[simp] theorem lineInstances_kept (s : State) (c : Nat) :
    (lineInstances s c).pending = s.pending ∧
    (lineInstances s c).iris = s.iris := by
  unfold lineInstances
  try dsimp only
  all_goals simp

@[simp] theorem allLines_kept (s : State) :
    (allLines s).pending = s.pending ∧
    (allLines s).iris = s.iris := by
  unfold allLines
  try dsimp only
  all_goals simp

@[simp] theorem overspeed_kept (s : State) :
    (overspeed s).pending = s.pending ∧
    (overspeed s).iris = s.iris := by
  unfold overspeed
  try dsimp only
  all_goals simp

@[simp] theorem acceptEdge_kept (s : State) (interval : Nat) :
    (acceptEdge s interval).pending = s.pending ∧
    (acceptEdge s interval).iris = s.iris := by
  unfold acceptEdge
  try dsimp only
  repeat' split
  all_goals simp

/-! ### Island -/

@[simp] theorem showIsland_kept (s : State) :
    (showIsland s).pending = s.pending ∧
    (showIsland s).iris = s.iris := by
  unfold showIsland
  try dsimp only
  repeat' split
  all_goals simp

@[simp] theorem showPlayed_kept (s : State) :
    (showPlayed s).pending = s.pending ∧
    (showPlayed s).iris = s.iris := by
  unfold showPlayed
  try dsimp only
  repeat' split
  all_goals simp

@[simp] theorem deliver_kept (s : State) (m : IslandMsg) :
    (deliver s m).pending = s.pending ∧
    (deliver s m).iris = s.iris := by
  unfold deliver
  try dsimp only
  all_goals simp

@[simp] theorem deliverHeld_kept (s : State) :
    (deliverHeld s).pending = s.pending ∧
    (deliverHeld s).iris = s.iris := by
  unfold deliverHeld
  try dsimp only
  all_goals simp

@[simp] theorem holdMessage_kept (s : State) (m : IslandMsg) :
    (holdMessage s m).pending = s.pending ∧
    (holdMessage s m).iris = s.iris := by
  unfold holdMessage
  try dsimp only
  repeat' split
  all_goals simp

@[simp] theorem postMessage_kept (s : State) (m : IslandMsg) :
    (postMessage s m).pending = s.pending ∧
    (postMessage s m).iris = s.iris := by
  unfold postMessage
  try dsimp only
  repeat' split
  all_goals simp

@[simp] theorem decideRaise_kept (s : State) :
    (decideRaise s).pending = s.pending ∧
    (decideRaise s).iris.stop = s.iris.stop := by
  unfold decideRaise
  try dsimp only
  repeat' split
  all_goals simp

@[simp] theorem raiseForWake_kept (s : State) :
    (raiseForWake s).pending = s.pending ∧
    (raiseForWake s).iris.stop = s.iris.stop := by
  unfold raiseForWake
  try dsimp only
  repeat' split
  all_goals simp

@[simp] theorem startMics_kept (s : State) :
    (startMics s).pending = s.pending ∧
    (startMics s).iris = s.iris := by
  unfold startMics
  try dsimp only
  all_goals simp

@[simp] theorem markHandOff_kept (s : State) :
    (markHandOff s).pending = s.pending ∧
    (markHandOff s).iris = s.iris := by
  unfold markHandOff
  try dsimp only
  repeat' split
  all_goals simp

@[simp] theorem markPress_kept (s : State) :
    (markPress s).pending = s.pending ∧
    (markPress s).iris = s.iris := by
  unfold markPress
  try dsimp only
  repeat' split
  all_goals simp

@[simp] theorem reloadTimeout_kept (s : State) :
    (reloadTimeout s).pending = s.pending ∧
    (reloadTimeout s).iris = s.iris := by
  unfold reloadTimeout
  try dsimp only
  repeat' split
  all_goals simp

@[simp] theorem driveTdm_kept (s : State) (from_ : Nat) :
    (driveTdm s from_).pending = s.pending ∧
    (driveTdm s from_).iris = s.iris := by
  unfold driveTdm
  try dsimp only
  repeat' split
  all_goals simp

@[simp] theorem handOff_kept (s : State) :
    (handOff s).pending = s.pending ∧
    (handOff s).iris = s.iris := by
  unfold handOff
  try dsimp only
  repeat' split
  all_goals simp

@[simp] theorem openShutter_kept (s : State) (cause : BitVec 8) (score : BitVec 16) (at_ : Nat) :
    (openShutter s cause score at_).pending = s.pending ∧
    (openShutter s cause score at_).iris = s.iris := by
  unfold openShutter
  try dsimp only
  repeat' split
  all_goals simp

@[simp] theorem wakeOpen_kept (s : State) (cause : BitVec 8) (score : BitVec 16) :
    (wakeOpen s cause score).pending = s.pending ∧
    (wakeOpen s cause score).iris = s.iris := by
  unfold wakeOpen
  try dsimp only
  repeat' split
  all_goals simp

@[simp] theorem wake_kept (s : State) (cause : BitVec 8) (score : BitVec 16) :
    (wake s cause score).pending = s.pending ∧
    (wake s cause score).iris = s.iris := by
  unfold wake
  try dsimp only
  repeat' split
  all_goals simp

@[simp] theorem countDown_kept (s : State) :
    (countDown s).pending = s.pending ∧
    (countDown s).iris = s.iris := by
  unfold countDown
  try dsimp only
  repeat' split
  all_goals simp

@[simp] theorem frameWakes_kept (s : State) (next : Option (BitVec 8 × BitVec 16 × Nat)) (fired : Option (BitVec 16)) :
    (frameWakes s next fired).pending = s.pending ∧
    (frameWakes s next fired).iris = s.iris := by
  unfold frameWakes
  try dsimp only
  repeat' split
  all_goals simp

@[simp] theorem stopPlays_kept (s : State) :
    (stopPlays s).pending = s.pending ∧
    (stopPlays s).iris = s.iris := by
  unfold stopPlays
  try dsimp only
  all_goals simp

@[simp] theorem zeroPiece_kept (r : Run) (p : Nat × Nat × Nat) :
    (zeroPiece r p).s.pending = r.s.pending ∧
    (zeroPiece r p).s.iris = r.s.iris := by
  obtain ⟨sp, b, width⟩ := p
  unfold zeroPiece
  dsimp only
  repeat' split
  all_goals simp

@[simp] theorem cutPieces_kept (r : Run) (m : RingMove) (cut : Nat) :
    (cutPieces r m cut).s.pending = r.s.pending ∧
    (cutPieces r m cut).s.iris = r.s.iris := by
  unfold cutPieces
  exact runFold_kept _ _ _ fun q x => zeroPiece_kept q x

@[simp] theorem cutEngine_kept (cut : Nat) (s : State) (e : Nat) :
    (cutEngine cut s e).pending = s.pending ∧
    (cutEngine cut s e).iris.stop = s.iris.stop ∧
    (cutEngine cut s e).iris.target = s.iris.target := by
  have step : ∀ (l : List Entry) (r : Run), (l.foldl (fun r y => match y.ring with
      | some m => cutPieces r m cut
      | none => r) r).s.pending = r.s.pending ∧ (l.foldl (fun r y => match y.ring with
      | some m => cutPieces r m cut
      | none => r) r).s.iris = r.s.iris := by
    intro l
    induction l with
    | nil => exact fun _ => ⟨rfl, rfl⟩
    | cons y l ih =>
      intro r
      rw [List.foldl_cons, (ih _).1, (ih _).2]
      split <;> simp
  unfold cutEngine
  split
  · simp
  · split
    · simp
    · next i _ _ x rest _ =>
      have h := step (x :: rest) { s := s, i := i }
      generalize List.foldl _ _ (x :: rest) = q at h ⊢
      dsimp only at h ⊢
      split
      · simp [h]
      · split <;> simp [h]

@[simp] theorem cutMoves_kept (s : State) :
    (cutMoves s).pending = s.pending ∧
    (cutMoves s).iris.stop = s.iris.stop ∧
    (cutMoves s).iris.target = s.iris.target := by
  unfold cutMoves
  try dsimp only
  repeat' split
  all_goals simp

@[simp] theorem closeShutter_kept (s : State) :
    (closeShutter s).pending = s.pending ∧
    (closeShutter s).iris.stop = s.iris.stop ∧
    (closeShutter s).iris.target = s.iris.target := by
  unfold closeShutter
  try dsimp only
  all_goals simp

@[simp] theorem startPlay_kept (s : State) (e frame : Nat) :
    (startPlay s e frame).pending = s.pending ∧
    (startPlay s e frame).iris = s.iris := by
  unfold startPlay
  try dsimp only
  all_goals simp

@[simp] theorem afterPlay_kept (s : State) (frame : Nat) :
    (afterPlay s frame).pending = s.pending ∧
    (afterPlay s frame).iris = s.iris := by
  unfold afterPlay
  try dsimp only
  repeat' split
  all_goals simp

/-! ### Sensor -/

@[simp] theorem retrainPort_kept (s : State) (p : Nat) :
    (retrainPort s p).pending = s.pending ∧
    (retrainPort s p).iris = s.iris := by
  unfold retrainPort
  try dsimp only
  all_goals simp

@[simp] theorem ignorePacket_kept (s : State) (p : Nat) :
    (ignorePacket s p).pending = s.pending ∧
    (ignorePacket s p).iris = s.iris := by
  unfold ignorePacket
  try dsimp only
  all_goals simp

@[simp] theorem writeRing_kept (s : State) (p : Nat) (l : Line) (px : List Nat) :
    (writeRing s p l px).pending = s.pending ∧
    (writeRing s p l px).iris = s.iris := by
  unfold writeRing
  try dsimp only
  repeat' split
  all_goals simp

@[simp] theorem frameLine_kept (s : State) (p : Nat) (l : Line) (dropped : Bool) :
    (frameLine s p l dropped).pending = s.pending ∧
    (frameLine s p l dropped).iris = s.iris := by
  unfold frameLine
  try dsimp only
  repeat' split
  all_goals simp

@[simp] theorem setInputs_kept (s : State) (v : BitVec 16) :
    (setInputs s v).pending = s.pending ∧
    (setInputs s v).iris = s.iris := by
  unfold setInputs
  try dsimp only
  all_goals simp

@[simp] theorem takeLine_kept (s : State) (p : Nat) (first : Line) (px : Option (List Nat)) :
    (takeLine s p first px).pending = s.pending ∧
    (takeLine s p first px).iris = s.iris := by
  unfold takeLine
  try dsimp only
  repeat' split
  all_goals simp

@[simp] theorem takeHalf_kept (s : State) (p : Nat) (first : Line) (px : Option (List Nat)) :
    (takeHalf s p first px).pending = s.pending ∧
    (takeHalf s p first px).iris = s.iris := by
  unfold takeHalf
  try dsimp only
  repeat' split
  all_goals simp

@[simp] theorem cciPut_kept (s : State) (n : Nat) (new : Memory) :
    (cciPut s n new).pending = s.pending ∧
    (cciPut s n new).iris = s.iris := by
  unfold cciPut
  try dsimp only
  all_goals simp

@[simp] theorem cciFinish_kept (s : State) (n status index lists : Nat) (w : Memory) :
    (cciFinish s n status index lists w).pending = s.pending ∧
    (cciFinish s n status index lists w).iris = s.iris := by
  unfold cciFinish
  try dsimp only
  all_goals simp

@[simp] theorem cciCutList_kept (s : State) (n : Nat) :
    (cciCutList s n).pending = s.pending ∧
    (cciCutList s n).iris = s.iris := by
  unfold cciCutList
  try dsimp only
  repeat' split
  all_goals simp

/-! ### Stops -/

@[simp] theorem readBudget_kept (s : State) (b : BitVec 2) :
    (readBudget s b).pending = s.pending ∧
    (readBudget s b).iris.stop = s.iris.stop ∧
    (readBudget s b).iris.target = s.iris.target := by
  unfold readBudget
  try dsimp only
  all_goals simp

@[simp] theorem acceptTemps_kept (s : State) (l : List Int) :
    (acceptTemps s l).pending = s.pending ∧
    (acceptTemps s l).iris.stop = s.iris.stop ∧
    (acceptTemps s l).iris.target = s.iris.target := by
  unfold acceptTemps
  try dsimp only
  all_goals simp

@[simp] theorem postHeat_kept (s : State) :
    (postHeat s).pending = s.pending ∧
    (postHeat s).iris = s.iris := by
  unfold postHeat
  try dsimp only
  repeat' split
  all_goals simp

@[simp] theorem refill_kept (s : State) :
    (refill s).pending = s.pending ∧
    (refill s).iris.stop = s.iris.stop ∧
    (refill s).iris.target = s.iris.target := by
  unfold refill
  try dsimp only
  all_goals simp

@[simp] theorem countQuiet_kept (s : State) :
    (countQuiet s).pending = s.pending ∧
    (countQuiet s).iris.stop = s.iris.stop ∧
    (countQuiet s).iris.target = s.iris.target := by
  unfold countQuiet
  try dsimp only
  all_goals simp

@[simp] theorem wakeParked_kept (s : State) :
    (wakeParked s).pending = s.pending ∧
    (wakeParked s).iris = s.iris := by
  unfold wakeParked
  try dsimp only
  all_goals simp

@[simp] theorem reportForced_kept (s : State) :
    (reportForced s).pending = s.pending ∧
    (reportForced s).iris.stop = s.iris.stop ∧
    (reportForced s).iris.target = s.iris.target := by
  unfold reportForced
  try dsimp only
  repeat' split
  all_goals simp

@[simp] theorem tickIsland_kept (s : State) (wakeN : Bool) :
    (tickIsland s wakeN).pending = s.pending ∧
    (tickIsland s wakeN).iris.stop = s.iris.stop ∧
    (tickIsland s wakeN).iris.target = s.iris.target := by
  unfold tickIsland
  try dsimp only
  all_goals simp

@[simp] theorem tickIris_kept (s : State) (temps : List Int) (budget : BitVec 2) :
    (tickIris s temps budget).pending = s.pending ∧
    (tickIris s temps budget).iris.stop = s.iris.stop := by
  unfold tickIris
  try dsimp only
  repeat' split
  all_goals simp

@[simp] theorem emptyRings_kept (s : State) :
    (emptyRings s).pending = s.pending ∧
    (emptyRings s).iris = s.iris := by
  unfold emptyRings
  try dsimp only
  all_goals simp

@[simp] theorem startTraining_kept (s : State) :
    (startTraining s).pending = s.pending ∧
    (startTraining s).iris = s.iris := by
  unfold startTraining
  exact ⟨foldl_pending _ _ _ fun _ _ => rfl, foldl_iris _ _ _ fun _ _ => rfl⟩

@[simp] theorem killDeparting_kept (s : State) (e : Nat) :
    (killDeparting s e).pending = s.pending ∧
    (killDeparting s e).iris.stop = s.iris.stop ∧
    (killDeparting s e).iris.target = s.iris.target := by
  unfold killDeparting
  try dsimp only
  repeat' split
  all_goals simp

@[simp] theorem parkContexts_kept (s : State) (level : Nat) :
    (parkContexts s level).pending = s.pending ∧
    (parkContexts s level).iris = s.iris := by
  unfold parkContexts
  exact ⟨foldl_pending _ _ _ fun _ _ => rfl, foldl_iris _ _ _ fun _ _ => rfl⟩

@[simp] theorem relayOff_kept (s : State) :
    (relayOff s).pending = s.pending ∧
    (relayOff s).iris.stop = s.iris.stop ∧
    (relayOff s).iris.target = s.iris.target := by
  unfold relayOff
  exact ⟨foldl_keep (·.pending) _ (fun t j => (takeDown_kept t j (dropPorts · j) (by simp) (by simp) (by simp)).1) _ _,
    foldl_keep (·.iris.stop) _ (fun t j => (takeDown_kept t j (dropPorts · j) (by simp) (by simp) (by simp)).2.1) _ _,
    foldl_keep (·.iris.target) _ (fun t j => (takeDown_kept t j (dropPorts · j) (by simp) (by simp) (by simp)).2.2) _ _⟩

@[simp] theorem sensorsOff_kept (s : State) :
    (sensorsOff s).pending = s.pending ∧
    (sensorsOff s).iris = s.iris := by
  unfold sensorsOff
  try dsimp only
  all_goals simp

@[simp] theorem dropStreams_kept (s : State) (c : Nat) :
    (dropStreams s c).pending = s.pending ∧
    (dropStreams s c).iris = s.iris := by
  unfold dropStreams
  try dsimp only
  all_goals simp

@[simp] theorem mediaOff_kept (s : State) :
    (mediaOff s).pending = s.pending ∧
    (mediaOff s).iris = s.iris := by
  unfold mediaOff
  try dsimp only
  all_goals simp

@[simp] theorem mainOff_kept (s : State) :
    (mainOff s).pending = s.pending ∧
    (mainOff s).iris.stop = s.iris.stop ∧
    (mainOff s).iris.target = s.iris.target := by
  unfold mainOff
  try dsimp only
  all_goals simp

@[simp] theorem powerOff_kept (s : State) (level : Nat) :
    (powerOff s level).pending = s.pending ∧
    (powerOff s level).iris.stop = s.iris.stop ∧
    (powerOff s level).iris.target = s.iris.target := by
  unfold powerOff
  try dsimp only
  repeat' split
  all_goals simp

/-! ### Tiles -/

@[simp] theorem traceTile_kept (s : State) (core tile spare cause : Nat) :
    (traceTile s core tile spare cause).pending = s.pending ∧
    (traceTile s core tile spare cause).iris = s.iris := by
  unfold traceTile
  try dsimp only
  all_goals simp

@[simp] theorem fenceTile_kept (s : State) (core tile : Nat) :
    (fenceTile s core tile).pending = s.pending ∧
    (fenceTile s core tile).iris = s.iris := by
  unfold fenceTile
  try dsimp only
  all_goals simp

@[simp] theorem remapContext_kept (s : State) (c : Nat) :
    (remapContext s c).pending = s.pending ∧
    (remapContext s c).iris.stop = s.iris.stop ∧
    (remapContext s c).iris.target = s.iris.target := by
  unfold remapContext
  try dsimp only
  all_goals simp

@[simp] theorem remap_kept (s : State) (core tile l edge : Nat) :
    (remap s core tile l edge).pending = s.pending ∧
    (remap s core tile l edge).iris.stop = s.iris.stop ∧
    (remap s core tile l edge).iris.target = s.iris.target := by
  unfold remap
  try dsimp only
  all_goals simp

@[simp] theorem takeLost_kept (s : State) (e : Nat) :
    (takeLost s e).pending = s.pending ∧
    (takeLost s e).iris = s.iris := by
  unfold takeLost
  try dsimp only
  all_goals simp

@[simp] theorem loseEngine_kept (s : State) (core tile l : Nat) :
    (loseEngine s core tile l).pending = s.pending ∧
    (loseEngine s core tile l).iris.stop = s.iris.stop ∧
    (loseEngine s core tile l).iris.target = s.iris.target := by
  unfold loseEngine
  try dsimp only
  all_goals simp

@[simp] theorem afterRemap_kept (s : State) (c : Nat) :
    (afterRemap s c).pending = s.pending ∧
    (afterRemap s c).iris = s.iris := by
  unfold afterRemap
  try dsimp only
  repeat' split
  all_goals simp

/-! ### Startup -/

@[simp] theorem adoptEntry_kept (s : State) :
    (adoptEntry s).pending = s.pending ∧
    (adoptEntry s).iris = s.iris := by
  unfold adoptEntry
  try dsimp only
  repeat' split
  all_goals simp

@[simp] theorem copyShadow_kept (s : State) (n iface : Nat) :
    (copyShadow s n iface).pending = s.pending ∧
    (copyShadow s n iface).iris = s.iris := by
  unfold copyShadow
  try dsimp only
  all_goals simp

@[simp] theorem completeShadow_kept (s : State) :
    (completeShadow s).pending = s.pending ∧
    (completeShadow s).iris = s.iris := by
  unfold completeShadow
  try dsimp only
  repeat' split
  all_goals simp

@[simp] theorem wardenStep_kept (s : State) (x : ColdStart) :
    (wardenStep s x).pending = s.pending ∧
    (wardenStep s x).iris = s.iris := by
  unfold wardenStep
  try dsimp only
  all_goals simp

@[simp] theorem raiseMinimum_kept (s : State) (v : Nat) :
    (raiseMinimum s v).pending = s.pending ∧
    (raiseMinimum s v).iris = s.iris := by
  unfold raiseMinimum
  try dsimp only
  repeat' split
  all_goals simp

@[simp] theorem takeImage_kept (s : State) (n : Nat) (v : ImageSlot) :
    (takeImage s n v).pending = s.pending ∧
    (takeImage s n v).iris = s.iris := by
  unfold takeImage
  try dsimp only
  all_goals simp

@[simp] theorem maskRomService_kept (s : State) :
    (maskRomService s).pending = s.pending ∧
    (maskRomService s).iris = s.iris := by
  unfold maskRomService
  try dsimp only
  all_goals simp

@[simp] theorem collimateAfter_kept (s : State) (fails : Nat) :
    (collimateAfter s fails).pending = s.pending ∧
    (collimateAfter s fails).iris = s.iris := by
  unfold collimateAfter
  try dsimp only
  all_goals simp

@[simp] theorem collimateFailed_kept (s : State) :
    (collimateFailed s).pending = s.pending ∧
    (collimateFailed s).iris = s.iris := by
  unfold collimateFailed
  try dsimp only
  all_goals simp

@[simp] theorem dramFailed_kept (s : State) (ch : Nat) :
    (dramFailed s ch).pending = s.pending ∧
    (dramFailed s ch).iris = s.iris := by
  unfold dramFailed
  try dsimp only
  all_goals simp

@[simp] theorem selfTest_kept (pass : BitVec 80) (s : State) (k : Nat) :
    (selfTest pass s k).pending = s.pending ∧
    (selfTest pass s k).iris = s.iris := by
  unfold selfTest
  try dsimp only
  all_goals simp

@[simp] theorem listen_kept (s : State) :
    (listen s).pending = s.pending ∧
    (listen s).iris = s.iris := by
  unfold listen
  try dsimp only
  repeat' split
  all_goals simp

@[simp] theorem installFacet_kept (s : State) (f : Facet) (n : Nat) :
    (installFacet s f n).pending = s.pending ∧
    (installFacet s f n).iris.stop = s.iris.stop ∧
    (installFacet s f n).iris.target = s.iris.target := by
  unfold installFacet
  try dsimp only
  all_goals simp

@[simp] theorem startContext_kept (s : State) (c : Nat) :
    (startContext s c).pending = s.pending ∧
    (startContext s c).iris = s.iris := by
  have key : ((((grantShares s c (ctxOf s c).record).getD s).pending = s.pending ∧
    ((grantShares s c (ctxOf s c).record).getD s).iris = s.iris)) := by
    cases h : grantShares s c (ctxOf s c).record with
    | none => simp
    | some t => simpa using grantShares_kept _ _ _ _ h
  unfold startContext
  dsimp only
  repeat' split
  all_goals first
    | exact key
    | simp

@[simp] theorem bootAddresses_kept (s : State) :
    (bootAddresses s).pending = s.pending ∧
    (bootAddresses s).iris = s.iris := by
  unfold bootAddresses
  exact ⟨foldl_pending _ _ _ fun _ _ => rfl, foldl_iris _ _ _ fun _ _ => rfl⟩

@[simp] theorem driveMclk_kept (s : State) :
    (driveMclk s).pending = s.pending ∧
    (driveMclk s).iris = s.iris := ⟨rfl, rfl⟩

@[simp] theorem stepSix_kept (s : State) (x : ColdStart) :
    (stepSix s x).pending = s.pending := by
  unfold stepSix
  try dsimp only
  repeat' split
  all_goals simp

@[simp] theorem selectFacet_kept (s : State) (n iface : Nat) :
    (selectFacet s n iface).pending = s.pending ∧
    (selectFacet s n iface).iris = s.iris := by
  unfold selectFacet
  try dsimp only
  repeat' split
  all_goals simp

@[simp] theorem tearAffected_kept (g : Facet) (s : State) (c : Nat) :
    (tearAffected g s c).pending = s.pending ∧
    (tearAffected g s c).iris.stop = s.iris.stop ∧
    (tearAffected g s c).iris.target = s.iris.target := by
  unfold tearAffected
  try dsimp only
  repeat' split
  all_goals simp

@[simp] theorem changeLix_kept (s : State) (f g : TimingCfg) :
    (changeLix s f g).pending = s.pending ∧
    (changeLix s f g).iris = s.iris := by
  unfold changeLix
  try dsimp only
  repeat' split
  all_goals simp

@[simp] theorem changeIris_kept (s : State) (f g : TimingCfg) :
    (changeIris s f g).pending = s.pending ∧
    (changeIris s f g).iris.stop = s.iris.stop ∧
    (changeIris s f g).iris.target = s.iris.target := by
  unfold changeIris
  dsimp only
  repeat' split
  all_goals simp [changeCapacity]

@[simp] theorem changePort_kept (f g : Facet) (s : State) (p : Nat) :
    (changePort f g s p).pending = s.pending ∧
    (changePort f g s p).iris = s.iris := by
  unfold changePort
  try dsimp only
  repeat' split
  all_goals simp

@[simp] theorem changeCci_kept (f g : Facet) (s : State) (n : Nat) :
    (changeCci f g s n).pending = s.pending ∧
    (changeCci f g s n).iris = s.iris := by
  unfold changeCci
  try dsimp only
  repeat' split
  all_goals simp

@[simp] theorem changeIsland_kept (s : State) (f g : IslandCfg) :
    (changeIsland s f g).pending = s.pending ∧
    (changeIsland s f g).iris = s.iris := by
  unfold changeIsland
  try dsimp only
  repeat' split
  all_goals simp

@[simp] theorem changeNets_kept (s : State) (g : Facet) :
    (changeNets s g).pending = s.pending ∧
    (changeNets s g).iris = s.iris := by
  unfold changeNets
  try dsimp only
  repeat' split
  all_goals simp

@[simp] theorem reform_kept (s : State) (f g : Facet) :
    (reform s f g).pending = s.pending ∧
    (reform s f g).iris = s.iris := by
  unfold reform
  try dsimp only
  repeat' split
  all_goals simp

@[simp] theorem applyFacet_kept (s : State) (n : Nat) (g : Facet) (iface : Nat) :
    (applyFacet s n g iface).pending = s.pending ∧
    (applyFacet s n g iface).iris.stop = s.iris.stop ∧
    (applyFacet s n g iface).iris.target = s.iris.target := by
  unfold applyFacet
  try dsimp only
  repeat' split
  all_goals simp

/-! ### Bus -/

@[simp] theorem changeReg_kept (s : State) (i : Iface) (a : Nat) (t : State) :
    (changeReg s i a t).pending = t.pending ∧
    (changeReg s i a t).iris = t.iris := by
  unfold changeReg
  split <;> simp

@[simp] theorem actReg_kept (s : State) (i : Iface) (a value : Nat) :
    (actReg s i a value).pending = s.pending ∧
    (actReg s i a value).iris = s.iris := by
  unfold actReg
  try dsimp only
  all_goals simp

@[simp] theorem writeSource_kept (i : Iface) (value : Nat) (s : State) :
    (writeSource i value s).2.pending = s.pending ∧
    (writeSource i value s).2.iris = s.iris := by
  unfold writeSource
  try dsimp only
  repeat' split
  all_goals simp

@[simp] theorem writeDivider_kept (i : Iface) (value : Nat) (s : State) :
    (writeDivider i value s).2.pending = s.pending ∧
    (writeDivider i value s).2.iris = s.iris := by
  unfold writeDivider
  try dsimp only
  repeat' split
  all_goals simp

@[simp] theorem writePeriod_kept (i : Iface) (value : Nat) (s : State) :
    (writePeriod i value s).2.pending = s.pending ∧
    (writePeriod i value s).2.iris = s.iris := by
  unfold writePeriod
  try dsimp only
  all_goals simp

@[simp] theorem writeLixStatus_kept (i : Iface) (value : Nat) (s : State) :
    (writeLixStatus i value s).2.pending = s.pending ∧
    (writeLixStatus i value s).2.iris = s.iris := by
  unfold writeLixStatus
  try dsimp only
  repeat' split
  all_goals simp

@[simp] theorem writeFacet_kept (i : Iface) (value : Nat) (s : State) :
    (writeFacet i value s).2.pending = s.pending ∧
    (writeFacet i value s).2.iris = s.iris := by
  unfold writeFacet
  try dsimp only
  repeat' split
  all_goals simp

@[simp] theorem clearCounters_kept (s : State) :
    (clearCounters s).pending = s.pending ∧
    (clearCounters s).iris.stop = s.iris.stop ∧
    (clearCounters s).iris.target = s.iris.target := by
  unfold clearCounters
  try dsimp only
  all_goals simp

@[simp] theorem writeCounters_kept (i : Iface) (value : Nat) (s : State) :
    (writeCounters i value s).2.pending = s.pending ∧
    (writeCounters i value s).2.iris.stop = s.iris.stop ∧
    (writeCounters i value s).2.iris.target = s.iris.target := by
  unfold writeCounters
  try dsimp only
  repeat' split
  all_goals simp

@[simp] theorem writeReset_kept (i : Iface) (value : Nat) (s : State) :
    (writeReset i value s).2.pending = s.pending ∧
    (writeReset i value s).2.iris = s.iris := by
  unfold writeReset
  try dsimp only
  repeat' split
  all_goals simp

@[simp] theorem writeLimit_kept (i : Iface) (value : Nat) (s : State) :
    (writeLimit i value s).2.pending = s.pending ∧
    (writeLimit i value s).2.iris.stop = s.iris.stop ∧
    (writeLimit i value s).2.iris.target = s.iris.target := by
  unfold writeLimit
  try dsimp only
  all_goals simp

@[simp] theorem writeWakeLo_kept (i : Iface) (value : Nat) (s : State) :
    (writeWakeLo i value s).2.pending = s.pending ∧
    (writeWakeLo i value s).2.iris.stop = s.iris.stop ∧
    (writeWakeLo i value s).2.iris.target = s.iris.target := by
  unfold writeWakeLo
  try dsimp only
  all_goals simp

@[simp] theorem writeWakeHi_kept (i : Iface) (value : Nat) (s : State) :
    (writeWakeHi i value s).2.pending = s.pending ∧
    (writeWakeHi i value s).2.iris.stop = s.iris.stop ∧
    (writeWakeHi i value s).2.iris.target = s.iris.target := by
  unfold writeWakeHi
  try dsimp only
  all_goals simp

@[simp] theorem takeTheta_kept (v : Nat) (s : State) (e : Nat) :
    (takeTheta v s e).pending = s.pending ∧
    (takeTheta v s e).iris = s.iris := by
  unfold takeTheta
  try dsimp only
  repeat' split
  all_goals simp

@[simp] theorem writeTheta_kept (i : Iface) (c value : Nat) (s : State) :
    (writeTheta i c value s).2.pending = s.pending ∧
    (writeTheta i c value s).2.iris = s.iris := by
  unfold writeTheta
  try dsimp only
  all_goals simp

@[simp] theorem stopContext_kept (i : Iface) (c : Nat) (s : State) :
    (stopContext i c s).2.pending = s.pending ∧
    (stopContext i c s).2.iris = s.iris := by
  unfold stopContext
  try dsimp only
  repeat' split
  all_goals simp

@[simp] theorem resumeContext_kept (i : Iface) (c : Nat) (s : State) :
    (resumeContext i c s).2.pending = s.pending ∧
    (resumeContext i c s).2.iris = s.iris := by
  unfold resumeContext
  try dsimp only
  repeat' split
  all_goals simp

@[simp] theorem unloadContext_kept (i : Iface) (c : Nat) (s : State) :
    (unloadContext i c s).2.pending = s.pending ∧
    (unloadContext i c s).2.iris = s.iris := by
  unfold unloadContext
  try dsimp only
  repeat' split
  all_goals simp

@[simp] theorem loadContext_kept (i : Iface) (c : Nat) (s : State) :
    (loadContext i c s).2.pending = s.pending ∧
    (loadContext i c s).2.iris = s.iris := by
  unfold loadContext
  dsimp only
  repeat' split
  · simp
  · simp
  · simp
  · next t h => simp [grantShares_kept _ _ _ _ h]

theorem controlBit_kept (value k : Nat) (f : State → Nat × State) (r : Nat × State) (s : State)
    (hf : ∀ t, (f t).2.pending = t.pending ∧
    (f t).2.iris = t.iris)
    (hr : r.2.pending = s.pending ∧
    r.2.iris = s.iris) :
    (controlBit value k f r).2.pending = s.pending ∧
    (controlBit value k f r).2.iris = s.iris := by
  unfold controlBit
  split
  · simpa [hr] using hf r.2
  · exact hr

@[simp] theorem writeControl_kept (i : Iface) (c value : Nat) (s : State) :
    (writeControl i c value s).2.pending = s.pending ∧
    (writeControl i c value s).2.iris = s.iris := by
  unfold writeControl
  exact controlBit_kept _ _ _ _ _ (by simp) (controlBit_kept _ _ _ _ _ (by simp) (controlBit_kept _ _ _ _ _ (by simp)
    (controlBit_kept _ _ _ _ _ (by simp) ⟨rfl, rfl⟩)))

@[simp] theorem writeCtxRecord_kept (i : Iface) (a value : Nat) (s : State) :
    (writeCtxRecord i a value s).2.pending = s.pending ∧
    (writeCtxRecord i a value s).2.iris = s.iris := by
  unfold writeCtxRecord
  try dsimp only
  all_goals simp

@[simp] theorem writeLedger_kept (i : Iface) (value : Nat) (s : State) :
    (writeLedger i value s).2.pending = s.pending ∧
    (writeLedger i value s).2.iris = s.iris := by
  unfold writeLedger
  try dsimp only
  all_goals simp

@[simp] theorem writeGlint_kept (i : Iface) (value : Nat) (s : State) :
    (writeGlint i value s).2.pending = s.pending ∧
    (writeGlint i value s).2.iris = s.iris := by
  unfold writeGlint
  try dsimp only
  repeat' split
  all_goals simp

@[simp] theorem retrainPorts_kept (i : Iface) (ports : Nat) (s : State) :
    (retrainPorts i ports s).2.pending = s.pending ∧
    (retrainPorts i ports s).2.iris.stop = s.iris.stop ∧
    (retrainPorts i ports s).2.iris.target = s.iris.target := by
  unfold retrainPorts
  dsimp only
  split
  · simp
  · simp only [actReg_kept]
    exact ⟨foldl_keep (·.pending) _ (by intro t x; split <;> simp) _ _,
    foldl_keep (·.iris.stop) _ (by intro t x; split <;> simp) _ _,
    foldl_keep (·.iris.target) _ (by intro t x; split <;> simp) _ _⟩

@[simp] theorem cutParts_kept (i : Iface) (parts : Nat) (s : State) :
    (cutParts i parts s).2.pending = s.pending ∧
    (cutParts i parts s).2.iris.stop = s.iris.stop ∧
    (cutParts i parts s).2.iris.target = s.iris.target := by
  unfold cutParts
  split
  · simp
  · simp only [actReg_kept]
    exact ⟨foldl_keep (·.pending) _ (by intro t x; split <;> simp) _ _,
    foldl_keep (·.iris.stop) _ (by intro t x; split <;> simp) _ _,
    foldl_keep (·.iris.target) _ (by intro t x; split <;> simp) _ _⟩

@[simp] theorem writeRelay_kept (i : Iface) (value : Nat) (s : State) :
    (writeRelay i value s).2.pending = s.pending ∧
    (writeRelay i value s).2.iris.stop = s.iris.stop ∧
    (writeRelay i value s).2.iris.target = s.iris.target := by
  unfold writeRelay
  try dsimp only
  all_goals simp

@[simp] theorem writeDestIp_kept (i : Iface) (value : Nat) (s : State) :
    (writeDestIp i value s).2.pending = s.pending ∧
    (writeDestIp i value s).2.iris = s.iris := by
  unfold writeDestIp
  try dsimp only
  all_goals simp

@[simp] theorem writeDest_kept (i : Iface) (value : Nat) (s : State) :
    (writeDest i value s).2.pending = s.pending ∧
    (writeDest i value s).2.iris = s.iris := by
  unfold writeDest
  try dsimp only
  all_goals simp

@[simp] theorem writeTail_kept (i : Iface) (value : Nat) (s : State) :
    (writeTail i value s).2.pending = s.pending ∧
    (writeTail i value s).2.iris = s.iris := by
  unfold writeTail
  try dsimp only
  repeat' split
  all_goals simp

@[simp] theorem writeMask_kept (i : Iface) (value : Nat) (s : State) :
    (writeMask i value s).2.pending = s.pending ∧
    (writeMask i value s).2.iris = s.iris := by
  unfold writeMask
  try dsimp only
  all_goals simp

@[simp] theorem writeEventAddr_kept (i : Iface) (value : Nat) (s : State) :
    (writeEventAddr i value s).2.pending = s.pending ∧
    (writeEventAddr i value s).2.iris = s.iris := by
  unfold writeEventAddr
  try dsimp only
  all_goals simp

@[simp] theorem writeFlashAddr_kept (i : Iface) (value : Nat) (s : State) :
    (writeFlashAddr i value s).2.pending = s.pending ∧
    (writeFlashAddr i value s).2.iris = s.iris := by
  unfold writeFlashAddr
  try dsimp only
  all_goals simp

@[simp] theorem writeFlashData_kept (i : Iface) (value : Nat) (s : State) :
    (writeFlashData i value s).2.pending = s.pending ∧
    (writeFlashData i value s).2.iris = s.iris := by
  unfold writeFlashData
  try dsimp only
  all_goals simp

@[simp] theorem flashRead_kept (i : Iface) (s : State) :
    (flashRead i s).2.pending = s.pending ∧
    (flashRead i s).2.iris = s.iris := by
  unfold flashRead
  try dsimp only
  all_goals simp

@[simp] theorem journalFlash_kept (s : State) (i : Iface) (before : Nat) :
    (journalFlash s i before).pending = s.pending ∧
    (journalFlash s i before).iris = s.iris := by
  unfold journalFlash
  try dsimp only
  all_goals simp

@[simp] theorem flashProgram_kept (i : Iface) (s : State) :
    (flashProgram i s).2.pending = s.pending ∧
    (flashProgram i s).2.iris = s.iris := by
  unfold flashProgram
  try dsimp only
  all_goals simp

@[simp] theorem flashErase_kept (i : Iface) (s : State) :
    (flashErase i s).2.pending = s.pending ∧
    (flashErase i s).2.iris = s.iris := by
  unfold flashErase
  try dsimp only
  all_goals simp

@[simp] theorem writeFlash_kept (i : Iface) (value : Nat) (s : State) :
    (writeFlash i value s).2.pending = s.pending ∧
    (writeFlash i value s).2.iris = s.iris := by
  unfold writeFlash
  try dsimp only
  repeat' split
  all_goals simp

@[simp] theorem writeStageAddr_kept (i : Iface) (value : Nat) (s : State) :
    (writeStageAddr i value s).2.pending = s.pending ∧
    (writeStageAddr i value s).2.iris = s.iris := by
  unfold writeStageAddr
  try dsimp only
  all_goals simp

@[simp] theorem writeStageData_kept (i : Iface) (value : Nat) (s : State) :
    (writeStageData i value s).2.pending = s.pending ∧
    (writeStageData i value s).2.iris = s.iris := by
  unfold writeStageData
  try dsimp only
  repeat' split
  all_goals simp

@[simp] theorem refuseNvs_kept (s : State) (st : Nat) :
    (refuseNvs s st).2.pending = s.pending ∧
    (refuseNvs s st).2.iris = s.iris := by
  unfold refuseNvs
  try dsimp only
  all_goals simp

@[simp] theorem beginJob_kept (s : State) (i : Iface) (op index : Nat) (data : List Byte) :
    (beginJob s i op index data).2.pending = s.pending ∧
    (beginJob s i op index data).2.iris = s.iris := by
  unfold beginJob
  try dsimp only
  all_goals simp

@[simp] theorem storeFacet_kept (i : Iface) (n : Nat) (s : State) :
    (storeFacet i n s).2.pending = s.pending ∧
    (storeFacet i n s).2.iris = s.iris := by
  unfold storeFacet
  try dsimp only
  repeat' split
  all_goals simp

@[simp] theorem enrolKey_kept (i : Iface) (n : Nat) (s : State) :
    (enrolKey i n s).2.pending = s.pending ∧
    (enrolKey i n s).2.iris = s.iris := by
  unfold enrolKey
  try dsimp only
  repeat' split
  all_goals simp

@[simp] theorem revokeKey_kept (i : Iface) (n : Nat) (s : State) :
    (revokeKey i n s).2.pending = s.pending ∧
    (revokeKey i n s).2.iris = s.iris := by
  unfold revokeKey
  try dsimp only
  repeat' split
  all_goals simp

@[simp] theorem storeBoot_kept (i : Iface) (s : State) :
    (storeBoot i s).2.pending = s.pending ∧
    (storeBoot i s).2.iris = s.iris := by
  unfold storeBoot
  try dsimp only
  repeat' split
  all_goals simp

@[simp] theorem writeNvs_kept (i : Iface) (value : Nat) (s : State) :
    (writeNvs i value s).2.pending = s.pending ∧
    (writeNvs i value s).2.iris = s.iris := by
  unfold writeNvs
  try dsimp only
  repeat' split
  all_goals simp

@[simp] theorem writeCertAddr_kept (i : Iface) (value : Nat) (s : State) :
    (writeCertAddr i value s).2.pending = s.pending ∧
    (writeCertAddr i value s).2.iris = s.iris := by
  unfold writeCertAddr
  try dsimp only
  all_goals simp

@[simp] theorem writeDigestCtx_kept (i : Iface) (value : Nat) (s : State) :
    (writeDigestCtx i value s).2.pending = s.pending ∧
    (writeDigestCtx i value s).2.iris = s.iris := by
  unfold writeDigestCtx
  try dsimp only
  all_goals simp

@[simp] theorem writeTraceAddr_kept (i : Iface) (value : Nat) (s : State) :
    (writeTraceAddr i value s).2.pending = s.pending ∧
    (writeTraceAddr i value s).2.iris = s.iris := by
  unfold writeTraceAddr
  try dsimp only
  all_goals simp

@[simp] theorem writeReplayCtrl_kept (i : Iface) (value : Nat) (s : State) :
    (writeReplayCtrl i value s).2.pending = s.pending ∧
    (writeReplayCtrl i value s).2.iris = s.iris := by
  unfold writeReplayCtrl
  dsimp only
  simp only [changeReg_kept]
  exact ⟨foldl_pending _ _ _ fun _ _ => rfl, foldl_iris _ _ _ fun _ _ => rfl⟩

@[simp] theorem writeReplayData_kept (i : Iface) (value : Nat) (s : State) :
    (writeReplayData i value s).2.pending = s.pending ∧
    (writeReplayData i value s).2.iris = s.iris := by
  unfold writeReplayData
  try dsimp only
  repeat' split
  all_goals simp

@[simp] theorem writeMark_kept (i : Iface) (value : Nat) (s : State) :
    (writeMark i value s).2.pending = s.pending ∧
    (writeMark i value s).2.iris = s.iris := by
  unfold writeMark
  try dsimp only
  all_goals simp

@[simp] theorem writeMarkS3_kept (i : Iface) (value : Nat) (s : State) :
    (writeMarkS3 i value s).2.pending = s.pending ∧
    (writeMarkS3 i value s).2.iris = s.iris := by
  unfold writeMarkS3
  try dsimp only
  all_goals simp

@[simp] theorem resumeBroken_kept (s : State) :
    (resumeBroken s).pending = s.pending ∧
    (resumeBroken s).iris = s.iris := by
  unfold resumeBroken
  try dsimp only
  repeat' split
  all_goals simp

@[simp] theorem resumeBreak_kept (i : Iface) (s : State) :
    (resumeBreak i s).2.pending = s.pending ∧
    (resumeBreak i s).2.iris = s.iris := by
  unfold resumeBreak
  try dsimp only
  repeat' split
  all_goals simp

@[simp] theorem armBreak_kept (i : Iface) (value : Nat) (s : State) :
    (armBreak i value s).2.pending = s.pending ∧
    (armBreak i value s).2.iris = s.iris := by
  unfold armBreak
  try dsimp only
  all_goals simp

@[simp] theorem writeBreak_kept (i : Iface) (value : Nat) (s : State) :
    (writeBreak i value s).2.pending = s.pending ∧
    (writeBreak i value s).2.iris = s.iris := by
  unfold writeBreak
  try dsimp only
  repeat' split
  all_goals simp

@[simp] theorem writePeekAddr_kept (i : Iface) (value : Nat) (s : State) :
    (writePeekAddr i value s).2.pending = s.pending ∧
    (writePeekAddr i value s).2.iris = s.iris := by
  unfold writePeekAddr
  try dsimp only
  all_goals simp

@[simp] theorem writeCtxBlock_kept (i : Iface) (a value : Nat) (s : State) :
    (writeCtxBlock i a value s).2.pending = s.pending ∧
    (writeCtxBlock i a value s).2.iris = s.iris := by
  unfold writeCtxBlock
  try dsimp only
  repeat' split
  all_goals simp

@[simp] theorem regWrite_kept (i : Iface) (a value : Nat) (s : State) :
    (regWrite i a value s).2.pending = s.pending ∧
    (regWrite i a value s).2.iris.stop = s.iris.stop ∧
    (regWrite i a value s).2.iris.target = s.iris.target := by
  unfold regWrite
  try dsimp only
  repeat' split
  all_goals simp

@[simp] theorem captureLine_kept (s : State) :
    (captureLine s).pending = s.pending ∧
    (captureLine s).iris = s.iris := by
  unfold captureLine
  try dsimp only
  all_goals simp

@[simp] theorem capturePosition_kept (s : State) :
    (capturePosition s).pending = s.pending ∧
    (capturePosition s).iris = s.iris := by
  unfold capturePosition
  try dsimp only
  all_goals simp

@[simp] theorem stepEvent_kept (s : State) :
    (stepEvent s).pending = s.pending ∧
    (stepEvent s).iris = s.iris := by
  unfold stepEvent
  try dsimp only
  all_goals simp

@[simp] theorem stepStage_kept (s : State) :
    (stepStage s).pending = s.pending ∧
    (stepStage s).iris = s.iris := by
  unfold stepStage
  try dsimp only
  all_goals simp

@[simp] theorem stepCert_kept (s : State) :
    (stepCert s).pending = s.pending ∧
    (stepCert s).iris = s.iris := by
  unfold stepCert
  try dsimp only
  all_goals simp

@[simp] theorem captureChain_kept (s : State) :
    (captureChain s).pending = s.pending ∧
    (captureChain s).iris = s.iris := by
  unfold captureChain
  try dsimp only
  all_goals simp

@[simp] theorem stepTrace_kept (s : State) :
    (stepTrace s).pending = s.pending ∧
    (stepTrace s).iris = s.iris := by
  unfold stepTrace
  try dsimp only
  all_goals simp

@[simp] theorem stepPeek_kept (s : State) :
    (stepPeek s).pending = s.pending ∧
    (stepPeek s).iris = s.iris := by
  unfold stepPeek
  exact ⟨rfl, rfl⟩

@[simp] theorem readEffect_kept (s : State) (a : Nat) :
    (readEffect s a).pending = s.pending ∧
    (readEffect s a).iris = s.iris := by
  unfold readEffect
  try dsimp only
  repeat' split
  all_goals simp

@[simp] theorem regRead_kept (s : State) (a : Nat) :
    (regRead s a).2.pending = s.pending ∧
    (regRead s a).2.iris = s.iris := by
  unfold regRead
  try dsimp only
  repeat' split
  all_goals simp

/-! ### Frames -/

@[simp] theorem sendReply_kept (s : State) (i : Iface) (op status request : Nat) (payload : List Byte) :
    (sendReply s i op status request payload).pending = s.pending ∧
    (sendReply s i op status request payload).iris = s.iris := by
  unfold sendReply
  try dsimp only
  all_goals simp

@[simp] theorem readAll_kept (s : State) (l : List Nat) :
    (readAll s l).2.pending = s.pending ∧
    (readAll s l).2.iris = s.iris := by
  induction l generalizing s with
  | nil => exact ⟨rfl, rfl⟩
  | cons a r ih => simp [readAll, ih]

@[simp] theorem readFrame_kept (i : Iface) (l : List Byte) (s : State) :
    (readFrame i l s).pending = s.pending ∧
    (readFrame i l s).iris = s.iris := by
  unfold readFrame
  dsimp only
  split <;> simp

@[simp] theorem postFrame_kept (i : Iface) (l : List Byte) (s : State) :
    (postFrame i l s).pending = s.pending ∧
    (postFrame i l s).iris = s.iris := by
  unfold postFrame
  try dsimp only
  repeat' split
  all_goals simp

@[simp] theorem stageFrame_kept (i : Iface) (l : List Byte) (s : State) :
    (stageFrame i l s).pending = s.pending ∧
    (stageFrame i l s).iris = s.iris := by
  unfold stageFrame
  try dsimp only
  repeat' split
  all_goals simp

@[simp] theorem attestFrame_kept (i : Iface) (l : List Byte) (s : State) :
    (attestFrame i l s).pending = s.pending ∧
    (attestFrame i l s).iris = s.iris := by
  unfold attestFrame
  try dsimp only
  repeat' split
  all_goals simp

@[simp] theorem endJob_kept (s : State) (st : Nat) :
    (endJob s st).pending = s.pending ∧
    (endJob s st).iris = s.iris := by
  unfold endJob
  try dsimp only
  all_goals simp

@[simp] theorem finishFacet_kept (s : State) (j : NvsJob) :
    (finishFacet s j).pending = s.pending ∧
    (finishFacet s j).iris = s.iris := by
  unfold finishFacet
  try dsimp only
  repeat' split
  all_goals simp

@[simp] theorem finishEnrol_kept (s : State) (j : NvsJob) :
    (finishEnrol s j).pending = s.pending ∧
    (finishEnrol s j).iris = s.iris := by
  unfold finishEnrol
  try dsimp only
  all_goals simp

@[simp] theorem finishRevoke_kept (s : State) (j : NvsJob) :
    (finishRevoke s j).pending = s.pending ∧
    (finishRevoke s j).iris = s.iris := by
  unfold finishRevoke
  try dsimp only
  repeat' split
  all_goals simp

@[simp] theorem finishBoot_kept (s : State) (j : NvsJob) :
    (finishBoot s j).pending = s.pending ∧
    (finishBoot s j).iris = s.iris := by
  unfold finishBoot
  try dsimp only
  repeat' split
  all_goals simp

@[simp] theorem upkeepFrame_kept (s : State) (p : Nat) (f : NetFrame) :
    (upkeepFrame s p f).pending = s.pending ∧
    (upkeepFrame s p f).iris = s.iris := by
  unfold upkeepFrame
  try dsimp only
  repeat' split
  all_goals simp

/-! ### Scrub -/

@[simp] theorem scrubWord_kept (s : State) (c : Nat) (k : StoreKind) (w : Nat) (core : Nat) :
    (scrubWord s c k w core).pending = s.pending ∧
    (scrubWord s c k w core).iris = s.iris := by
  unfold scrubWord
  try dsimp only
  repeat' split
  all_goals simp

@[simp] theorem scrubBank_kept (s : State) (c engine w : Nat) :
    (scrubBank s c engine w).pending = s.pending ∧
    (scrubBank s c engine w).iris = s.iris := by
  unfold scrubBank
  try dsimp only
  repeat' split
  all_goals simp

theorem scrubPart_kept (s : State) (code w : Nat) (up : Table (BitVec 144)) (rewrites : Bool) (fix : State → State)
    (h : ∀ t, (fix t).pending = t.pending ∧ (fix t).iris = t.iris) :
    (scrubPart s code w up rewrites fix).pending = s.pending ∧
    (scrubPart s code w up rewrites fix).iris = s.iris := by
  unfold scrubPart
  dsimp only
  repeat' split
  all_goals simp [h]

@[simp] theorem fixLine_kept (s : State) (p w : Nat) :
    (fixLine s p w).pending = s.pending ∧
    (fixLine s p w).iris = s.iris := by
  unfold fixLine
  try dsimp only
  repeat' split
  all_goals simp

@[simp] theorem fixRing_kept (s : State) (w : Nat) :
    (fixRing s w).pending = s.pending ∧
    (fixRing s w).iris = s.iris := by
  unfold fixRing
  simp only [and_self]

@[simp] theorem fixGlint_kept (s : State) (active : Bool) (w : Nat) :
    (fixGlint s active w).pending = s.pending ∧
    (fixGlint s active w).iris = s.iris := by
  unfold fixGlint
  try dsimp only
  repeat' split
  all_goals simp

@[simp] theorem scrubGlint_kept (s : State) (active : Bool) (w : Nat) :
    (scrubGlint s active w).pending = s.pending ∧
    (scrubGlint s active w).iris = s.iris := by
  unfold scrubGlint
  try dsimp only
  repeat' split
  all_goals simp

@[simp] theorem scrubOwn_kept (s : State) (k : StoreKind) (index w : Nat) :
    (scrubOwn s k index w).pending = s.pending ∧
    (scrubOwn s k index w).iris = s.iris := by
  unfold scrubOwn
  repeat' split
  all_goals first | exact scrubPart_kept _ _ _ _ _ _ (fun t => by simp) | simp

@[simp] theorem scrubFree_kept (s : State) (k : StoreKind) (step w : Nat) :
    (scrubFree s k step w).pending = s.pending ∧
    (scrubFree s k step w).iris = s.iris := by
  unfold scrubFree
  try dsimp only
  repeat' split
  all_goals simp

@[simp] theorem endPass_kept (s : State) (k : StoreKind) (word : Nat) :
    (endPass s k word).pending = s.pending ∧
    (endPass s k word).iris = s.iris := by
  unfold endPass
  try dsimp only
  repeat' split
  all_goals simp

@[simp] theorem nextPage_kept (s : State) :
    (nextPage s).pending = s.pending ∧
    (nextPage s).iris = s.iris := by
  unfold nextPage
  try dsimp only
  repeat' split
  all_goals simp

@[simp] theorem skipPages_kept (n : Nat) (s : State) :
    (skipPages n s).pending = s.pending ∧
    (skipPages n s).iris = s.iris := by
  induction n generalizing s with
  | zero => simp [skipPages]
  | succ n ih =>
    unfold skipPages
    split <;> simp [ih]

@[simp] theorem scrubBlock_kept (s : State) (c first : Nat) :
    (scrubBlock s c first).pending = s.pending ∧
    (scrubBlock s c first).iris = s.iris := by
  unfold scrubBlock
  try dsimp only
  all_goals simp

@[simp] theorem scrubFreeBlock_kept (s : State) (p b : Nat) :
    (scrubFreeBlock s p b).pending = s.pending ∧
    (scrubFreeBlock s p b).iris = s.iris := by
  unfold scrubFreeBlock
  dsimp only
  split
  · simp
  · exact ⟨foldl_pending _ _ _ fun t w => (scrubPart_kept _ _ _ _ _ _ fun u => by simp).1,
      foldl_iris _ _ _ fun t w => (scrubPart_kept _ _ _ _ _ _ fun u => by simp).2⟩

/-! ### Media -/

@[simp] theorem unitPlanes_kept (s : State) (c a e : Nat) (planes : List (Nat × Nat)) (xs : List Int) :
    (unitPlanes s c a e planes xs).pending = s.pending ∧
    (unitPlanes s c a e planes xs).iris = s.iris := by
  unfold unitPlanes
  try dsimp only
  all_goals simp

@[simp] theorem decodeDeferred_kept (s : State) (c k : Nat) (d : Deferred) :
    (decodeDeferred s c k d).pending = s.pending ∧
    (decodeDeferred s c k d).iris = s.iris := by
  unfold decodeDeferred
  try dsimp only
  repeat' split
  all_goals simp

@[simp] theorem countDiscard_kept (s : State) :
    (countDiscard s).pending = s.pending ∧
    (countDiscard s).iris = s.iris := by
  unfold countDiscard
  try dsimp only
  all_goals simp

end Sys2Proof.Machine
end

