-- ==== Sys2Proof/Laws/Effects.lean ====
section
/-! SUPPORT. How a law of effects is put together: an effect that answers, or fails, keeps the queue and the governor when each
of its checks and reads does. -/

namespace Sys2Proof.Machine

open Sys2Proof

/-! ### Effects -/

theorem AnswerKept.bind {α β : Type} {r : Run} {run : α → Run} {run' : β → Run} {x : Except Fail α} {f : α → Except Fail β}
    (hx : AnswerKept r run x) (hf : ∀ a, x = .ok a → AnswerKept (run a) run' (f a)) : AnswerKept r run' (x >>= f) := by
  cases x with
  | error e => exact hx
  | ok a =>
    have h := hf a rfl
    show AnswerKept r run' (f a)
    revert h
    cases f a with
    | error e => exact fun h => RunKept.trans hx h
    | ok b => exact fun h => RunKept.trans hx h

theorem failed_kept {α : Type} (r : Run) (st : Nat) (run : α → Run) : AnswerKept r run (failed r st) := RunKept.refl r

theorem check_kept {α : Type} (r : Run) (x : Except Nat α) : AnswerKept r (fun _ => r) (check r x) := by
  cases x <;> exact RunKept.refl r

theorem need_kept (r : Run) (p : Bool) (st : Nat) : AnswerKept r (fun _ => r) (need r p st) := by
  unfold need
  split <;> exact RunKept.refl r

theorem reading_kept (r : Run) (v : View) : AnswerKept r (fun x => x.1) (reading r v) := by
  unfold reading
  split
  · next x h => exact readView_ok h
  · next q st h => exact readView_error h

theorem ok_kept {α : Type} (r : Run) (x : α) : AnswerKept r (fun _ => r) (.ok x) := RunKept.refl r

theorem readWords_kept (r : Run) (sp : Nat) (l : List Nat) :
    AnswerKept r (fun a => a.1) (match scanWords r sp l with
      | .ok x => .ok x
      | .error (q, st) => failed q st) := by
  split
  · next x hs => exact scanWords_ok hs
  · next q st hs => exact scanWords_error hs

theorem readNoted_kept (r : Run) (sp : Nat) (l : List Nat) :
    AnswerKept r (fun a => a.1) (match scanWords r sp l with
      | .ok (q, c) => .ok (noteReads q sp l, c)
      | .error (q, st) => failed q st) := by
  split
  · next q c hs => exact (scanWords_ok hs).trans ⟨by simp, by simp⟩
  · next q st hs => exact scanWords_error hs

theorem answer_ok {α : Type} {r : Run} {run : α → Run} {a : α} (h : RunKept r (run a)) : AnswerKept r run (.ok a) := h

theorem answer_error {α : Type} {r : Run} {run : α → Run} {f : Fail} (h : RunKept r f.r) : AnswerKept r run (.error f) := h

theorem pair_kept {r : Run} {x : Run × Bool} (h : RunKept r x.1) : AnswerKept r (fun a => a.1) (.ok x) := h

@[simp] theorem vectorAct_r (q : Run) (d : View) (c : Bool) (occ count rate : Nat) (reads : List (Nat × Nat × Nat)) (size : Nat) :
    (vectorAct q d c occ count rate reads size).r = q := rfl

@[simp] theorem textAct_r (q : Run) (status count size : Nat) (reads writes : List (Nat × Nat × Nat)) (d m : Option (BitVec 64)) :
    (textAct q status count size reads writes d m).r = q := rfl

theorem snd_kept {α : Type} {r : Run} {x : α × Run} (h : RunKept r x.2) : AnswerKept r (fun a => a.2) (.ok x) := h

theorem triple_kept {α : Type} {r : Run} {x : α × Run × Bool} (h : RunKept r x.2.1) : AnswerKept r (fun a => a.2.1) (.ok x) := h

theorem quad_kept {α β : Type} {r : Run} {x : α × β × Run × Bool} (h : RunKept r x.2.2.1) :
    AnswerKept r (fun a => a.2.2.1) (.ok x) := h

theorem AnswerKept.after {α : Type} {r q : Run} {run : α → Run} {x : Except Fail α} (h : RunKept r q) (k : AnswerKept q run x) :
    AnswerKept r run x := by
  cases x with
  | ok a => exact RunKept.trans h k
  | error f => exact RunKept.trans h k

end Sys2Proof.Machine
end

