-- ==== Sys2Proof/Laws/Issue.lean ====
section
/-! SUPPORT. What the position in the stream, the trace and the issue stage leave alone, said once for every instruction. -/

namespace Sys2Proof.Machine

open Sys2Proof

/-! ### Position in the stream -/

/-- Two instances that differ in their place in the stream and the index registers only. -/
def SamePlace (i j : Inst) : Prop :=
  j = { i with pc := j.pc, loops := j.loops, regs := j.regs }

theorem wrapLoops_same (n : Nat) (i : Inst) : SamePlace i (wrapLoops n i) := by
  induction n generalizing i with
  | zero => rfl
  | succ n ih =>
    unfold wrapLoops
    split
    · rfl
    · split
      · split
        · dsimp only
          split <;> rfl
        · exact (ih _).trans rfl
      · rfl

theorem nextPc_same (i : Inst) : SamePlace i (nextPc i) := (wrapLoops_same 5 { i with pc := i.pc + 1 }).trans rfl

theorem nextPc_eq (i : Inst) : nextPc i = { i with pc := (nextPc i).pc, loops := (nextPc i).loops, regs := (nextPc i).regs } :=
  nextPc_same i

@[simp] theorem nextPc_nextIssue (i : Inst) : (nextPc i).nextIssue = i.nextIssue := by rw [nextPc_eq i]
@[simp] theorem nextPc_cycles (i : Inst) : (nextPc i).cycles = i.cycles := by rw [nextPc_eq i]
@[simp] theorem nextPc_front (i : Inst) : (nextPc i).front = i.front := by rw [nextPc_eq i]
@[simp] theorem nextPc_energy (i : Inst) : (nextPc i).energy = i.energy := by rw [nextPc_eq i]
@[simp] theorem nextPc_staged (i : Inst) : (nextPc i).staged = i.staged := by rw [nextPc_eq i]
@[simp] theorem nextPc_wait (i : Inst) : (nextPc i).wait = i.wait := by rw [nextPc_eq i]
@[simp] theorem nextPc_failed (i : Inst) : (nextPc i).failed = i.failed := by rw [nextPc_eq i]
@[simp] theorem nextPc_origin (i : Inst) : (nextPc i).origin = i.origin := by rw [nextPc_eq i]
@[simp] theorem nextPc_engine (i : Inst) : (nextPc i).engine = i.engine := by rw [nextPc_eq i]
@[simp] theorem nextPc_queue (i : Inst) : (nextPc i).queue = i.queue := by rw [nextPc_eq i]
@[simp] theorem nextPc_holds (i : Inst) : (nextPc i).holds = i.holds := by rw [nextPc_eq i]
@[simp] theorem nextPc_posts (i : Inst) : (nextPc i).posts = i.posts := by rw [nextPc_eq i]
@[simp] theorem nextPc_credits (i : Inst) : (nextPc i).credits = i.credits := by rw [nextPc_eq i]
@[simp] theorem nextPc_calls (i : Inst) : (nextPc i).calls = i.calls := by rw [nextPc_eq i]
@[simp] theorem nextPc_late (i : Inst) : (nextPc i).late = i.late := by rw [nextPc_eq i]
@[simp] theorem nextPc_info (i : Inst) : (nextPc i).info = i.info := by rw [nextPc_eq i]
@[simp] theorem nextPc_digests (i : Inst) : (nextPc i).digests = i.digests := by rw [nextPc_eq i]
@[simp] theorem nextPc_allred (i : Inst) : (nextPc i).allred = i.allred := by rw [nextPc_eq i]
@[simp] theorem nextPc_received (i : Inst) : (nextPc i).received = i.received := by rw [nextPc_eq i]
@[simp] theorem nextPc_passed (i : Inst) : (nextPc i).passed = i.passed := by rw [nextPc_eq i]
@[simp] theorem nextPc_halted (i : Inst) : (nextPc i).halted = i.halted := by rw [nextPc_eq i]

/-- Outside a loop the next instruction in order follows. -/
theorem nextPc_flat (i : Inst) (h : i.loops = []) : nextPc i = { i with pc := i.pc + 1 } := by
  unfold nextPc wrapLoops
  simp [h]

/-! ### The trace -/

/-- The trace is all that has changed. -/
def TraceOnly (s t : State) : Prop := t = { s with digest := t.digest }

theorem TraceOnly.refl (s : State) : TraceOnly s s := rfl

theorem TraceOnly.trans {s t u : State} (h : TraceOnly s t) (k : TraceOnly t u) : TraceOnly s u := by
  unfold TraceOnly at *
  rw [k, h]

theorem traceOn_only (s : State) (edge kind slot cmd instr : Nat) (v : BitVec 64) :
    TraceOnly s (traceOn s edge kind slot cmd instr v) := rfl

theorem TraceOnly.foldl {α : Type} (f : State → α → State) (hf : ∀ s a, TraceOnly s (f s a)) (l : List α) (s : State) :
    TraceOnly s (l.foldl f s) := by
  induction l generalizing s with
  | nil => rfl
  | cons a l ih => exact (hf s a).trans (ih _)

theorem traceReads_only (s : State) (i : Inst) (w : Insn) (l : List (Nat × Nat)) : TraceOnly s (traceReads s i w l) := by
  unfold traceReads
  split
  · exact TraceOnly.foldl _ (fun s a => traceOn_only _ _ _ _ _ _ _) _ _
  · rfl

theorem retire_only (s : State) (i : Inst) (edge : Nat) :
    TraceOnly s (retire s i edge).1 ∧ (retire s i edge).2 = { i with queue := i.queue.filter fun e => edge < e.done } := by
  refine ⟨TraceOnly.foldl _ (fun s a => ?_) _ _, rfl⟩
  split
  · exact traceOn_only _ _ _ _ _ _ _
  · rfl

theorem thaw_only (s : State) (i : Inst) (natural : Inst → Nat) (edge : Nat) :
    TraceOnly s (thaw s i natural edge).1 ∧
    ∃ n, (thaw s i natural edge).2 = { i with held := none, front := i.front + n } := by
  unfold thaw
  split
  · next h => exact ⟨rfl, 0, by rw [← h]; rfl⟩
  · exact ⟨rfl, _, rfl⟩

theorem thaw_of {s : State} {i : Inst} {natural : Inst → Nat} {edge : Nat} {p : State × Inst} (h : thaw s i natural edge = p) :
    TraceOnly s p.1 ∧ ∃ n, p.2 = { i with held := none, front := i.front + n } := h ▸ thaw_only s i natural edge

theorem retire_of {s : State} {i : Inst} {edge : Nat} {p : State × Inst} (h : retire s i edge = p) :
    TraceOnly s p.1 ∧ p.2 = { i with queue := i.queue.filter fun e => edge < e.done } := h ▸ retire_only s i edge

/-! ### The issue stage -/

/-- What an instruction of the issue stage finds when it comes up: who issues, the edge, and what has moved: the trace, time, and of
the instance its queue, its freeze, its charge and its breakpoint mark. -/
theorem comeUp_go {s : State} {e : Nat} {w : Insn} {srcs : Nat} {all : Bool} {more : List (Nat × Nat)} {t : State} {j : Inst}
    {edge : Nat} (h : comeUp s e w srcs all more = .go t j edge) :
    ∃ i n q o, (engOf s e).run = some i ∧ mayIssue s e i = true ∧ predicateHolds i w = true ∧
      j = { i with queue := q, held := none, front := i.front + n, energy := i.energy + classC, passed := false, outcomes := o } ∧
      ∃ u, TraceOnly s u ∧ TraceOnly (advanceTo u edge) t := by
  unfold comeUp at h
  split at h
  · cases h
  · next i hi =>
    split at h
    · cases h
    · next hm =>
      dsimp only at h
      split at h
      · cases h
      · next hp =>
        split at h
        · cases h
        generalize hn : (if all = true then lastDone i.queue _ else _ : Nat) = ed at h
        have hr := traceReads_only s i w (scalarReads w srcs ++ more)
        generalize traceReads s i w (scalarReads w srcs ++ more) = s1 at h hr
        generalize ht : thaw s1 i _ ed = p at h
        have h1 := thaw_of ht
        obtain ⟨s2, i2⟩ := p
        obtain ⟨k1, n, rfl⟩ := h1
        dsimp only at h
        have h2 := retire_only (advanceTo s2 ed) { i with held := none, front := i.front + n } ed
        generalize retire (advanceTo s2 ed) { i with held := none, front := i.front + n } ed = p2 at h h2
        obtain ⟨s3, i3⟩ := p2
        obtain ⟨k2, rfl⟩ := h2
        injection h with h3 h4 h5
        subst h3 h4 h5
        exact ⟨i, n, _, _, hi, by simpa using hm, by simpa using hp, rfl, s2, hr.trans k1, k2⟩

/-- It waits for nothing. -/
theorem comeUp_wait {s : State} {e : Nat} {w : Insn} {srcs : Nat} {all : Bool} {more : List (Nat × Nat)} {t : State} {j : Inst}
    {edge : Nat} (h : comeUp s e w srcs all more = .go t j edge) : j.wait = .none := by
  obtain ⟨i, n, q, o, _, hm, _, rfl, _⟩ := comeUp_go h
  unfold mayIssue at hm
  simp only [Bool.and_eq_true, decide_eq_true_eq] at hm
  exact hm.1.1.1.1.1.2

end Sys2Proof.Machine
end

