-- ==== Sys2Proof/Laws/PerInstr.lean ====
section
/-! SUPPORT. Statements made per command: an engine's word spells one command, and it spells each engine instruction back. -/

namespace Sys2Proof.Laws.OneRow

open Sys2Proof

/-- The opcode an engine instruction's word carries (R126), with its engine and its fields; none for every other command. -/
def opcodeOf : Instr → Option (Nat × CodeWord)
  | .atl e w => some (e, { opcode := 0x01, insn := w })
  | .waitl e w => some (e, { opcode := 0x02, insn := w })
  | .beat e w => some (e, { opcode := 0x03, insn := w })
  | .br e w => some (e, { opcode := 0x08, insn := w })
  | .call e w => some (e, { opcode := 0x09, insn := w })
  | .ret e w => some (e, { opcode := 0x0A, insn := w })
  | .loop e w => some (e, { opcode := 0x0B, insn := w })
  | .halt e w => some (e, { opcode := 0x0C, insn := w })
  | .semwait e w => some (e, { opcode := 0x10, insn := w })
  | .sempost e w => some (e, { opcode := 0x11, insn := w })
  | .credit e w => some (e, { opcode := 0x12, insn := w })
  | .barrier e w => some (e, { opcode := 0x13, insn := w })
  | .commit e w => some (e, { opcode := 0x14, insn := w })
  | .load e w => some (e, { opcode := 0x20, insn := w })
  | .store e w => some (e, { opcode := 0x21, insn := w })
  | .copy e w => some (e, { opcode := 0x22, insn := w })
  | .gather e w => some (e, { opcode := 0x23, insn := w })
  | .halo e w => some (e, { opcode := 0x24, insn := w })
  | .mma e w => some (e, { opcode := 0x30, insn := w })
  | .conv e w => some (e, { opcode := 0x31, insn := w })
  | .dwconv e w => some (e, { opcode := 0x32, insn := w })
  | .pool e w => some (e, { opcode := 0x33, insn := w })
  | .vadd e w => some (e, { opcode := 0x40, insn := w })
  | .vmul e w => some (e, { opcode := 0x41, insn := w })
  | .vshift e w => some (e, { opcode := 0x42, insn := w })
  | .vmax e w => some (e, { opcode := 0x43, insn := w })
  | .vsum e w => some (e, { opcode := 0x44, insn := w })
  | .vexp2 e w => some (e, { opcode := 0x45, insn := w })
  | .vrcp e w => some (e, { opcode := 0x46, insn := w })
  | .vrsqrt e w => some (e, { opcode := 0x47, insn := w })
  | .vsoftmax e w => some (e, { opcode := 0x48, insn := w })
  | .vnorm e w => some (e, { opcode := 0x49, insn := w })
  | .vrope e w => some (e, { opcode := 0x4A, insn := w })
  | .qcal e w => some (e, { opcode := 0x50, insn := w })
  | .qcvt e w => some (e, { opcode := 0x51, insn := w })
  | .qstat e w => some (e, { opcode := 0x52, insn := w })
  | .kvappend e w => some (e, { opcode := 0x58, insn := w })
  | .kvattn e w => some (e, { opcode := 0x59, insn := w })
  | .kvevict e w => some (e, { opcode := 0x5A, insn := w })
  | .kvdrop e w => some (e, { opcode := 0x5B, insn := w })
  | .tokenize e w => some (e, { opcode := 0x60, insn := w })
  | .detok e w => some (e, { opcode := 0x61, insn := w })
  | .maskgen e w => some (e, { opcode := 0x62, insn := w })
  | .sample e w => some (e, { opcode := 0x63, insn := w })
  | .stopchk e w => some (e, { opcode := 0x64, insn := w })
  | .decode e w => some (e, { opcode := 0x68, insn := w })
  | .fetchsample e w => some (e, { opcode := 0x69, insn := w })
  | .batchclose e w => some (e, { opcode := 0x6A, insn := w })
  | .rsend e w => some (e, { opcode := 0x70, insn := w })
  | .rrecv e w => some (e, { opcode := 0x71, insn := w })
  | .allred e w => some (e, { opcode := 0x72, insn := w })
  | .gradq e w => some (e, { opcode := 0x78, insn := w })
  | .optstep e w => some (e, { opcode := 0x79, insn := w })
  | .lineWaitEnd _ => none
  | .beatWaitEnd _ => none
  | .semaphoreGrant _ => none
  | .creditGrant _ => none
  | .rrecvMessageReady _ => none
  | .breakpointHit _ => none
  | .admission => none
  | .freezeLatch _ => none
  | .freezeResume _ => none
  | .preemptDelayEnd _ => none
  | .irisBeat => none
  | .teardown _ => none
  | .shareClearDone _ _ => none
  | .contextLoaded _ _ => none
  | .contextRestart _ => none
  | .sramScrub _ _ _ _ => none
  | .dsScrubLane => none
  | .lixLineEdge _ => none
  | .lixRefTick => none
  | .encIndex => none
  | .clkCollimate => none
  | .collimationCheck _ => none
  | .linePacket _ _ => none
  | .ignoredPacket _ => none
  | .frameStart _ _ => none
  | .frameEnd _ _ => none
  | .sensorPortRetrain _ => none
  | .glintSwap => none
  | .glintPulseExpiry _ => none
  | .glintLinePulseEnd _ => none
  | .cciListStart _ => none
  | .cciListEnd _ _ => none
  | .cciNack _ _ => none
  | .deferredDecodeDone _ _ => none
  | .rtpPacket _ => none
  | .islandMsTick _ _ _ => none
  | .stopRaiseDone => none
  | .idleLowering => none
  | .forcedLowering => none
  | .stopLowerStepDone => none
  | .budgetLevelChange _ => none
  | .thermalTrip _ _ => none
  | .tripMainEnFall => none
  | .raiseMainEnReady => none
  | .keywordEval _ => none
  | .wakeNPress => none
  | .ringFrameEnd _ => none
  | .ringFrameWriteDone => none
  | .sessionTimeout => none
  | .shutterClose => none
  | .ringClearDone => none
  | .endRequest => none
  | .extendRequest => none
  | .islandMessagePost => none
  | .playEntryQueued _ => none
  | .playEntryStart => none
  | .playEntryEnd => none
  | .linkTraining _ _ => none
  | .trainingStepTimeout _ => none
  | .linkDown _ => none
  | .relayRetrain _ => none
  | .peerCut _ => none
  | .dataFlit _ => none
  | .releaseFlit _ => none
  | .discardFlit _ => none
  | .exchangeFlit _ => none
  | .creditReturnFlit _ => none
  | .controlFlit _ => none
  | .heartbeatMiss _ _ => none
  | .remapDone _ => none
  | .spareSelfTest _ _ => none
  | .staleTrafficDrop _ _ => none
  | .powerGoodRise _ => none
  | .ready => none
  | .powerGoodFall => none
  | .resetNLow _ => none
  | .read _ _ => none
  | .write _ _ => none
  | .post _ _ => none
  | .attest _ _ => none
  | .attestSigned => none
  | .stage _ _ => none
  | .spiReplyRead => none
  | .registerWrite _ _ _ => none
  | .lixSource _ _ => none
  | .lixDivider _ _ => none
  | .lixStatusClear _ _ => none
  | .lixCountCapture => none
  | .audioPositionCapture => none
  | .sysFacet _ _ => none
  | .facetApply => none
  | .sysCountersClear _ _ => none
  | .sysReset _ _ _ => none
  | .ctxStop _ _ => none
  | .ctxResume _ _ => none
  | .ctxUnload _ _ => none
  | .ctxLoad _ _ => none
  | .irisBudgetLimit _ _ => none
  | .qntClipThreshold _ _ _ => none
  | .ledgerSelect _ _ => none
  | .glintStatusClear _ _ => none
  | .relayRetrainPort _ _ => none
  | .relayCutPeer _ _ => none
  | .eventTail _ _ => none
  | .eventData => none
  | .flashRead _ => none
  | .flashProgram _ => none
  | .flashErase _ => none
  | .secNvsStageData _ _ => none
  | .storeFacet _ _ => none
  | .enrolKey _ _ => none
  | .revokeKey _ _ => none
  | .writeBootRecord _ => none
  | .secCertData => none
  | .bottomTreeBuilt => none
  | .digestChainCapture => none
  | .digestTraceData => none
  | .digestReplayCtrl _ _ => none
  | .digestReplayData _ _ => none
  | .digestMark _ _ => none
  | .digestBreak _ _ => none
  | .digestBreakResume _ => none
  | .digestPeekData => none
  | .encoderTransition _ _ => none
  | .instructionCompletion _ => none
  | .sensorPortDeskew _ _ _ => none
  | .ethernetLinkTraining _ _ => none
  | .ethernetLinkDown _ => none
  | .arpIcmpDhcpFrame _ _ => none
  | .nvsCommandDone => none
  | .jtagInstruction _ _ => none

/-- A command that is an engine's instruction is the one its word spells, and its opcode is assigned. -/
def Statement (i : Instr) : Prop :=
  ∀ e x, opcodeOf i = some (e, x) → instrOfWord e x = some i ∧ assignedOpcodes.contains x.opcode = true

theorem atl (e : Nat) (w : Insn) : Statement (Instr.atl e w) := by
  intro e x h; cases h; exact ⟨rfl, rfl⟩
theorem waitl (e : Nat) (w : Insn) : Statement (Instr.waitl e w) := by
  intro e x h; cases h; exact ⟨rfl, rfl⟩
theorem beat (e : Nat) (w : Insn) : Statement (Instr.beat e w) := by
  intro e x h; cases h; exact ⟨rfl, rfl⟩
theorem lineWaitEnd (y0 : Nat) : Statement (Instr.lineWaitEnd y0) := by
  intro e x h; cases h
theorem beatWaitEnd (y0 : Nat) : Statement (Instr.beatWaitEnd y0) := by
  intro e x h; cases h
theorem br (e : Nat) (w : Insn) : Statement (Instr.br e w) := by
  intro e x h; cases h; exact ⟨rfl, rfl⟩
theorem call (e : Nat) (w : Insn) : Statement (Instr.call e w) := by
  intro e x h; cases h; exact ⟨rfl, rfl⟩
theorem ret (e : Nat) (w : Insn) : Statement (Instr.ret e w) := by
  intro e x h; cases h; exact ⟨rfl, rfl⟩
theorem loop (e : Nat) (w : Insn) : Statement (Instr.loop e w) := by
  intro e x h; cases h; exact ⟨rfl, rfl⟩
theorem halt (e : Nat) (w : Insn) : Statement (Instr.halt e w) := by
  intro e x h; cases h; exact ⟨rfl, rfl⟩
theorem semwait (e : Nat) (w : Insn) : Statement (Instr.semwait e w) := by
  intro e x h; cases h; exact ⟨rfl, rfl⟩
theorem semaphoreGrant (y0 : Nat) : Statement (Instr.semaphoreGrant y0) := by
  intro e x h; cases h
theorem sempost (e : Nat) (w : Insn) : Statement (Instr.sempost e w) := by
  intro e x h; cases h; exact ⟨rfl, rfl⟩
theorem credit (e : Nat) (w : Insn) : Statement (Instr.credit e w) := by
  intro e x h; cases h; exact ⟨rfl, rfl⟩
theorem creditGrant (y0 : Nat) : Statement (Instr.creditGrant y0) := by
  intro e x h; cases h
theorem barrier (e : Nat) (w : Insn) : Statement (Instr.barrier e w) := by
  intro e x h; cases h; exact ⟨rfl, rfl⟩
theorem commit (e : Nat) (w : Insn) : Statement (Instr.commit e w) := by
  intro e x h; cases h; exact ⟨rfl, rfl⟩
theorem load (e : Nat) (w : Insn) : Statement (Instr.load e w) := by
  intro e x h; cases h; exact ⟨rfl, rfl⟩
theorem store (e : Nat) (w : Insn) : Statement (Instr.store e w) := by
  intro e x h; cases h; exact ⟨rfl, rfl⟩
theorem copy (e : Nat) (w : Insn) : Statement (Instr.copy e w) := by
  intro e x h; cases h; exact ⟨rfl, rfl⟩
theorem gather (e : Nat) (w : Insn) : Statement (Instr.gather e w) := by
  intro e x h; cases h; exact ⟨rfl, rfl⟩
theorem halo (e : Nat) (w : Insn) : Statement (Instr.halo e w) := by
  intro e x h; cases h; exact ⟨rfl, rfl⟩
theorem mma (e : Nat) (w : Insn) : Statement (Instr.mma e w) := by
  intro e x h; cases h; exact ⟨rfl, rfl⟩
theorem conv (e : Nat) (w : Insn) : Statement (Instr.conv e w) := by
  intro e x h; cases h; exact ⟨rfl, rfl⟩
theorem dwconv (e : Nat) (w : Insn) : Statement (Instr.dwconv e w) := by
  intro e x h; cases h; exact ⟨rfl, rfl⟩
theorem pool (e : Nat) (w : Insn) : Statement (Instr.pool e w) := by
  intro e x h; cases h; exact ⟨rfl, rfl⟩
theorem vadd (e : Nat) (w : Insn) : Statement (Instr.vadd e w) := by
  intro e x h; cases h; exact ⟨rfl, rfl⟩
theorem vmul (e : Nat) (w : Insn) : Statement (Instr.vmul e w) := by
  intro e x h; cases h; exact ⟨rfl, rfl⟩
theorem vshift (e : Nat) (w : Insn) : Statement (Instr.vshift e w) := by
  intro e x h; cases h; exact ⟨rfl, rfl⟩
theorem vmax (e : Nat) (w : Insn) : Statement (Instr.vmax e w) := by
  intro e x h; cases h; exact ⟨rfl, rfl⟩
theorem vsum (e : Nat) (w : Insn) : Statement (Instr.vsum e w) := by
  intro e x h; cases h; exact ⟨rfl, rfl⟩
theorem vexp2 (e : Nat) (w : Insn) : Statement (Instr.vexp2 e w) := by
  intro e x h; cases h; exact ⟨rfl, rfl⟩
theorem vrcp (e : Nat) (w : Insn) : Statement (Instr.vrcp e w) := by
  intro e x h; cases h; exact ⟨rfl, rfl⟩
theorem vrsqrt (e : Nat) (w : Insn) : Statement (Instr.vrsqrt e w) := by
  intro e x h; cases h; exact ⟨rfl, rfl⟩
theorem vsoftmax (e : Nat) (w : Insn) : Statement (Instr.vsoftmax e w) := by
  intro e x h; cases h; exact ⟨rfl, rfl⟩
theorem vnorm (e : Nat) (w : Insn) : Statement (Instr.vnorm e w) := by
  intro e x h; cases h; exact ⟨rfl, rfl⟩
theorem vrope (e : Nat) (w : Insn) : Statement (Instr.vrope e w) := by
  intro e x h; cases h; exact ⟨rfl, rfl⟩
theorem qcal (e : Nat) (w : Insn) : Statement (Instr.qcal e w) := by
  intro e x h; cases h; exact ⟨rfl, rfl⟩
theorem qcvt (e : Nat) (w : Insn) : Statement (Instr.qcvt e w) := by
  intro e x h; cases h; exact ⟨rfl, rfl⟩
theorem qstat (e : Nat) (w : Insn) : Statement (Instr.qstat e w) := by
  intro e x h; cases h; exact ⟨rfl, rfl⟩
theorem kvappend (e : Nat) (w : Insn) : Statement (Instr.kvappend e w) := by
  intro e x h; cases h; exact ⟨rfl, rfl⟩
theorem kvattn (e : Nat) (w : Insn) : Statement (Instr.kvattn e w) := by
  intro e x h; cases h; exact ⟨rfl, rfl⟩
theorem kvevict (e : Nat) (w : Insn) : Statement (Instr.kvevict e w) := by
  intro e x h; cases h; exact ⟨rfl, rfl⟩
theorem kvdrop (e : Nat) (w : Insn) : Statement (Instr.kvdrop e w) := by
  intro e x h; cases h; exact ⟨rfl, rfl⟩
theorem tokenize (e : Nat) (w : Insn) : Statement (Instr.tokenize e w) := by
  intro e x h; cases h; exact ⟨rfl, rfl⟩
theorem detok (e : Nat) (w : Insn) : Statement (Instr.detok e w) := by
  intro e x h; cases h; exact ⟨rfl, rfl⟩
theorem maskgen (e : Nat) (w : Insn) : Statement (Instr.maskgen e w) := by
  intro e x h; cases h; exact ⟨rfl, rfl⟩
theorem sample (e : Nat) (w : Insn) : Statement (Instr.sample e w) := by
  intro e x h; cases h; exact ⟨rfl, rfl⟩
theorem stopchk (e : Nat) (w : Insn) : Statement (Instr.stopchk e w) := by
  intro e x h; cases h; exact ⟨rfl, rfl⟩
theorem decode (e : Nat) (w : Insn) : Statement (Instr.decode e w) := by
  intro e x h; cases h; exact ⟨rfl, rfl⟩
theorem fetchsample (e : Nat) (w : Insn) : Statement (Instr.fetchsample e w) := by
  intro e x h; cases h; exact ⟨rfl, rfl⟩
theorem batchclose (e : Nat) (w : Insn) : Statement (Instr.batchclose e w) := by
  intro e x h; cases h; exact ⟨rfl, rfl⟩
theorem rsend (e : Nat) (w : Insn) : Statement (Instr.rsend e w) := by
  intro e x h; cases h; exact ⟨rfl, rfl⟩
theorem rrecv (e : Nat) (w : Insn) : Statement (Instr.rrecv e w) := by
  intro e x h; cases h; exact ⟨rfl, rfl⟩
theorem rrecvMessageReady (y0 : Nat) : Statement (Instr.rrecvMessageReady y0) := by
  intro e x h; cases h
theorem allred (e : Nat) (w : Insn) : Statement (Instr.allred e w) := by
  intro e x h; cases h; exact ⟨rfl, rfl⟩
theorem gradq (e : Nat) (w : Insn) : Statement (Instr.gradq e w) := by
  intro e x h; cases h; exact ⟨rfl, rfl⟩
theorem optstep (e : Nat) (w : Insn) : Statement (Instr.optstep e w) := by
  intro e x h; cases h; exact ⟨rfl, rfl⟩
theorem breakpointHit (y0 : Nat) : Statement (Instr.breakpointHit y0) := by
  intro e x h; cases h
theorem admission : Statement (Instr.admission) := by
  intro e x h; cases h
theorem freezeLatch (y0 : Nat) : Statement (Instr.freezeLatch y0) := by
  intro e x h; cases h
theorem freezeResume (y0 : Nat) : Statement (Instr.freezeResume y0) := by
  intro e x h; cases h
theorem preemptDelayEnd (y0 : Nat) : Statement (Instr.preemptDelayEnd y0) := by
  intro e x h; cases h
theorem irisBeat : Statement (Instr.irisBeat) := by
  intro e x h; cases h
theorem teardown (y0 : Nat) : Statement (Instr.teardown y0) := by
  intro e x h; cases h
theorem shareClearDone (y0 : StoreKind) (y1 : Nat) : Statement (Instr.shareClearDone y0 y1) := by
  intro e x h; cases h
theorem contextLoaded (y0 : Nat) (y1 : Option (List Byte)) : Statement (Instr.contextLoaded y0 y1) := by
  intro e x h; cases h
theorem contextRestart (y0 : Nat) : Statement (Instr.contextRestart y0) := by
  intro e x h; cases h
theorem sramScrub (y0 : StoreKind) (y1 : Nat) (y2 : Nat) (y3 : Nat) : Statement (Instr.sramScrub y0 y1 y2 y3) := by
  intro e x h; cases h
theorem dsScrubLane : Statement (Instr.dsScrubLane) := by
  intro e x h; cases h
theorem lixLineEdge (y0 : Nat) : Statement (Instr.lixLineEdge y0) := by
  intro e x h; cases h
theorem lixRefTick : Statement (Instr.lixRefTick) := by
  intro e x h; cases h
theorem encIndex : Statement (Instr.encIndex) := by
  intro e x h; cases h
theorem clkCollimate : Statement (Instr.clkCollimate) := by
  intro e x h; cases h
theorem collimationCheck (y0 : Bool) : Statement (Instr.collimationCheck y0) := by
  intro e x h; cases h
theorem linePacket (y0 : Nat) (y1 : LinePacket) : Statement (Instr.linePacket y0 y1) := by
  intro e x h; cases h
theorem ignoredPacket (y0 : Nat) : Statement (Instr.ignoredPacket y0) := by
  intro e x h; cases h
theorem frameStart (y0 : Nat) (y1 : BitVec 16) : Statement (Instr.frameStart y0 y1) := by
  intro e x h; cases h
theorem frameEnd (y0 : Nat) (y1 : BitVec 16) : Statement (Instr.frameEnd y0 y1) := by
  intro e x h; cases h
theorem sensorPortRetrain (y0 : Nat) : Statement (Instr.sensorPortRetrain y0) := by
  intro e x h; cases h
theorem glintSwap : Statement (Instr.glintSwap) := by
  intro e x h; cases h
theorem glintPulseExpiry (y0 : Nat) : Statement (Instr.glintPulseExpiry y0) := by
  intro e x h; cases h
theorem glintLinePulseEnd (y0 : Nat) : Statement (Instr.glintLinePulseEnd y0) := by
  intro e x h; cases h
theorem cciListStart (y0 : Nat) : Statement (Instr.cciListStart y0) := by
  intro e x h; cases h
theorem cciListEnd (y0 : Nat) (y1 : List (List Byte)) : Statement (Instr.cciListEnd y0 y1) := by
  intro e x h; cases h
theorem cciNack (y0 : Nat) (y1 : Nat) : Statement (Instr.cciNack y0 y1) := by
  intro e x h; cases h
theorem deferredDecodeDone (y0 : Nat) (y1 : Nat) : Statement (Instr.deferredDecodeDone y0 y1) := by
  intro e x h; cases h
theorem rtpPacket (y0 : RtpPacket) : Statement (Instr.rtpPacket y0) := by
  intro e x h; cases h
theorem islandMsTick (y0 : List Int) (y1 : BitVec 2) (y2 : Bool) : Statement (Instr.islandMsTick y0 y1 y2) := by
  intro e x h; cases h
theorem stopRaiseDone : Statement (Instr.stopRaiseDone) := by
  intro e x h; cases h
theorem idleLowering : Statement (Instr.idleLowering) := by
  intro e x h; cases h
theorem forcedLowering : Statement (Instr.forcedLowering) := by
  intro e x h; cases h
theorem stopLowerStepDone : Statement (Instr.stopLowerStepDone) := by
  intro e x h; cases h
theorem budgetLevelChange (y0 : BitVec 2) : Statement (Instr.budgetLevelChange y0) := by
  intro e x h; cases h
theorem thermalTrip (y0 : Nat) (y1 : Int) : Statement (Instr.thermalTrip y0 y1) := by
  intro e x h; cases h
theorem tripMainEnFall : Statement (Instr.tripMainEnFall) := by
  intro e x h; cases h
theorem raiseMainEnReady : Statement (Instr.raiseMainEnReady) := by
  intro e x h; cases h
theorem keywordEval (y0 : BitVec 16) : Statement (Instr.keywordEval y0) := by
  intro e x h; cases h
theorem wakeNPress : Statement (Instr.wakeNPress) := by
  intro e x h; cases h
theorem ringFrameEnd (y0 : List (List Bool)) : Statement (Instr.ringFrameEnd y0) := by
  intro e x h; cases h
theorem ringFrameWriteDone : Statement (Instr.ringFrameWriteDone) := by
  intro e x h; cases h
theorem sessionTimeout : Statement (Instr.sessionTimeout) := by
  intro e x h; cases h
theorem shutterClose : Statement (Instr.shutterClose) := by
  intro e x h; cases h
theorem ringClearDone : Statement (Instr.ringClearDone) := by
  intro e x h; cases h
theorem endRequest : Statement (Instr.endRequest) := by
  intro e x h; cases h
theorem extendRequest : Statement (Instr.extendRequest) := by
  intro e x h; cases h
theorem islandMessagePost : Statement (Instr.islandMessagePost) := by
  intro e x h; cases h
theorem playEntryQueued (y0 : Nat) : Statement (Instr.playEntryQueued y0) := by
  intro e x h; cases h
theorem playEntryStart : Statement (Instr.playEntryStart) := by
  intro e x h; cases h
theorem playEntryEnd : Statement (Instr.playEntryEnd) := by
  intro e x h; cases h
theorem linkTraining (y0 : Nat) (y1 : RelayIdentity) : Statement (Instr.linkTraining y0 y1) := by
  intro e x h; cases h
theorem trainingStepTimeout (y0 : Nat) : Statement (Instr.trainingStepTimeout y0) := by
  intro e x h; cases h
theorem linkDown (y0 : Nat) : Statement (Instr.linkDown y0) := by
  intro e x h; cases h
theorem relayRetrain (y0 : Nat) : Statement (Instr.relayRetrain y0) := by
  intro e x h; cases h
theorem peerCut (y0 : Nat) : Statement (Instr.peerCut y0) := by
  intro e x h; cases h
theorem dataFlit (y0 : FlitIn) : Statement (Instr.dataFlit y0) := by
  intro e x h; cases h
theorem releaseFlit (y0 : FlitIn) : Statement (Instr.releaseFlit y0) := by
  intro e x h; cases h
theorem discardFlit (y0 : FlitIn) : Statement (Instr.discardFlit y0) := by
  intro e x h; cases h
theorem exchangeFlit (y0 : FlitIn) : Statement (Instr.exchangeFlit y0) := by
  intro e x h; cases h
theorem creditReturnFlit (y0 : FlitIn) : Statement (Instr.creditReturnFlit y0) := by
  intro e x h; cases h
theorem controlFlit (y0 : FlitIn) : Statement (Instr.controlFlit y0) := by
  intro e x h; cases h
theorem heartbeatMiss (y0 : Nat) (y1 : Nat) : Statement (Instr.heartbeatMiss y0 y1) := by
  intro e x h; cases h
theorem remapDone (y0 : Nat) : Statement (Instr.remapDone y0) := by
  intro e x h; cases h
theorem spareSelfTest (y0 : Nat) (y1 : Bool) : Statement (Instr.spareSelfTest y0 y1) := by
  intro e x h; cases h
theorem staleTrafficDrop (y0 : Nat) (y1 : Nat) : Statement (Instr.staleTrafficDrop y0 y1) := by
  intro e x h; cases h
theorem powerGoodRise (y0 : ColdStart) : Statement (Instr.powerGoodRise y0) := by
  intro e x h; cases h
theorem ready : Statement (Instr.ready) := by
  intro e x h; cases h
theorem powerGoodFall : Statement (Instr.powerGoodFall) := by
  intro e x h; cases h
theorem resetNLow (y0 : ColdStart) : Statement (Instr.resetNLow y0) := by
  intro e x h; cases h
theorem read (y0 : Iface) (y1 : List Byte) : Statement (Instr.read y0 y1) := by
  intro e x h; cases h
theorem write (y0 : Iface) (y1 : List Byte) : Statement (Instr.write y0 y1) := by
  intro e x h; cases h
theorem post (y0 : Iface) (y1 : List Byte) : Statement (Instr.post y0 y1) := by
  intro e x h; cases h
theorem attest (y0 : Iface) (y1 : List Byte) : Statement (Instr.attest y0 y1) := by
  intro e x h; cases h
theorem attestSigned : Statement (Instr.attestSigned) := by
  intro e x h; cases h
theorem stage (y0 : Iface) (y1 : List Byte) : Statement (Instr.stage y0 y1) := by
  intro e x h; cases h
theorem spiReplyRead : Statement (Instr.spiReplyRead) := by
  intro e x h; cases h
theorem registerWrite (y0 : Iface) (y1 : Word) (y2 : Word) : Statement (Instr.registerWrite y0 y1 y2) := by
  intro e x h; cases h
theorem lixSource (y0 : Iface) (y1 : Word) : Statement (Instr.lixSource y0 y1) := by
  intro e x h; cases h
theorem lixDivider (y0 : Iface) (y1 : Word) : Statement (Instr.lixDivider y0 y1) := by
  intro e x h; cases h
theorem lixStatusClear (y0 : Iface) (y1 : Word) : Statement (Instr.lixStatusClear y0 y1) := by
  intro e x h; cases h
theorem lixCountCapture : Statement (Instr.lixCountCapture) := by
  intro e x h; cases h
theorem audioPositionCapture : Statement (Instr.audioPositionCapture) := by
  intro e x h; cases h
theorem sysFacet (y0 : Iface) (y1 : Word) : Statement (Instr.sysFacet y0 y1) := by
  intro e x h; cases h
theorem facetApply : Statement (Instr.facetApply) := by
  intro e x h; cases h
theorem sysCountersClear (y0 : Iface) (y1 : Word) : Statement (Instr.sysCountersClear y0 y1) := by
  intro e x h; cases h
theorem sysReset (y0 : Iface) (y1 : Word) (y2 : ColdStart) : Statement (Instr.sysReset y0 y1 y2) := by
  intro e x h; cases h
theorem ctxStop (y0 : Iface) (y1 : Nat) : Statement (Instr.ctxStop y0 y1) := by
  intro e x h; cases h
theorem ctxResume (y0 : Iface) (y1 : Nat) : Statement (Instr.ctxResume y0 y1) := by
  intro e x h; cases h
theorem ctxUnload (y0 : Iface) (y1 : Nat) : Statement (Instr.ctxUnload y0 y1) := by
  intro e x h; cases h
theorem ctxLoad (y0 : Iface) (y1 : Nat) : Statement (Instr.ctxLoad y0 y1) := by
  intro e x h; cases h
theorem irisBudgetLimit (y0 : Iface) (y1 : Word) : Statement (Instr.irisBudgetLimit y0 y1) := by
  intro e x h; cases h
theorem qntClipThreshold (y0 : Iface) (y1 : Nat) (y2 : Word) : Statement (Instr.qntClipThreshold y0 y1 y2) := by
  intro e x h; cases h
theorem ledgerSelect (y0 : Iface) (y1 : Word) : Statement (Instr.ledgerSelect y0 y1) := by
  intro e x h; cases h
theorem glintStatusClear (y0 : Iface) (y1 : Word) : Statement (Instr.glintStatusClear y0 y1) := by
  intro e x h; cases h
theorem relayRetrainPort (y0 : Iface) (y1 : BitVec 8) : Statement (Instr.relayRetrainPort y0 y1) := by
  intro e x h; cases h
theorem relayCutPeer (y0 : Iface) (y1 : BitVec 9) : Statement (Instr.relayCutPeer y0 y1) := by
  intro e x h; cases h
theorem eventTail (y0 : Iface) (y1 : Word) : Statement (Instr.eventTail y0 y1) := by
  intro e x h; cases h
theorem eventData : Statement (Instr.eventData) := by
  intro e x h; cases h
theorem flashRead (y0 : Iface) : Statement (Instr.flashRead y0) := by
  intro e x h; cases h
theorem flashProgram (y0 : Iface) : Statement (Instr.flashProgram y0) := by
  intro e x h; cases h
theorem flashErase (y0 : Iface) : Statement (Instr.flashErase y0) := by
  intro e x h; cases h
theorem secNvsStageData (y0 : Iface) (y1 : Word) : Statement (Instr.secNvsStageData y0 y1) := by
  intro e x h; cases h
theorem storeFacet (y0 : Iface) (y1 : BitVec 2) : Statement (Instr.storeFacet y0 y1) := by
  intro e x h; cases h
theorem enrolKey (y0 : Iface) (y1 : BitVec 2) : Statement (Instr.enrolKey y0 y1) := by
  intro e x h; cases h
theorem revokeKey (y0 : Iface) (y1 : BitVec 2) : Statement (Instr.revokeKey y0 y1) := by
  intro e x h; cases h
theorem writeBootRecord (y0 : Iface) : Statement (Instr.writeBootRecord y0) := by
  intro e x h; cases h
theorem secCertData : Statement (Instr.secCertData) := by
  intro e x h; cases h
theorem bottomTreeBuilt : Statement (Instr.bottomTreeBuilt) := by
  intro e x h; cases h
theorem digestChainCapture : Statement (Instr.digestChainCapture) := by
  intro e x h; cases h
theorem digestTraceData : Statement (Instr.digestTraceData) := by
  intro e x h; cases h
theorem digestReplayCtrl (y0 : Iface) (y1 : Word) : Statement (Instr.digestReplayCtrl y0 y1) := by
  intro e x h; cases h
theorem digestReplayData (y0 : Iface) (y1 : Word) : Statement (Instr.digestReplayData y0 y1) := by
  intro e x h; cases h
theorem digestMark (y0 : Iface) (y1 : Word) : Statement (Instr.digestMark y0 y1) := by
  intro e x h; cases h
theorem digestBreak (y0 : Iface) (y1 : Word) : Statement (Instr.digestBreak y0 y1) := by
  intro e x h; cases h
theorem digestBreakResume (y0 : Iface) : Statement (Instr.digestBreakResume y0) := by
  intro e x h; cases h
theorem digestPeekData : Statement (Instr.digestPeekData) := by
  intro e x h; cases h
theorem encoderTransition (y0 : EncBall) (y1 : Bool) : Statement (Instr.encoderTransition y0 y1) := by
  intro e x h; cases h
theorem instructionCompletion (y0 : Nat) : Statement (Instr.instructionCompletion y0) := by
  intro e x h; cases h
theorem sensorPortDeskew (y0 : Nat) (y1 : Bool) (y2 : BitVec 8) : Statement (Instr.sensorPortDeskew y0 y1 y2) := by
  intro e x h; cases h
theorem ethernetLinkTraining (y0 : Nat) (y1 : Bool) : Statement (Instr.ethernetLinkTraining y0 y1) := by
  intro e x h; cases h
theorem ethernetLinkDown (y0 : Nat) : Statement (Instr.ethernetLinkDown y0) := by
  intro e x h; cases h
theorem arpIcmpDhcpFrame (y0 : Nat) (y1 : NetFrame) : Statement (Instr.arpIcmpDhcpFrame y0 y1) := by
  intro e x h; cases h
theorem nvsCommandDone : Statement (Instr.nvsCommandDone) := by
  intro e x h; cases h
theorem jtagInstruction (y0 : JtagOp) (y1 : List (Nat × Bool)) : Statement (Instr.jtagInstruction y0 y1) := by
  intro e x h; cases h

end Sys2Proof.Laws.OneRow
end

