-- ==== Sys2Proof/Tests/Slice0.lean ====
section
/-! SUPPORT. Our own tests: each check of WellFormed refuses an ill-formed command, words of the spec's encodings decode, a state that
meets the hypotheses of each statement, and single steps. -/

namespace Sys2Proof.Tests

open Sys2Proof Sys2Proof.Machine

set_option Elab.async false

/-- An instance of command 0 of slot 0 on engine 0, free to issue from edge 8. -/
def tInst : Inst := newInst State.reset (readyOf 0 0 0) 0 0 65536

/-- The part after reset with that instance running. -/
def tState : State := setInst State.reset 0 tInst

/-- A word with one kind for its slots A and B, and their values. -/
def tWord (k : Kind) (a b : Word) : Insn :=
  { kindA := k, kindB := k, kindC := .immediate, mark := false, predOn := false, predZero := false, predReg := 0, waits := 0,
    a := a, b := b, c := 0 }

/-- The instance waits for n counts of chip semaphore 5, of which 1 is free. -/
def tWaiting (n : Nat) : State :=
  setInst (setSem State.reset 5 { Sem.unused with total := 2, free := 1, waiters := [{ slot := 0, cmd := 0, count := n, edge := 0 }] })
    0 { tInst with wait := .sem 5 n none }

/-- Part 0 of a set of two, its link up or down. -/
def tPair (up : Bool) : State :=
  { tState with facet := { tState.facet with setSize := 2 },
                iris := { tState.iris with stop := 4 },
                relay := { tState.relay with formed := true,
                                             ports := (span 0 8).map fun n => (n, { RelayPort.idle with up := up, peer := 1 }) } }

/-- Witness for StepRunsFrontCommand: an empty queue, and one that is not. -/
theorem test_empty_queue : State.reset.pending = [] := rfl

/-- Witness for StepRunsFrontCommand. -/
theorem test_front_command : ∃ (s : State) (c : Instr) (r : List Instr), s.pending = c :: r :=
  ⟨{ State.reset with pending := [.irisBeat, .ready] }, .irisBeat, [.ready], rfl⟩

/-- Witness for QueueUntouched: a command that answers a next state. -/
theorem test_queue_untouched : ∃ t, exec .lixCountCapture State.reset = .next t := ⟨_, rfl⟩

/-- Witness for StopLevelStaysLegal: a legal state that steps. -/
theorem test_stop_legal_step : StopLegal State.reset ∧ step State.reset = .next State.reset := ⟨⟨by decide, by decide⟩, rfl⟩

/-- Witness for WordRoundTrip: COMMIT's opcode is assigned. -/
theorem test_assigned_opcode : assignedOpcodes.contains 0x14 = true := by decide

/-- Witness for WordsDecodeOrAreRefused: a word with bit 119 set, one with an unassigned opcode, and one that decodes. -/
theorem test_reserved_words : (0x1495000000000000_0000000000000000 : BitVec 128).getLsbD 119 = true ∧
    assignedOpcodes.contains ((0x0415000000000000_0000000000000000 : BitVec 128).extractLsb' 120 8) = false ∧
    (0x1415000000000000_0000000000000000 : BitVec 128).getLsbD 119 = false := by decide

/-- Witness for IssueStageComesUp: an instance that may issue, its predicate holding and not. -/
theorem test_comes_up : (engOf tState 0).run = some tInst ∧ mayIssue tState 0 tInst = true ∧
    predicateHolds tInst (tWord .immediate 0 0) = true ∧ outcomeFits tState tInst (tWord .immediate 0 0) = true ∧
    predicateHolds tInst { tWord .immediate 0 0 with predOn := true, predReg := 5 } = false := ⟨rfl, by decide, by decide, by decide, by decide⟩

/-- Witness for TimeWaitsOfTheSequencer: an ATL with its target reached and one ahead, and a WAITL and a BEAT, come up. -/
theorem test_time_waits :
    (∃ t i edge, comeUp tState 0 (tWord .immediate 0 0) 3 true (atlReads (tWord .immediate 0 0)) = .go t i edge ∧
      targetReached t (atlTarget i (tWord .immediate 0 0)).1 (atlTarget i (tWord .immediate 0 0)).2 = true) ∧
    (∃ t i edge, comeUp tState 0 (tWord .immediate 7 0) 3 true (atlReads (tWord .immediate 7 0)) = .go t i edge ∧
      targetReached t (atlTarget i (tWord .immediate 7 0)).1 (atlTarget i (tWord .immediate 7 0)).2 = false) ∧
    (∃ t i edge, comeUp tState 0 (tWord .immediate 1 0) 3 true [] = .go t i edge) ∧
    ∃ t i edge, comeUp tState 0 (tWord .immediate 1 0) 1 true [] = .go t i edge :=
  ⟨⟨_, _, _, rfl, by decide⟩, ⟨_, _, _, rfl, by decide⟩, ⟨_, _, _, rfl⟩, ⟨_, _, _, rfl⟩⟩

/-- The instance waits. -/
def tWaits (w : Wait) : State := setInst { State.reset with lix := { Lix.reset with hold := false } } 0 { tInst with wait := w }

/-- Witness for WaitsOfTheSequencerEnd: waits of each kind, for a target reached, one ahead on the line, and a beat. -/
theorem test_waits_end :
    (waiting (tWaits (.line 0 0 true false)) 0).isSome = true ∧ targetReached (tWaits (.line 0 0 true false)) 0 0 = true ∧
    (waiting (tWaits (.line 0 9 true false)) 0).isSome = true ∧ targetReached (tWaits (.line 0 9 true false)) 0 9 = false ∧
    (tWaits (.line 0 9 true false)).lix.hold = false ∧
    (waiting (tWaits (.line 0 0 true true)) 0).isSome = true ∧ (waiting (tWaits (.beat 0)) 0).isSome = true := by decide

/-- Witness for ControlFlow: each comes up, with an empty stack and a full one, and a LOOP of no and of two trips. -/
theorem test_control_flow : (∃ t i edge, comeUp tState 0 (tWord .immediate 2 0) 0 false [] = .go t i edge ∧ i.calls = []) ∧
    (∃ t i edge, comeUp (setInst tState 0 { tInst with calls := [4] }) 0 (tWord .immediate 0 0) 0 false [] = .go t i edge ∧ i.calls = [4]) ∧
    (∃ t i edge, comeUp tState 0 (tWord .immediate 0 3) 1 false [] = .go t i edge ∧ withinMax t i [1] 0 = true) ∧
    ∃ t i edge, comeUp tState 0 (tWord .immediate 2 3) 1 false [] = .go t i edge ∧ withinMax t i [1] 2 = true :=
  ⟨⟨_, _, _, rfl, rfl⟩, ⟨_, _, _, rfl, rfl⟩, ⟨_, _, _, rfl, by decide⟩, ⟨_, _, _, rfl, by decide⟩⟩

/-- Witness for ControlFlow's last clause: a declared maximum of 1 trip. -/
theorem test_loop_maximum : ∃ t i edge,
    comeUp (setCtx tState 0 { Ctx.empty with module := some { moduleOf State.reset 0 with maxima := [(1, 1)] } }) 0 (tWord .immediate 2 3) 1 false [] =
      .go t i edge ∧ withinMax t i [1] 2 = false := ⟨_, _, _, rfl, by decide⟩

/-- Witness for LoopTripsAreCounted: an instance at the end of its loop's body, on the first of two trips and on the last. -/
theorem test_loop_trips : ∃ i : Inst, ∃ f : LoopFrame, i.loops = [f] ∧ f.depth = i.calls.length ∧ i.pc = f.last ∧ f.trip + 1 < f.trips :=
  ⟨{ tInst with pc := 3, loops := [{ first := 1, last := 3, trip := 0, trips := 2, reg := some 5, depth := 0 }] }, _, rfl, rfl, rfl, by decide⟩

/-- Witness for HaltAndCommitEndTheInstance: an instance that staged one byte of DS. -/
theorem test_halt_commit : let i := { tInst with staged := [(2 ^ 40, 7)] }
    let s := setInst State.reset 0 i
    Runs s 0 i ∧ i.engine = 0 ∧ mayIssue s 0 i = true ∧ predicateHolds i (tWord .immediate 0 0) = true ∧
    outcomeFits s i (tWord .immediate 0 0) = true ∧ Canonical s ∧ i.stagedUp = [] ∧ (i.staged.map (·.1)).Nodup ∧
    tableWf 0 (ctxOf s i.origin.slot).stores.ds = true ∧ tableWf 0 (ctxOf s i.origin.slot).stores.upDs = true ∧ (2 ^ 40 + 0, 7) ∈ i.staged := by
  refine ⟨rfl, rfl, ?_, ?_, ?_, ⟨?_, ?_⟩, rfl, ?_, ?_, ?_, ?_⟩ <;> decide

/-- Context semaphore 0 of slot 0 is bound to chip semaphore 5, of 2 counts; slot 0 replays a log of these words, or none. -/
def tBound (free : Nat) (log : List Word) : State :=
  let s := setSem State.reset 5 { Sem.unused with total := 2, free := free }
  setInst (setCtx { s with facet := { s.facet with bindings := [(0, { chip := 5, bound := true, initial := 0 })] } } 0
    { Ctx.empty with state := .active, replay := { on := decide (log ≠ []), words := log } }) 0 tInst

/-- A log record of a test form with its outcome. -/
def tLog (ok : Word) : List Word := [9, 0, 0, 0, 0, 0, ok, 0]

/-- Witness for SemaphoreWaits: more counts than the total; the wait form with its counts free, with none asked, and with too few free. -/
theorem test_semaphore_waits : let w (n : Word) : Insn := tWord .immediate 0 n
    (∃ t i edge, comeUp (tBound 1 []) 0 (w 3) 2 true [] = .go t i edge ∧ semTotal t i 0 < 3) ∧
    (∃ t i edge, comeUp (tBound 1 []) 0 (w 1) 2 true [] = .go t i edge ∧ 1 ≤ semTotal t i 0 ∧ chipOf t i 0 = 5 ∧ semOpen t i 5 1 edge = true) ∧
    ∃ t i edge, comeUp (tBound 1 []) 0 (w 2) 2 true [] = .go t i edge ∧ 2 ≤ semTotal t i 0 ∧ semOpen t i 5 2 edge = false :=
  ⟨⟨_, _, _, rfl, by decide⟩, ⟨_, _, _, rfl, by decide, by decide, by decide⟩, ⟨_, _, _, rfl, by decide, by decide⟩⟩

/-- Witness for SemaphoreWaits: the test form outside replay, and in replay with the logged outcomes 0 and 1. -/
theorem test_semaphore_tests : let w : Insn := { tWord .immediate 0 1 with kindC := .scalar }
    (∃ t i edge, comeUp (tBound 1 []) 0 w 2 false [] = .go t i edge ∧ semOpen t i 5 1 edge = true ∧ (ctxOf t 0).replay.on = false) ∧
    (∃ t i edge, comeUp (tBound 0 []) 0 w 2 false [] = .go t i edge ∧ semOpen t i 5 1 edge = false) ∧
    (∃ t i edge r u, comeUp (tBound 1 (tLog 0)) 0 w 2 false [] = .go t i edge ∧ (ctxOf t 0).replay.on = true ∧
      replayTake t 0 9 0 = (some r, u) ∧ bit (logField r 6).toNat 0 = false) ∧
    ∃ t i edge r u, comeUp (tBound 1 (tLog 1)) 0 w 2 false [] = .go t i edge ∧ replayTake t 0 9 0 = (some r, u) ∧
      bit (logField r 6).toNat 0 = true :=
  ⟨⟨_, _, _, rfl, by decide, by decide⟩, ⟨_, _, _, rfl, by decide⟩, ⟨_, _, _, _, _, rfl, by decide, rfl, by decide⟩,
   ⟨_, _, _, _, _, rfl, rfl, by decide⟩⟩

/-- Witness for SemaphoreGrantServesTheFirst: a waiter of 1 count with 1 free, and a waiter of 2. -/
theorem test_semaphore_grant :
    (∃ w r i, (semOf (tWaiting 1) 5).waiters = w :: r ∧ w.count ≤ (semOf (tWaiting 1) 5).free ∧ waiterEngine (tWaiting 1) w = some 0 ∧
      (engOf (tWaiting 1) 0).run = some i ∧ (engOf (tWaiting 1) 0).draining = none ∧ i.wait = .sem 5 1 none) ∧
    ∃ w r, (semOf (tWaiting 2) 5).waiters = w :: r ∧ (semOf (tWaiting 2) 5).free < w.count :=
  ⟨⟨_, _, _, rfl, by decide, rfl, rfl, rfl, rfl⟩, ⟨_, _, rfl, by decide⟩⟩

/-- Witness for PostsAreStaged: a SEMPOST of 0 counts and one of 1, and a BARRIER, come up where nothing is held. -/
theorem test_posts : (∃ t i edge, comeUp tState 0 (tWord .immediate 0 0) 2 false [] = .go t i edge ∧
      tget 0 i.posts 0 + 0 ≤ tget 0 (ctxOf t i.origin.slot).held 0 + tget 0 i.holds 0) ∧
    (∃ t i edge, comeUp tState 0 (tWord .immediate 0 1) 2 false [] = .go t i edge ∧
      tget 0 (ctxOf t i.origin.slot).held 0 + tget 0 i.holds 0 < tget 0 i.posts 0 + 1) ∧
    ∃ t i edge, comeUp tState 0 (tWord .immediate 0 0) 0 true [] = .go t i edge :=
  ⟨⟨_, _, _, rfl, by decide⟩, ⟨_, _, _, rfl, by decide⟩, ⟨_, _, _, rfl⟩⟩

/-- Witness for CreditsAreTaken: CREDIT comes up in a Solo, in a set with the link down and up, and waits. -/
theorem test_credits :
    (∃ t i edge, comeUp tState 0 (tWord .immediate 1 0) 2 true [] = .go t i edge ∧ isPeer t 1 = false) ∧
    (∃ t i edge, comeUp (tPair false) 0 (tWord .immediate 1 0) 2 true [] = .go t i edge ∧ isPeer t 1 = true ∧ linkUp t 1 = false) ∧
    (∃ t i edge, comeUp (tPair true) 0 (tWord .immediate 1 0) 2 true [] = .go t i edge ∧ isPeer t 1 = true ∧ linkUp t 1 = true ∧
      0 ≤ (creditOf t i.origin.slot 1).free ∧ (creditOf t i.origin.slot 1).free < 1) ∧
    ∃ i, (engOf (setInst tState 0 { tInst with wait := .credit 1 1 }) 0).run = some i ∧ i.wait = .credit 1 1 ∧ i.halted = false :=
  ⟨⟨_, _, _, rfl, by decide⟩, ⟨_, _, _, rfl, by decide, by decide⟩, ⟨_, _, _, rfl, by decide, by decide, by decide, by decide⟩,
   ⟨_, rfl, rfl, rfl⟩⟩

/-- Witness for QueuedInstructionIssues: a VADD of two scalars into a scalar register. -/
theorem test_queued : ∃ a, binaryEffect (fun x y => x + y) (tWord .scalar 4 5) (runAt tState tInst (tWord .scalar 4 5) 6) = .ok a ∧
    bufferFits a.r = true ∧ withinMax tState tInst [3, 4] a.size = true ∧ predicateHolds tInst (tWord .scalar 4 5) = true ∧
    outcomeFits tState tInst (tWord .scalar 4 5) = true := ⟨_, rfl, by decide, by decide, by decide, by decide⟩

/-- Witness for PredicateFailsAndChecksFail: a predicate that fails, a failing status of each kind. -/
theorem test_predicate_fails : predicateHolds tInst { tWord .scalar 4 5 with predOn := true, predReg := 5 } = false ∧
    tInst.engine = 0 ∧ (engOf tState 0).run = some tInst ∧ (ctxOf tState tInst.origin.slot).tear = none ∧
    stLength ≠ stFault := ⟨by decide, rfl, rfl, rfl, by decide⟩

/-- Witness for ScalarVectorResults. -/
theorem test_scalar_vector : (engOf tState 0).run = some tInst ∧ mayIssue tState 0 tInst = true ∧ tInst.loops = [] ∧
    predicateHolds tInst (tWord .scalar 4 5) = true ∧ outcomeFits tState tInst (tWord .scalar 4 5) = true ∧
    bufferFits { s := tState, i := tInst } = true ∧ withinMax tState tInst [3, 4] 1 = true ∧
    (tWord .scalar 4 5).kindC ≠ Kind.descriptor :=
  ⟨rfl, by decide, rfl, by decide, by decide, by decide, by decide, by decide⟩

/-- Witness for UnaryFunctionsAreExact: a value at each boundary of its ranges. -/
theorem test_unary_ranges : (-(2 ^ 31) ≤ (-(16 * 65536) - 1 : Int) ∧ (-(16 * 65536) - 1 : Int) < -(16 * 65536)) ∧
    (-(16 * 65536) ≤ (-(16 * 65536) : Int) ∧ (15 * 65536 - 1 : Int) < 15 * 65536) ∧ (15 * 65536 ≤ (2 ^ 31 - 1 : Int)) ∧
    (0 < (1 : Int)) ∧ (0 : Int) ≤ 0 := by decide

/-- Witness for BankAddSaturatesOnce: a canonical bank, headers that agree, disagree and are invalid. -/
theorem test_bank_add : tableWf (0 : Int) [(3, 5)] = true ∧ Header.none.valid = false ∧
    (∃ k, { Header.none with valid := true, ktot := 2 } = { { Header.none with valid := true } with ktot := k }) ∧
    { Header.none with valid := true, zw := 1 } ≠ { Header.none with valid := true } := ⟨by decide, rfl, ⟨2, rfl⟩, by decide⟩

/-- Witness for CodesAndCalibration: entries of both kinds. -/
theorem test_codes : Entry16.zero.isConst = false ∧ ({ Entry16.zero with isConst := true } : Entry16).isConst = true ∧ 3 < 4 := by decide

/-- Witness for StoreReadsBackWhatWasWritten: a canonical store with an upset word. -/
theorem test_store_wf : Memory.wf [(0, 1), (16, 255)] = true ∧ tableWf (0 : BitVec 144) [(1, 4)] = true := by decide

/-- Witness for StagedWritesAreInvisible: a byte already staged is staged again; one that nothing staged is not. -/
theorem test_staged : stages { s := tState, i := { tInst with staged := [(8, 1)] } } 2 8 = true ∧
    stages { s := tState, i := tInst } 3 8 = false := by decide

/-- Witness for TargetIsReached: a phase that runs and one that holds. -/
theorem test_phase_hold : Lix.reset.hold = true ∧ ({ Lix.reset with hold := false } : Lix).hold = false := by decide

/-- Witness for SlotsAndEnginesStayCanonical. -/
theorem test_canonical_step : Canonical State.reset ∧ step State.reset = .next State.reset := ⟨⟨by decide, by decide⟩, rfl⟩

/-- Part 0 of a pair; slot 0 owns window 3, of 512 bytes from part 1, with or without a released message of 16 bytes. -/
def tWindow (l : List Message) : State :=
  { tPair true with
    facet := { (tPair true).facet with
      windows := [{ part := 0, number := 3, owner := 0, fromPart := 1, fromSlot := 0, offset := 64, size := 512 }] },
    relay := { (tPair true).relay with windows := if l = [] then [] else [(3, l)] } }

/-- An RRECV of window 3 from part 1 into descriptor 0. -/
def tReceive : Insn := { tWord .immediate 0 49 with kindA := .descriptor }

/-- Witness for ReceiveTakesTheOldestMessage: the RRECV comes up in a pair, with a window and no message; its own index, a part outside
the set and a link that is down. -/
theorem test_receive : (∃ t i edge, comeUp (tWindow []) 0 tReceive 0 true [] = .go t i edge ∧ (ownWindow t i tReceive).isSome = true ∧
      linkUp t 1 = true ∧ windowQueue t 3 = []) ∧
    (∃ t i edge, comeUp (tPair false) 0 tReceive 0 true [] = .go t i edge ∧ peerField tReceive.b = 1 ∧ linkUp t 1 = false) ∧
    (∃ t i edge, comeUp tState 0 tReceive 0 true [] = .go t i edge ∧ t.facet.setSize ≤ 1) ∧
    (oldestMessage (tWindow [{ number := 0, slot := 0, offset := 0, length := 16, released := true, last := true, returned := false }]) 3).isSome = true ∧
    tableWf [] (tWindow [{ number := 0, slot := 0, offset := 0, length := 16, released := true, last := true, returned := false }]).relay.windows = true :=
  ⟨⟨_, _, _, rfl, by decide, by decide, by decide⟩, ⟨_, _, _, rfl, by decide, by decide⟩, ⟨_, _, _, rfl, by decide⟩, by decide, by decide⟩

/-- Witness for ReductionExchangesChunks: an ALLRED comes up in a set of one and in a pair, nothing of it received. -/
theorem test_reduction : tState.facet.setSize ≤ 1 ∧ 1 < (tPair true).facet.setSize ∧
    ∃ t i edge, comeUp (tPair true) 0 tReceive 0 true [] = .go t i edge ∧ t.relay.chunks = [] :=
  ⟨by decide, by decide, ⟨_, _, _, rfl, rfl⟩⟩

/-- The part at Stop 1 with slot 0 active and bound to engine 0, and one ready instance of its command 0. -/
def tReady : State :=
  { setCtx State.reset 0 { Ctx.empty with state := .active } with
    ready := [readyOf 0 0 0], iris := { State.reset.iris with stop := 1 },
    facet := { State.reset.facet with timing := { State.reset.facet.timing with ceiling := 1600 } } }

/-- Witness for AdmissionPlacesAReadyInstance: the instance meets its conditions, and fits, and does not fit where it is too hot. -/
theorem test_admission : mayAdmit tReady (readyOf 0 0 0) = true ∧ placement tReady (readyOf 0 0 0) = some 0 ∧
    tokensFit tReady (readyOf 0 0 0) = true ∧ heatFits tReady (readyOf 0 0 0) 0 = true ∧
    heatFits { tReady with iris := { tReady.iris with temps := [(0, 1700)] } } (readyOf 0 0 0) 0 = false := by decide

/-- Witness for AdmissionPlacesAReadyInstance: a command whose reservation does not fit. -/
theorem test_admission_tokens : tokensFit (setCtx tReady 0 { Ctx.empty with state := .active, module := some { moduleOf tReady 0 with
    commands := [{ commandOf tReady 0 0 with energyBound := 1000000 }] } }) (readyOf 0 0 0) = false := by decide

/-- Engine 0 drains to edge 20, with or without a pre-emptor; or an instance is frozen on it. -/
def tDraining (r : Option Ready) : State := setEng tState 0 { engOf tState 0 with draining := some 20, incoming := r }

/-- Witness for FreezeAndResume. -/
theorem test_freeze : (engOf (tDraining none) 0).draining = some 20 ∧ (engOf (tDraining none) 0).run = some tInst ∧
    (engOf (tDraining (some (readyOf 1 0 0))) 0).incoming = some (readyOf 1 0 0) ∧
    (engOf (setEng State.reset 0 { Engine.idle with frozen := [tInst] }) 0).frozen = [tInst] ∧
    (engOf (setEng State.reset 0 { Engine.idle with frozen := [tInst] }) 0).run = none ∧ tInst.wait = .none := by decide

/-- Two instructions in flight. -/
def tFlight : List Entry :=
  [{ queue := 1, done := 12, reads := [], writes := [], mark := none, ring := none },
   { queue := 3, done := 9, reads := [], writes := [], mark := none, ring := none }]

/-- Witness for BeatsAndCompletionsMoveTime: two instructions in flight. -/
theorem test_completion : ∃ i, Runs (setInst tState 0 { tInst with queue := tFlight }) 0 i ∧ (∀ x ∈ i.queue, 9 ≤ x.done) ∧
    ∃ x ∈ i.queue, x.done = 9 := ⟨_, rfl, by decide, by decide⟩

/-- Witness for BeatsAndCompletionsMoveTime. -/
theorem test_beat : ({ State.reset with clk := { Clk.reset with collimated := true } } : State).clk.collimated = true ∧ State.reset.clk.collimated = false := ⟨rfl, rfl⟩

/-- Witness for PreemptionDelayAndBreakpoint: a pre-emptor waits on a free engine; a marked instance is at its breakpoint. -/
theorem test_preempt_delay : (engOf (setEng State.reset 0 { Engine.idle with waiting := some (readyOf 1 0 0, 3) }) 0).waiting = some (readyOf 1 0 0, 3) ∧
    (engOf (setEng State.reset 0 { Engine.idle with waiting := some (readyOf 1 0 0, 3) }) 0).run = none ∧
    atBreak { tState with digest := { tState.digest with breakArmed := true, markOn := true } } tInst = true := by decide

/-- Slot 0 is active and marked for teardown on edge 5; engine step 0 is its own. -/
def tTorn : State :=
  { setCtx State.reset 0 { Ctx.empty with state := .active, tear := some (.contextFault, none, 5) } with
    ledgers := { State.reset.ledgers with es := [(0, .held 0)] } }

/-- Witness for TeardownFreesTheContext. -/
theorem test_teardown : Canonical tTorn ∧ (ctxOf tTorn 0).tear = some (.contextFault, none, 5) ∧ tTorn.sys.halted = false ∧
    occupied (ctxOf tTorn 0) = true := by refine ⟨⟨?_, ?_⟩, ?_, ?_, ?_⟩ <;> decide

/-- Steps 1 and 2 of engine 0 clear for slot 3. -/
def tClears : State :=
  { setCtx State.reset 3 { Ctx.empty with state := .clearing } with
    ledgers := { State.reset.ledgers with es := [(1, .clearing 3), (2, .clearing 3)] } }

/-- Witness for ClearedStepsAreFree: step 1 clears, step 2 waits for it. -/
theorem test_clear : Canonical tClears ∧ tableWf .free (ledgerTable tClears.ledgers .es) = true ∧
    clearingStep .es (ledgerTable tClears.ledgers .es) 1 = some 3 ∧ clearingStep .es (ledgerTable tClears.ledgers .es) 2 = none := by
  refine ⟨⟨?_, ?_⟩, ?_, ?_, ?_⟩ <;> decide

/-- Slot 0 loads module 7, which the boot image holds or not. -/
def tLoading (l : List ImageModule) : State :=
  { setCtx State.reset 0 { Ctx.empty with state := .loading, granted := { CtxRecord.none with module := 7 } } with
    sec := { State.reset.sec with modules := l } }

/-- Witness for ClearedStepsAreFree: pages of DS pause at Stop 0. -/
theorem test_clear_pauses : tClears.iris.stop = 0 := rfl

/-- Witness for LoaderBindsOrRefusesByCode: a module not there, one whose digest fails, one that a check refuses. -/
theorem test_loading : Canonical (tLoading []) ∧ (ctxOf (tLoading []) 0).state = .loading ∧ imageModule (tLoading []) 7 = none ∧
    (∃ b, imageModule (tLoading [{ number := 7, xsKib := 0, shaOk := false }]) 7 = some b ∧ b.shaOk = false) ∧
    (∃ b, imageModule (tLoading [{ number := 7, xsKib := 0, shaOk := true }]) 7 = some b ∧ b.shaOk = true) ∧
    loaderCode (tLoading []) 0 CtxRecord.none (moduleOf State.reset 0) = 0x01 :=
  ⟨⟨by decide, by decide⟩, by decide, by decide, ⟨_, rfl, rfl⟩, ⟨_, rfl, rfl⟩, by decide⟩

/-- A module of one virtual engine and one command of one COMMIT, which starts with its context: header, section table, sections. -/
def tModule : List Byte :=
  ascii "DRUK" ++ bytesLe 1 2 ++ bytesLe 0 2 ++ bytesLe 1 2 ++ bytesLe 1 2 ++ bytesLe 1 4 ++ bytesLe 1 4 ++ bytesLe 1 4 ++
  bytesLe 128 4 ++ bytesLe 0 4 ++ bytesLe 64 4 ++ bytesLe 0 4 ++ bytesLe 4 4 ++ List.replicate 6 0 ++ bytesLe 1 2 ++ bytesLe 64 4 ++
  List.replicate 8 0 ++
  [(120, 2), (122, 0), (122, 0), (122, 32), (154, 0), (154, 16), (170, 0)].flatMap (fun (p : Nat × Nat) => bytesLe p.1 4 ++ bytesLe p.2 4) ++
  bytesLe 0 2 ++
  (bytesLe 0 4 ++ bytesLe 1 4 ++ List.replicate 4 0 ++ List.replicate 8 0xFF ++ List.replicate 12 0) ++
  bytesLe 0x14150000_00000000_00000000_00000000 16

/-- Slot 0 loads it, with engine 0 and room for it, at Stop 1. -/
def tBinding : State :=
  let g : CtxRecord := { CtxRecord.none with present := true, module := 7, level := 1, engines := 1, esSteps := 1, xs := 2, allotment := 1000, soft := 1000, hard := 1000 }
  let s : State := { State.reset with iris := { State.reset.iris with stop := 1, capacity := 1000 }, sec := { State.reset.sec with modules := [{ number := 7, xsKib := 0, shaOk := true }] } }
  setCtx s 0 { Ctx.empty with state := .loading, granted := g }

/-- Witness for LoaderBindsOrRefusesByCode: a module that passes every check. -/
theorem test_binding : Canonical tBinding ∧ (ctxOf tBinding 0).state = .loading ∧ (imageModule tBinding 7).any (·.shaOk) = true ∧
    loaderCode tBinding 0 (ctxOf tBinding 0).granted (parseModule tModule) = 0 ∧ (ctxOf tBinding 0).granted.level ≤ tBinding.iris.stop := by
  refine ⟨⟨?_, ?_⟩, ?_, ?_, ?_, ?_⟩ <;> decide +kernel

/-- Slot 0 is parked, or empty, and a restart of a cause is due. -/
def tRestart (x : SlotState) (k : Nat) : State := setCtx State.reset 0 { Ctx.empty with state := x, restart := some k }

/-- Witness for RestartsKeepOrRegrantShares. -/
theorem test_restart : (ctxOf (tRestart .parked 1) 0).restart = some 1 ∧ storesPowered (tRestart .parked 1) 0 = true ∧
    (ctxOf (tRestart .parked 2) 0).state = .parked ∧ peersReachable (tRestart .parked 2) 0 = true ∧
    (ctxOf (tRestart .parked 1) 0).progress.running = [] ∧ Canonical (tRestart .empty 4) ∧
    (tget CtxRecord.none (tRestart .empty 4).facet.contexts 0).present = false ∧
    storesPowered (setCtx State.reset 0 { Ctx.empty with state := .parked, restart := some 1, granted := { CtxRecord.none with level := 3 } }) 0 = false := by
  refine ⟨?_, ?_, ?_, ?_, ?_, ⟨?_, ?_⟩, ?_, ?_⟩ <;> decide

/-- The part at Stop 1; bits b of word 0 of the XS of slot 0 are upset. -/
def tUpset (b : BitVec 144) : State :=
  { setCtx State.reset 0 { Ctx.empty with stores := { Stores.clear with upXs := [(0, b)] } } with
    iris := { State.reset.iris with stop := 1 } }

/-- Witness for ScrubRepairsAndCounts: no upset, one bit, two bits; the walk at its start and at its last block. -/
theorem test_scrub : (tUpset 1).iris.stop ≠ 0 ∧ (tUpset 1).sys.halted = false ∧
    eccDecode (tget 0 (ctxOf (tUpset 1) 0).stores.upXs 1) = .good ∧
    (∃ b, eccDecode (tget 0 (ctxOf (tUpset 1) 0).stores.upXs 0) = .corrected b) ∧ Canonical (tUpset 1) ∧
    tableWf 0 (ctxOf (tUpset 1) 0).stores.upXs = true ∧ eccDecode (tget 0 (ctxOf (tUpset 3) 0).stores.upXs 0) = .uncorrectable ∧
    tget .free (tUpset 1).ledgers.ds 0 = .free ∧ (tUpset 1).mem.upFree = [] ∧ (tUpset 1).mem.upPartDs = [] ∧
    tableWf 0 (ctxOf (tUpset 1) 0).stores.xs = true := by
  refine ⟨?_, ?_, ?_, ⟨0, ?_⟩, ⟨?_, ?_⟩, ?_, ?_, ?_, ?_, ?_, ?_⟩ <;> decide +kernel

/-- The part at Stop 1 with core 0 as given. -/
def tCore (x : Core) : State := setCore { State.reset with iris := { State.reset.iris with stop := 1 } } 0 x

/-- Witness for TilesAreRemappedOrLost: with the spare, without one, in a remap, without power. -/
theorem test_tiles : corePowered (tCore Core.good) 0 = true ∧ (tCore Core.good).sys.halted = false ∧
    (servedBy (coreOf (tCore Core.good) 0) 1).isSome = true ∧ servedBy (coreOf (tCore Core.good) 0) 4 = none ∧
    (coreOf (tCore Core.good) 0).spare ≠ 7 ∧ (coreOf (tCore { Core.good with spare := 7 }) 0).spare = 7 ∧
    (servedBy (coreOf (tCore { Core.good with spare := 7 }) 0) 1).isSome = true ∧
    (coreOf (tCore { Core.good with remap := some (3, 1, []) }) 0).remap = some (3, 1, []) ∧
    tableWf Core.good (tCore { Core.good with remap := some (3, 1, []) }).sys.cores = true ∧
    corePowered State.reset 0 = false := by decide

/-- Witness for EncoderIndexLatchesTheLine: a facet that places ENC2. -/
theorem test_enc_index : (({ State.reset with facet := { State.reset.facet with balls := [0x03] } } : State).facet.balls.contains 0x03) = true := by
  decide

/-- The part collimated, with one edge raised, the encoder balls placed and the pulse source selected. -/
def tLines : State :=
  { State.reset with
    clk := { State.reset.clk with collimated := true }, lix := { State.reset.lix with due := 1, source := 4 },
    facet := { State.reset.facet with balls := [0x01, 0x02, 0x04] } }

/-- Witness for LinesAdvanceTheIndexByOne. -/
theorem test_lines : tLines.lix.due ≠ 0 ∧ tLines.clk.collimated = true ∧ tLines.facet.balls.contains 0x01 = true ∧
    tLines.facet.balls.contains 0x02 = true ∧ tLines.facet.balls.contains 0x04 = true ∧ tLines.lix.enc3 = false ∧ tLines.lix.source = 4 ∧
    tLines.lix.encA ≠ true ∧ State.reset.lix.due = 0 := by decide

/-- The count wraps after 2^48 - 1. -/
theorem test_line_wraps : ∃ t, exec (.lixLineEdge 400) { tLines with lix := { tLines.lix with count := BitVec.allOnes 48 } } = .next t ∧
    t.lix.count = 0 := ⟨_, rfl, by decide⟩

/-- Witness for CollimationTriesThreeTimes. -/
theorem test_collimation : ({ Clk.reset with lock := 0b111, running := true, attempts := 3 } : Clk).running = true ∧
    ({ Clk.reset with lock := 0b111 } : Clk).lock.getLsbD 0 = true ∧ State.reset.clk.running = false ∧ State.reset.clk.collimated = false ∧
    State.reset.sys.halted = false ∧ State.reset.clk.lock.getLsbD 0 = false := by decide

/-- Port 0 at Stop 3, of one lane, 8 pixels of RAW8 and a ring of 4 lines owned by slot 1; up or down. -/
def tPort (up : Bool) (x : Port) : State :=
  setPort { State.reset with
    iris := { State.reset.iris with stop := 3 }, clk := { State.reset.clk with collimated := true },
    facet := { State.reset.facet with
      ports := [(0, { PortCfg.none with lanes := 1, share := 1, dataType := 0x2A, length := 8, ringLines := 4, ringOwner := 1,
                                        locked := true })] } } 0 { x with up := up }

/-- A packet for it. -/
def tPacket (crc : Bool) : LinePacket :=
  { dataType := 0x2A, channel := 0, wordCount := 8, crcOk := crc, payload := List.replicate 8 0x81, firstLix := 5, reflexIn := 0, tailTen := false }

/-- Witness for SensorPortsTakeLines: a good and a bad packet on a port that takes it, an open frame with a line, a port that is down. -/
theorem test_port : takesPacket (tPort true Port.idle) 0 (tPacket true) ∧ goodPacket (tPort true Port.idle) 0 (tPacket true) = true ∧
    goodPacket (tPort true Port.idle) 0 (tPacket false) = false ∧ portTakes (tPort false Port.idle) 0 = false ∧
    portPowered (tPort false Port.idle) 0 = true ∧ (portOf (tPort false Port.idle) 0).up = false ∧
    (portOf (tPort true { Port.idle with frameOpen := true, firstLine := some 3 }) 0).firstLine = some 3 ∧
    Canonical (tPort true Port.idle) ∧ tableWf Port.idle (tPort true Port.idle).media.ports = true := by
  refine ⟨⟨?_, ?_, ?_, ?_, ?_, ?_⟩, ?_, ?_, ?_, ?_, ?_, ?_, ⟨?_, ?_⟩, ?_⟩ <;> decide

/-- Ports 0 and 1 bonded, both up; a half waits on port 1. -/
def tPairPorts : State :=
  let s := tPort true Port.idle
  let c : PortCfg := { PortCfg.none with lanes := 1, share := 1, dataType := 0x2A, length := 8, bonded := true }
  setPort { s with facet := { s.facet with ports := [(0, c), (1, { c with bonded := false })] } } 1
    { Port.idle with up := true, half := some (none, 5) }

/-- Witness for HalvesOutOfStepRetrainBothPorts. -/
theorem test_halves : portTakes tPairPorts 1 = true ∧ (tPacket true).dataType = (portCfg tPairPorts 1).dataType ∧
    (tPacket true).channel = (portCfg tPairPorts 1).channel ∧ (portOf tPairPorts 1).half.isSome = true ∧ bondedUpper tPairPorts 1 = true := by
  decide

/-- Glint at Stop 3 with a swap armed for the present line; ball 2 is active, ball 3 pulses; the window names ball 0 or none. -/
def tGlint (named : Bool) : State :=
  { State.reset with
    iris := { State.reset.iris with stop := 3 },
    glint := { State.reset.glint with
      armed := true, balls := [(2, { active := true, lines := 0, pulse := false }), (3, { active := true, lines := 4, pulse := true })],
      active := [(0x918 + 24, 2)], window := if named then [(0x910, 1)] else [] } }

/-- Witness for GlintBanksSwapAndPulsesEnd. -/
theorem test_glint : (tGlint true).glint.armed = true ∧ 3 ≤ (tGlint true).iris.stop ∧ targetReached (tGlint true) 0 0 = true ∧
    bankRefused (tGlint true) (tGlint true).glint.window = true ∧ bankRefused (tGlint false) (tGlint false).glint.window = false ∧
    tableWf Ball.idle (tGlint false).glint.balls = true ∧ (tget Ball.idle (tGlint false).glint.balls 3).pulse = true ∧
    (tget Ball.idle (tGlint false).glint.balls 2).active = true ∧ (tget Ball.idle (tGlint false).glint.balls 2).lines = 0 ∧
    controlWord (tGlint false).glint.active 2 % 4 = 2 ∧ State.reset.glint.armed = false := by decide

/-- Controller 0 at Stop 1 with a list of one entry armed for the present line, or running. -/
def tList (run : Option (List CciEntry)) : State :=
  setCci { State.reset with iris := { State.reset.iris with stop := 1 } } 0
    { Cci.idle with armed := true, window := [(8, 1)], running := run }

/-- Witness for CameraListsRunOnce. -/
theorem test_list : (cciOf (tList none) 0).armed = true ∧ (cciOf (tList none) 0).running = none ∧ cciPowered (tList none) 0 = true ∧
    targetReached (tList none) (cciOf (tList none) 0).target 0 = true ∧ (cciEntries (cciOf (tList none) 0).window).length = 1 ∧
    (cciOf (tList (some (cciEntries [(8, 1)]))) 0).running = some (cciEntries [(8, 1)]) ∧ (tList none).sys.halted = false := by decide

/-- The part at a Stop with a deferred sample queued on stream 4 of slot 0. -/
def tQueued (stop : Nat) : State :=
  { setCtx State.reset 0 { Ctx.empty with
      streams := [(4, { Stream.idle with
        queue := [{ entry := 2, width := 8, height := 8, order := 0, format := 0, short := false, grain := false, background := 0,
                    record := 300, place := 0, size := 0, dpbAt := 0, dpbSize := 0, empty := false,
                    decoded := false, digest := 0, coded := [] }] })] } with
    iris := { State.reset.iris with stop := stop } }

/-- Witness for StreamsDecodeAndAccept: the deferred sample. -/
theorem test_deferred : ((streamOf (tQueued 2) 0 4).queue.find? fun d => !d.decoded).isSome = true ∧ 2 ≤ (tQueued 2).iris.stop ∧
    slotBusy (tQueued 2) 0 4 = false ∧ (streamOf State.reset 0 4).queue = [] := by decide

/-- The part at Stop 2 with net 0 served; the record at word 300 of the XS of slot 0 takes packets, the last one of number q. -/
def tStream (q : Option (BitVec 16)) : State :=
  { setCtx State.reset 0 { Ctx.empty with
      state := .active, module := some { moduleOf State.reset 0 with xsKib := 8 },
      stores := { Stores.clear with xs := [(4802, 1), (4804, 1)] },
      streams := [(0, { Stream.idle with lastSeq := q })] } with
    iris := { State.reset.iris with stop := 2 }, facet := { State.reset.facet with net0 := true, videos := [(0, { slots := 1, owners := [0] })] },
    sys := { State.reset.sys with powerGood := true, resetN := true } }

/-- A packet of it, number 7. -/
def tRtp (supported : Bool) : RtpPacket :=
  { slot := 0, record := 300, port := 0, ipv6 := false, udp := 0, version := 2, unicast := supported, payloadType := 0, ssrc := 9, seq := 7,
    timestamp := 5, marker := true, payload := [1, 2, 3] }

/-- Witness for StreamsDecodeAndAccept: packets discarded, out of order and taken. -/
theorem test_rtp : served (tStream none) (packetIface (tRtp true)) = true ∧ streamTakes (tStream none) (tRtp true) = true ∧
    streamTakes (tStream none) (tRtp false) = false ∧ rtpAbove (streamOf (tStream none) 0 0) 7 = true ∧
    streamTakes (tStream (some 7)) (tRtp true) = true ∧ rtpAbove (streamOf (tStream (some 7)) 0 0) 7 = false ∧
    served State.reset .net0 = false := by decide

/-- The part ready, at Stop n, with the governor's fields changed. -/
def tLevel (n : Nat) (f : Iris → Iris) : State :=
  { State.reset with
    iris := f { State.reset.iris with stop := n, target := n, mainEn := true }, clk := { State.reset.clk with collimated := true },
    sys := { State.reset.sys with ready := true, powerGood := true, resetN := true } }

/-- Witness for LevelsRiseAndFall: a raise, rails due, an idle part, a limit below the level, a lowering, a trip. -/
theorem test_levels : (tLevel 1 fun i => { i with raising := true, target := 3 }).iris.raising = true ∧
    (tLevel 0 fun i => { i with railsDue := true }).iris.railsDue = true ∧
    (holdTime (tLevel 3 id) 3 ≤ (tLevel 3 fun i => { i with quiet := 100000 }).iris.quiet) ∧
    raiseAsked (tLevel 3 id) ≤ 3 ∧ idleTarget (tLevel 3 id) < 3 ∧
    allowedStop (tLevel 3 fun i => { i with budgetLimit := 2000 }) < 3 ∧
    departing (tLevel 1 fun i => { i with lowering := true, target := 0 }) 0 = [] ∧ (tLevel 1 id).iris.thermtrip = false ∧
    (tLevel 1 fun i => { i with budgetTwice := true, budgetLast := 1 }).iris.budgetLast ≠ (tLevel 1 id).iris.budget := by decide

/-- Witness for TheTickRefillsAndGoverns: a part that is ready, one that is not, one without power. -/
theorem test_tick : (tLevel 1 id).sys.powerGood = true ∧ (tLevel 1 id).sys.ready = true ∧ (tLevel 1 id).sys.halted = false ∧
    tableWf 400 (tLevel 1 id).iris.temps = true ∧ State.reset.sys.powerGood = false := by decide

/-- From 100 tokens in flight at Stop 0, the refill is what 22 mW leave above the standing charge of 21 tokens. -/
theorem test_refill : ∃ t, exec (.islandMsTick [] 3 true)
      { tLevel 0 (fun i => { i with flight := 100 }) with facet := { State.reset.facet with timing := { State.reset.facet.timing with envelope := 60000, budgetFull := 60000, floor := 0 } } } = .next t ∧
    t.iris.flight = 99 := ⟨_, rfl, by decide⟩

/-- The part at Stop 1 with slot 0 active and owning the island, its time-out 500, WAKE_N given to it; the island as given. -/
def tIsland (f : Island → Island) : State :=
  let s := tLevel 1 id
  { setCtx s 0 { Ctx.empty with state := .active } with
    facet := { s.facet with island := { s.facet.island with owner := some 0, wakeN := true, timeout := 500, threshold := 10 } },
    island := f { s.island with detector := true } }

/-- Witness for WakesOpenTheShutterAndTicksCloseIt: an evaluation, a press, a frame end, a burst, a closing tick, the requests, messages. -/
theorem test_island : (tIsland id).island.detector = true ∧ (tIsland id).facet.island.owner.isSome = true ∧ (tIsland id).island.evals < 10 ∧
    (tIsland fun i => { i with lowTicks := 2 }).island.lowTicks = 2 ∧ (tIsland id).facet.island.wakeN = true ∧
    (tIsland fun i => { i with position := 160 }).island.position % 160 = 0 ∧
    (tIsland fun i => { i with position := 160 }).island.frames < 160 / 160 ∧
    (tIsland fun i => { i with burst := some (0, []) }).island.burst = some (0, []) ∧
    (tIsland fun i => { i with closing := true, closeTime := true, closeEnd := true, open_ := true }).island.closing = true ∧
    ownerActive (tIsland id) = true ∧ State.reset.island.closing = false ∧ ownerActive State.reset = false := by decide

/-- Witness for WakesOpenTheShutterAndTicksCloseIt: a press that is put off and one that is not, on a tick that ends a frame and on one
that does not; a frame end without a wake. -/
theorem test_wakes : wakePutOff (tIsland id) = false ∧ frameEndDue (tIsland id) = false ∧
    frameEndDue (tIsland fun i => { i with position := 160 }) = true ∧ pressDue (tIsland fun i => { i with position := 160 }) = false ∧
    (tIsland id).island.bestScore = none ∧ (tIsland id).island.wakeNext = none ∧ (tIsland id).sys.powerGood = true ∧
    (tIsland fun i => { i with closing := true, closeOwner := true }).island.closeOwner = true := by decide

/-- A press opens the shutter with the facet's time-out. -/
theorem test_press : ∃ t, exec .wakeNPress (tIsland fun i => { i with lowTicks := 2 }) = .next t ∧ t.island.open_ = true ∧
    t.island.timeout = 500 := ⟨_, rfl, by decide, by decide⟩

/-- An entry in a state. -/
def tPlay (x : Nat) : Play := { Play.empty with frames := 100, state := x, mask := 1 }

/-- Witness for PlayEntriesRunInTurn: an entry on the bridge with its slot empty and playing, the shutter open and closed; one queued and
due; one playing. -/
theorem test_play : tget Play.empty (tIsland fun i => { i with bridge := [(2, tPlay 1)] }).island.bridge 2 = tPlay 1 ∧
    tableWf Play.empty [(2, tPlay 2)] = true ∧ (tget Play.empty [(2, tPlay 2)] 2).state = 2 ∧ playOk (tIsland id) (tPlay 1) = false ∧
    playOk (setCtx (tIsland id) 0 { Ctx.empty with module := some { moduleOf State.reset 0 with xsKib := 64 } }) (tPlay 1) = true ∧
    queuedNext (tIsland fun i => { i with plays := [(2, tPlay 1)] }).island = some 2 ∧
    playDue (tIsland fun i => { i with plays := [(2, tPlay 1)], position := 320 }).island 2 = true ∧ 320 % 160 = 0 := by decide

/-- The pair at Stop 4 with port 0 training, its other ports up. -/
def tTraining (x : RelayPort) : State := setRelayPort (tPair true) 0 x

/-- What the partner on port 0 says, with a flight. -/
def tPartner (flight : Nat) : RelayIdentity :=
  { partIndex := 1, setSize := 2, peerNumber := 0, portNumber := 0, digest := (tPair true).facet.relayDigest, epoch := 0, flight := flight,
    depth := 3 }

/-- Witness for RelayLinksTrainAndFall: a good partner, a far one, a wrong one; a port up; a link up; a peer whose ports failed. -/
theorem test_training : portTrains (tTraining { RelayPort.idle with step := 1 }) 0 = true ∧
    identityOk (tTraining { RelayPort.idle with step := 1 }) 0 (tPartner 100) = true ∧
    identityOk (tTraining { RelayPort.idle with step := 1 }) 0 { tPartner 100 with partIndex := 7 } = false ∧
    (tTraining { RelayPort.idle with step := 1 }).relay.cut.getLsbD 1 = false ∧ portTrains State.reset 0 = false ∧
    linkUp (tPair true) 1 = true ∧ (relayPort (tPair true) 0).up = true ∧ (tPair true).iris.stop = 4 ∧ linkUp (tPair false) 1 = false ∧
    allFailed (tPair true) 1 = false ∧
    allFailed { tPair true with relay := { (tPair true).relay with ports := (span 0 8).map fun n => (n, { RelayPort.idle with fails := 3 }) } } 1 = true := by
  decide

/-- A flit from part 1 of a kind, with the other bits given, on port 0. -/
def tFlit (b : BitVec 5140) : FlitIn := { port := 0, lane := 0, fecCorrected := false, fecOk := true, bits := b }

/-- The pair at Stop 4, slot 0 active and owning window 3 from slot 0 of part 1. -/
def tFlits (l : List Message) : State := setCtx (tWindow l) 0 { Ctx.empty with state := .active }

/-- Witness for FlitsAreCheckedThenTaken: a flit of each kind that is taken, one with an error, one of another epoch. -/
theorem test_flits : (relayPort (tFlits []) 0).up = true ∧ (tFlits []).iris.stop = 4 ∧ (tFlits []).sys.halted = false ∧
    flitError (tFlits []) (tFlit 0x11) = none ∧ flitKind (tFlit 0x11) = 1 ∧ flitKind (tFlit 0x12) = 2 ∧ flitKind (tFlit 0x13) = 3 ∧
    flitKind (tFlit 0x14) = 4 ∧ flitKind (tFlit 0x15) = 5 ∧ flitKind (tFlit 0x16) = 6 ∧ flitPart (tFlit 0x11) = 1 ∧
    flitEpoch (tFlit 0x11) = (tFlits []).relay.epoch.toNat ∧ flitField (tFlit 0x11) 144 24 = 0 ∧
    (flitWindow (tFlits []) (tFlit (0x11 + 3 * 2 ^ 48))).isSome = true ∧ flitField (tFlit (0x15 + 2 ^ 144)) 144 24 = 1 ∧
    reducing (tFlits []) 0 0 = [] ∧ flitEpoch (tFlit 0x10016) = 1 ∧ flitError (tFlits []) { tFlit 0x11 with fecOk := false } = some 1 ∧
    (messageOf (tFlits [{ number := 0, slot := 0, offset := 0, length := 16, released := false, last := true, returned := false }])
      { part := 0, number := 3, owner := 0, fromPart := 1, fromSlot := 0, offset := 64, size := 512 } 0 0).isSome = true := by decide +kernel

/-- A flash slot with no image, and a start with none and with nothing wrong otherwise. -/
def tNoImage : ImageSlot :=
  { magicOk := false, format := 0, securityVersion := 0, imageLength := 0, stageALength := 0, sections := [], vendorOk := false,
    ownerOk := false, firmwareDigest := [], applicationDigest := [], ownerKeyHash := [] }

/-- A vendor image of two sections. -/
def tImage : ImageSlot :=
  let s (k o : Nat) : Section := { offset := o, length := 4096, kind := k, signer := 0, number := 0, xsKib := 0, shaOk := true, cycles := 0 }
  { tNoImage with magicOk := true, format := 1, imageLength := 0x5000, stageALength := 0x5000, sections := [s 0 0x3000, s 1 0x4000],
                  vendorOk := true }

def tStart (v : ImageSlot) (fails : Nat) (dram : Option Nat) : ColdStart :=
  { facetBalls := 0, pufOk := true, slot0 := v, slot1 := tNoImage, collimateFails := fails, dramFail := dram, tilesPass := BitVec.allOnes 80 }

/-- Witness for PowerAndReadiness: without power, with it, a SYS_RESET that is served, a start-up that has ended. -/
theorem test_start : State.reset.sys.powerGood = false ∧ (tLevel 3 id).sys.powerGood = true ∧ reaches (tLevel 3 id) .uart 0x18 = true ∧
    startupDone { tLevel 3 id with sys := { (tLevel 3 id).sys with ready := false } } = true ∧ startupDone State.reset = false ∧
    stageAOk tImage = true ∧ stageAOk tNoImage = false := by decide

/-- Witness for PowerAndReadiness: a start with an image, and one with none. -/
theorem test_images : (chooseImage (wardenStep (powerUp State.reset) (tStart tImage 0 none)) (tStart tImage 0 none)).isSome = true ∧
    chooseImage (wardenStep (powerUp State.reset) (tStart tNoImage 3 (some 2))) (tStart tNoImage 3 (some 2)) = none := by decide +kernel

/-- A frame of an op with a payload. -/
def tFrame (op : Nat) (payload : List Byte) : List Byte := frameBytes op 0 0 7 payload

/-- Witness for FramesAreAcceptedOrCounted: a served interface, a good frame of each op, and a bad one. -/
theorem test_frames : (∀ x ∈ [(1, bytesLe 0x10010 4 ++ bytesLe 1 4), (2, bytesLe 0x10008 4 ++ bytesLe 50 4), (3, [0, 0, 0, 0, 9]),
      (4, List.replicate 32 0), (5, [8, 0, 0, 0, 9])],
      FrameTaken (tLevel 1 id) .uart x.1 (onLine .uart (tFrame x.1 x.2)) (tFrame x.1 x.2)) ∧
    Machine.frameOk .uart [1, 2, 3] = false ∧ frameBody .uart [0xC0, 0xDB, 1, 0xC0] = none ∧ served State.reset .uart = false ∧
    ([0xC0, 0xC0, 0xC0] : List Byte).getD 1 0 = 0xC0 ∧ (∀ c ∈ [(1 : Byte)], c ≠ 0xC0 ∧ c ≠ 0xDB) ∧ ([1] : List Byte).headD 0 ≠ 0xDC := by
  unfold FrameTaken
  decide +kernel

/-- The operands of those frames, and those of frames that name an address outside the map. -/
theorem test_frame_operands : readAddresses (bytesLe 0x10010 4 ++ bytesLe 1 4) = [0x10010] ∧ addressOk 0x10010 = true ∧
    pairsOf (bytesLe 0x10008 4 ++ bytesLe 50 4) = [(0x10008, 50)] ∧ addressOk 0x10008 = true ∧ addressOk 0x110000 = false ∧
    badPair 0 (pairsOf (bytesLe 0x110000 4 ++ bytesLe 50 4)) = some 0 ∧ canSign State.reset.sec = false ∧
    canSign { State.reset.sec with identity := true, stateOk := true } = true := by decide

/-- Port 1 at Stop 2, its link up or down, a reply waiting for the SPI master, and a signature in progress. -/
def tNet (up : Bool) : State :=
  let s := tLevel 2 id
  { s with
    facet := { s.facet with net0 := true },
    control := { s.control with spi := [[1, 2]], nets := [(1, { NetPort.idle with link := up, rsFec := true, ipv4 := 9 })] },
    sec := { s.sec with building := true,
                        signing := some { iface := .uart, request := 3, report := [], leaf := 0 } } }

/-- Witness for SignaturesLinksAndTestPort. -/
theorem test_net : netServed (tNet true) 1 = true ∧ (netPort (tNet true) 1).link = true ∧ (netPort (tNet false) 1).link = false ∧
    served (tNet true) .spi = true ∧ (tNet true).control.spi = [1, 2] :: [] ∧ (tNet true).sec.signing.isSome = true ∧
    (tNet true).sec.building = true ∧ State.reset.sec.building = false ∧
    (tNet true).sys.resetN = true ∧ State.reset.sys.resetN = false ∧ tableWf NetPort.idle (tNet true).control.nets = true := by decide

/-- A field past the first bytes of a list that ends in zeros is zero. -/
theorem field_zeros (l : List Byte) (h : l.length = 26) : field (l ++ List.replicate 1990 0) 40 4 = 0 := by
  unfold field
  rw [List.drop_append, List.drop_eq_nil_of_le (by omega), h, List.nil_append, List.drop_replicate, List.take_replicate]
  decide

/-- With no boot record no port has a fixed address. -/
theorem test_no_fixed_address : fixedAddress (tNet true) 1 = false := by
  have h : recordCopy (tNet true).sec.nvs 0 "BOOT" = none := by decide
  have l : ((List.replicate 12 (0 : Byte) ++ bytesLe Config.slot1Default 4 ++ bytesLe 0 4) ++
      (Config.macBase ++ List.replicate 6 0).take 6).length = 26 := by simp [bytesLe]
  have z := field_zeros _ l
  unfold fixedAddress bootField bootBytes
  rw [h]
  exact decide_eq_false (fun c => c z)

/-- Witness for RegisterWritesTakeEffect: a part whose UART is served, and one where it is not. -/
theorem test_writable : writable (tLevel 1 id) .uart ∧ (tLevel 1 id).lix.source ≠ 5 ∧ sourceAvailable (tLevel 1 id) 5 = true ∧
    0 < (tLevel 1 id).lix.divider ∧ Canonical (tLevel 1 id) ∧ (tLevel 1 id).lix.refPeriod < 2 ^ 32 ∧
    Memory.wf (tLevel 1 id).sec.staging = true ∧ served State.reset .uart = false := by
  refine ⟨⟨?_, ?_⟩, ?_, ?_, ?_, ⟨?_, ?_⟩, ?_, ?_, ?_⟩ <;> decide

/-- Witness for RegisterWritesTakeEffect: an instance of a command with a QCAL, placed for a later edge. -/
theorem test_start_later : startLater (setInst (setCtx State.reset 0 { Ctx.empty with
      module := some { moduleOf State.reset 0 with
        code := [{ opcode := 0x52, insn := tWord .descriptor 0 0 }], commands := [{ commandOf State.reset 0 0 with count := 1 }] } })
      0 { tInst with admitEdge := 4 }) 0 = [0] := by decide +kernel

/-- A limit above 60,000 mW is kept at 60,000. -/
theorem test_limit : ∃ t, exec (.irisBudgetLimit .uart 0xFFFF) (tLevel 1 id) = .next t ∧ t.iris.budgetLimit = 60000 := ⟨_, rfl, by decide +kernel⟩

/-- A part at Stop 1 whose slot 0 has a state, a restart due or not, and a context record that asks for one engine of core 0. -/
def tSlot (k : SlotState) (restart : Option Nat) : State :=
  let r : CtxRecord := { CtxRecord.none with present := true, level := 1, engines := 1, allotment := 1, soft := 1, hard := 1 }
  let s := tLevel 1 id
  setCtx { s with iris := { s.iris with capacity := 1000 } } 0
    { Ctx.empty with state := k, restart := restart, record := r, granted := { r with level := 1 } }

/-- Witness for ContextAndPartControls: a slot in each state, with a restart due or not, and shares that are granted. -/
theorem test_controls : Canonical (tSlot .active none) ∧ writable (tSlot .active none) .uart ∧ (ctxOf (tSlot .active none) 0).state = .active ∧
    (ctxOf (tSlot .stopped (some 4)) 0).state = .stopped ∧ (ctxOf (tSlot .stopped none) 0).granted.level ≤ (tSlot .stopped none).iris.stop ∧
    occupied (ctxOf (tSlot .active none) 0) = true ∧ occupied (ctxOf State.reset 0) = false := by
  refine ⟨⟨?_, ?_⟩, ⟨?_, ?_⟩, ?_, ?_, ?_, ?_, ?_⟩ <;> decide

/-- Witness for ContextAndPartControls: a LOAD that is granted. -/
theorem test_load : let s := tSlot .empty none
    (ctxOf s 0).record.present = true ∧ recordRanged s.iris.capacity (ctxOf s 0).record = true ∧ coresPowered (ctxOf s 0).record = true ∧
    (grantShares s 0 (ctxOf s 0).record).isSome = true ∧ writable s .uart ∧ Canonical s := by
  refine ⟨?_, ?_, ?_, ?_, ⟨?_, ?_⟩, ?_, ?_⟩ <;> decide +kernel

/-- Witness for ContextAndPartControls: a facet that waits, on a collimated part with no transition; a selection with none waiting; two
ports that are up. -/
theorem test_facet_waits : (let s := tLevel 3 id
    let t := { s with sys := { s.sys with nextFacet := some (1, Facet.empty, 0) } }
    t.sys.nextFacet.isSome = true ∧ t.clk.collimated = true ∧ t.sys.halted = false ∧ t.iris.raising = false ∧ t.iris.lowering = false) ∧
    (tLevel 1 id).sys.nextFacet = none ∧ (relayPort (tPair true) 0).up = true ∧ (tPair true).iris.stop = 4 ∧
    (1 : BitVec 8) ≠ 0 ∧ (2 : BitVec 9) ≠ 0 := by decide

/-- A part with a command of the NVS engine running, a key in slot 1, and engine 0 stopped at the breakpoint. -/
def tSec (op : Nat) : State :=
  let s := tLevel 2 id
  setInst { s with
    sec := { s.sec with nvs := wr s.sec.nvs (keyPlace 1 + 32) 1,
                        job := if op = 0 then none else some { op := op, index := 1, iface := .uart, data := List.replicate 32 7 } },
    digest := { s.digest with broken := some (0, 0) } } 0 { tInst with halted := true }

/-- Witness for ReadsFlashNvsAndDigest. -/
theorem test_sec : (∀ x ∈ readRows, readable (tSec 0) x.2 = true) ∧ (∀ x ∈ readRows, readable State.reset x.2 = false) ∧
    writable (tSec 0) .uart ∧ tableWf 0xFF (tSec 0).sec.flash = true ∧ (tSec 0).sec.job = none ∧ (tSec 2).sec.job.isSome = true ∧
    (tSec 3).sec.job.isSome = true ∧ keyPresent (tSec 0) 1 = true ∧ keyPresent (tSec 0) 0 = false ∧ Canonical (tSec 0) ∧
    (engOf (tSec 0) 0).run.isSome = true ∧ (tSec 0).digest.broken.isSome = true ∧ (tLevel 1 id).digest.broken = none ∧
    Memory.wf (tSec 2).sec.nvs = true ∧ (ctxOf (tSec 0) (tSec 0).digest.replaySlot).replay.words.length < 262144 ∧
    (jobRows (tSec 0) .uart).isEmpty = false := by
  refine ⟨?_, ?_, ⟨?_, ?_⟩, ?_, ?_, ?_, ?_, ?_, ?_, ⟨?_, ?_⟩, ?_, ?_, ?_, ?_, ?_, ?_⟩ <;> decide +kernel


/-! ### The checks of WellFormed -/

/-- An engine number above 63, and a slot of each kind with a reserved bit or space, are refused (R91 to R93, R355). -/
theorem test_ill_words : Instr.wellFormed (.halt 64 (tWord .immediate 0 0)) = false ∧
    Instr.wellFormed (.load 0 (tWord .descriptor 0x10000 0)) = false ∧ Instr.wellFormed (.load 0 (tWord .descriptor 0 0x400)) = false ∧
    Instr.wellFormed (.store 0 (tWord .store 0xC0000000 0)) = false ∧ Instr.wellFormed (.br 0 (tWord .scalar 16 0)) = false ∧
    Instr.wellFormed (.load 63 (tWord .descriptor 0x3FF 0xFBFF)) = true ∧ Instr.wellFormed (.br 0 (tWord .scalar 15 0)) = true ∧
    Instr.wellFormed (.atl 0 (tWord .immediate 0xFFFFFFFF 0xFFFFFFFF)) = true := by decide

/-- Numbers of engines, semaphores, slots, ports, balls and units outside their ranges are refused. -/
theorem test_ill_numbers : Instr.wellFormed (.lineWaitEnd 64) = false ∧ Instr.wellFormed (.semaphoreGrant 1024) = false ∧
    Instr.wellFormed (.teardown 32) = false ∧ Instr.wellFormed (.qntClipThreshold .uart 32 0) = false ∧
    Instr.wellFormed (.ignoredPacket 8) = false ∧ Instr.wellFormed (.linePacket 8 (tPacket true)) = false ∧
    Instr.wellFormed (.linePacket 0 { tPacket true with channel := 16 }) = false ∧ Instr.wellFormed (.glintPulseExpiry 16) = false ∧
    Instr.wellFormed (.cciListStart 8) = false ∧ Instr.wellFormed (.playEntryQueued 4) = false ∧ Instr.wellFormed (.relayRetrain 8) = false ∧
    Instr.wellFormed (.peerCut 9) = false ∧ Instr.wellFormed (.heartbeatMiss 16 0) = false ∧ Instr.wellFormed (.heartbeatMiss 0 5) = false ∧
    Instr.wellFormed (.remapDone 16) = false ∧ Instr.wellFormed (.thermalTrip 32 0) = false ∧ Instr.wellFormed (.ethernetLinkDown 3) = false ∧
    Instr.wellFormed (.islandMsTick [] 0 false) = false ∧ Instr.wellFormed (.thermalTrip 31 0) = true ∧
    Instr.wellFormed (.peerCut 8) = true ∧ Instr.wellFormed .irisBeat = true := by decide

/-- A packet, a flit and a frame out of range are refused. -/
theorem test_ill_data : Instr.wellFormed (.rtpPacket { tRtp true with port := 2 }) = false ∧
    Instr.wellFormed (.rtpPacket { tRtp true with payloadType := 128 }) = false ∧ Instr.wellFormed (.rtpPacket (tRtp true)) = true ∧
    Instr.wellFormed (.dataFlit { tFlit 0 with port := 8 }) = false ∧ Instr.wellFormed (.controlFlit { tFlit 0 with lane := 4 }) = false ∧
    Instr.wellFormed (.dataFlit (tFlit 0)) = true ∧ Instr.wellFormed (.read .uart []) = true := by decide

/-- A frame longer than 2,072 bytes, each of them escaped on the UART, is refused. -/
theorem test_ill_frame : Instr.wellFormed (.write .uart (List.replicate 4147 0)) = false := by
  simp only [Instr.wellFormed, Sys2Proof.frameOk, List.length_replicate]
  decide

/-! ### The worked examples of the spec -/

/-- One word and four faults (after R215): the check bits, and what each fault gives. -/
theorem test_word_code : eccCheck (2 ^ 37 + 1) = 0x1B3 ∧ eccDecode (2 ^ 37) = .corrected 37 ∧ eccDecode (2 ^ 133) = .corrected 133 ∧
    eccDecode (2 ^ 36 + 2 ^ 37 + 2 ^ 38 + 2 ^ 39) = .uncorrectable ∧ eccDecode (2 ^ 37 + 1) = .uncorrectable := by decide +kernel

/-- The +1 word on a DS load (after R143): 4,097 words from DS to ES take 1,712 cycles, and 4,128 words as long. -/
theorem test_ds_load : moveTime false 4097 3 0 = (48 * 33, 1712) ∧ (moveTime false 4128 3 0).2 = 1712 := by decide

/-- Calibration drift on the docket line (after R186): the shifts QCAL chooses, and the clip test. -/
theorem test_docket : fitShift 1 5 0 344 = 2 ∧ shiftTz 344 2 + 5 = 91 ∧ fitShift 1 5 0 600 = 3 ∧ shiftTz 600 3 + 5 = 80 ∧
    clipped 655 4096 52 = true := by decide

/-- The optimiser block of the worked example after R194. -/
def tOpt : OptBlock :=
  { parseOpt [] with b1 := 0, ge := 0, lr := 1000, sl := 24 }

/-- An update below one code: four steps with gradient 12 from weight 2,000 and residue 0. -/
theorem test_update : optElem tOpt 12 2000 0 0 0 = (2000, 12, 0, 12000, false) ∧ optElem tOpt 12 2000 12 0 12000 = (2000, 12, 0, 24000, false) ∧
    optElem tOpt 12 2000 12 0 24000 = (1999, 12, 0, 3232, false) ∧ optElem tOpt 12 1999 12 0 3232 = (1999, 12, 0, 15232, false) := by
  decide +kernel

/-! ### Witnesses for the completions of queued instructions -/

/-- An operation answers, and its answer has a property. -/
def okAnd {ε α : Type} (x : Except ε α) (p : α → Bool) : Bool :=
  match x with
  | .ok a => p a
  | .error _ => false

theorem okAnd_answers {ε α : Type} {x : Except ε α} {p : α → Bool} (h : okAnd x p = true) : ∃ a, x = .ok a ∧ p a = true := by
  cases x with
  | ok a => exact ⟨a, rfl, h⟩
  | error _ => cases h

/-- Values at byte addresses, each of a number of bytes. -/
def tLe (l : List (Nat × Nat × Nat)) : Memory :=
  l.flatMap fun x => ((bytesLe x.2.2 x.2.1).zipIdx.filter fun p => p.1 ≠ 0).map fun p => (x.1 + p.2, p.1)

/-- A dense tensor with zero point 0. -/
def tTensor (space base format : Nat) (ext : List Nat) : Desc :=
  { base := base, nibble := false, space := space, format := format, rank := ext.length,
    ext := (span 0 5).map fun k => ext.getD k 1, stride := (span 0 5).map fun k => ((ext.take k).foldl (· * ·) 1 : Nat),
    zero := 0, bank := 0, chdim := 0, perChannel := false, scaled := false, reserved := false }

/-- Slot 0 runs on engine 0, with 16 KiB of ES and of CS, its descriptors, and these bytes of XS below its tables and of DS. -/
def tRun (descs : List (Nat × Desc)) (xs ds : List (Nat × Nat × Nat)) : State :=
  let m : Module := { moduleOf State.reset 0 with esKib := 16, csKib := 16, xsKib := 2048, dsMib := 1, descKib := 960, scaleKib := 1024, commitKib := 64 }
  let table := descs.flatMap fun d => ((descBytes d.2).zipIdx.filter fun p => p.1 ≠ 0).map fun p => (960 * 1024 + 64 * d.1 + p.2, p.1)
  { State.reset with
    ctxs := [(0, { Ctx.empty with state := .active, module := some m, stores := { Stores.clear with xs := tLe xs ++ table, ds := tLe ds } })],
    engines := [(0, { Engine.idle with run := some tInst })] }

/-- Bytes of XS that lie below the tables, and the slot that names one. -/
def tData (k : Nat) : Nat := 16 * k

def tAt (k : Nat) : Word := BitVec.ofNat 32 (2 ^ 31 + k)

/-- A word of three slots. -/
def tOp (ka kb kc : Kind) (a b c : Word) : Insn := { tWord .immediate a b with kindA := ka, kindB := kb, kindC := kc, c := c }

/-- An engine's instance may issue a word without a predicate and meets good words only: its context has no window and no upset. -/
theorem turn_of (s : State) (e : Nat) (i : Inst) (w : Insn) (hr : Runs s e i) (hm : mayIssue s e i = true) (h : w.predOn = false)
    (hb : (bankOf { s := s, i := i }).up = []) (hw : windowsOf s i.origin.slot = []) (hu : i.stagedUp = [])
    (he : (ctxOf s i.origin.slot).stores.upEs = []) (hc : (ctxOf s i.origin.slot).stores.upCs = [])
    (hx : (ctxOf s i.origin.slot).stores.upXs = []) (hd : (ctxOf s i.origin.slot).stores.upDs = []) : Turn s e i w := by
  refine ⟨hr, hm, by simp [predicateHolds, h], by simp [outcomeFits, h], fun sp a => ?_, hb⟩
  have hs : (Run.mk s i).slot = i.origin.slot := rfl
  have hn : windowAt s i.origin.slot a = none := by simp [windowAt, hw]
  simp only [upsetOf, hs, hn, hu, he, hc, hx, hd, tget]
  split
  · rfl
  · split
    · rfl
    · simp only [ne_eq, not_true_eq_false, if_false]
      split <;> rfl

/-- Engine 0 runs the instance, which may issue a word without a predicate: no word of its stores has an upset. -/
theorem turn_run (descs : List (Nat × Desc)) (xs ds : List (Nat × Nat × Nat)) (w : Insn) (h : w.predOn = false) :
    Turn (tRun descs xs ds) 0 tInst w :=
  turn_of _ _ _ _ rfl rfl h rfl rfl rfl rfl rfl rfl rfl

/-- Tensors of ES: int32 of 4 elements at bytes 0 and 64, of 1 at 128, of 16 at 256 and 320, int16 of 4 at 512; a block in XS names the
int16 one, with sh 16; a rotary block of one position at table word 16 above it, and one with its positions in tensor 2. -/
def tVector : State :=
  tRun [(0, tTensor 0 0 3 [4]), (1, tTensor 0 64 3 [4]), (2, tTensor 0 128 3 [1]), (3, tTensor 0 256 3 [16]), (4, tTensor 0 320 3 [16]),
        (5, tTensor 0 512 2 [4])]
    [(tData 0, 2, 5), (tData 0 + 3, 1, 16), (tData 1, 4, 16), (tData 1 + 0xB, 4, 1), (tData 2, 4, 16),
     (tData 2 + 8, 2, 2), (tData 2 + 0xA, 1, 1), (tData 2 + 0xB, 4, 1)] []

/-- Witness for ScalarVectorResults: a tensor and a number into a tensor. -/
theorem test_vector_elements : let w := tOp .descriptor .descriptor .immediate 0 1 7
    Turn tVector 0 tInst w ∧
    (let r := runAt tVector tInst w 6
     okAnd (esView r true w.kindA w.a) fun d => okAnd (sourceOf r d w.kindB w.b) fun x => okAnd (sourceOf r d w.kindC w.c) fun y =>
       bufferFits (stElems r d (d.tuples.map fun t => (t, sourceAt r x t + sourceAt r y t))) && withinMax tVector tInst [3, 4] d.count) = true :=
  ⟨turn_run _ _ _ _ rfl, by decide +kernel⟩

/-- Witness for UnaryFunctionsAreExact: a row summed, mapped and normalised; q at its greatest, 16. -/
theorem test_vector_rows : Turn tVector 0 tInst (tOp .descriptor .descriptor .immediate 0 1 16) ∧
    (let r := runAt tVector tInst (tOp .descriptor .descriptor .immediate 0 1 16) 0
     (okAnd (esView r true .descriptor 2) fun d => okAnd (esView r false .descriptor 1) fun v => decide (d.ext = v.ext.set 0 1)) &&
     okAnd (esView r true .descriptor 0) fun d => okAnd (esView r false .descriptor 1) fun v =>
       decide (v.format = 3 ∧ v.ext = d.ext ∧ v.extent 0 ≤ 32767) && bufferFits (stElems r d (d.tuples.map fun t => (t, vrcp (ldElem r v t)))) &&
       withinMax tVector tInst [3, 4] d.count) = true :=
  ⟨turn_run _ _ _ _ rfl, by decide +kernel⟩

/-- A block that an instruction may read. -/
def tBlock (r : Run) (w : Insn) (n count : Nat) : Bool :=
  decide (w.kindC = .store ∧ storeSpace w.c < 3) && (checkView r false (bytesView w.c n)).isOk &&
  (checkArrival r (storeSpace w.c) count (bytesView w.c n).addrs).isOk

theorem blockAt_of {r : Run} {w : Insn} {n count : Nat} (h : tBlock r w n count = true) : BlockAt r w n count := by
  simp only [tBlock, Bool.and_eq_true, decide_eq_true_eq] at h
  refine ⟨h.1.1.1, h.1.1.2, ?_, ?_⟩
  · cases e : checkView r false (bytesView w.c n) with
    | ok _ => rfl
    | error _ => rw [e] at h; exact absurd h.1.2 (by simp [Except.isOk, Except.toBool])
  · cases e : checkArrival r (storeSpace w.c) count (bytesView w.c n).addrs with
    | ok _ => rfl
    | error _ => rw [e] at h; exact absurd h.2 (by simp [Except.isOk, Except.toBool])

/-- Witness for UnaryFunctionsAreExact: a VNORM with its gains, and a VROPE of each form. -/
theorem test_vector_blocks : let n := tOp .descriptor .descriptor .store 0 1 (tAt 0)
    let p := tOp .descriptor .descriptor .store 3 4 (tAt 1)
    let x := tOp .descriptor .descriptor .store 3 4 (tAt 2)
    Turn tVector 0 tInst n ∧ Turn tVector 0 tInst p ∧ Turn tVector 0 tInst x ∧
    BlockAt (runAt tVector tInst n 0) n 16 32 ∧ BlockAt (runAt tVector tInst p 0) p 16 41 ∧ BlockAt (runAt tVector tInst x 0) x 16 41 ∧
    (let q := afterBlock (runAt tVector tInst n 0) n 16
     let l := blockBytes (runAt tVector tInst n 0) n 16
     decide (field l 3 1 ≤ 63 ∧ field l 0 2 < 1024 ∧ bit (field l 2 1) 0 = false) &&
       okAnd (viewAt q false (field l 0 2) 0) fun g => decide (g.space = 0 ∧ g.ext = [4, 1, 1, 1, 1])) = true ∧
    (let l := blockBytes (runAt tVector tInst p 0) p 16
     let q := afterBlock (runAt tVector tInst p 0) p 16
     let base := 16 * field l 0 4
     decide (bit (field l 0xA 1) 0 = false ∧ field l 4 4 < field l 0xB 4) && (checkSpan q false 2 base (base + 2 * 16 - 1)).isOk &&
       (checkArrival (noteReads q 2 (ropeAddrs base 16 [0])) 2 41 (ropeAddrs base 16 [0])).isOk) = true ∧
    (let l := blockBytes (runAt tVector tInst x 0) x 16
     let q := afterBlock (runAt tVector tInst x 0) x 16
     decide (bit (field l 0xA 1) 0 = true ∧ field l 8 2 < 1024) &&
       okAnd (viewAt q false (field l 8 2) 0) fun v => decide (v.space = 0 ∧ ldView q v = [0] ∧ 0 < field l 0xB 4)) = true :=
  ⟨turn_run _ _ _ _ rfl, turn_run _ _ _ _ rfl, turn_run _ _ _ _ rfl, blockAt_of (by decide +kernel),
   blockAt_of (by decide +kernel), blockAt_of (by decide +kernel), by decide +kernel, by decide +kernel, by decide +kernel⟩

/-- A tensor with scale-bank entries, its channels along a dimension. -/
def tScaled (format chdim : Nat) (ext : List Nat) (base : Nat) : Desc := { tTensor 0 base format ext with scaled := true, chdim := chdim }

/-- Tensors of ES for quantisation: a scaled int8 one and an int32 one of 4, an int8 one of 4 by 4. -/
def tQuant : State := tRun [(0, tScaled 1 0 [4] 0), (1, tTensor 0 64 3 [4]), (2, tTensor 0 128 1 [4, 4])] [] []

/-- Witness for CodesAndCalibration: QCAL, QSTAT and GRADQ of an int32 tensor, and QCVT of it, with a record in XS. -/
theorem test_quantises : let w := tOp .descriptor .descriptor .store 0 1 (tAt 0)
    Turn tQuant 0 tInst w ∧
    (let r := runAt tQuant tInst w 0
     okAnd (esView r true w.kindA w.a) fun d => okAnd (esView r false w.kindB w.b) fun v => okAnd (recordView r w (8 * d.channels)) fun x =>
       scaleFits d && scaleFits v && sameShape d v && x.isSome && decide (d.scaled = true ∧ d.format = 1 ∧ v.format = 3) &&
       bufferFits (calibrateAll r d v).1 && withinMax tQuant tInst [3, 4] v.count) = true :=
  ⟨turn_run _ _ _ _ rfl, by decide +kernel⟩

/-- Witness for CodesAndCalibration: QCVT of the bank's tile. -/
theorem test_tile : let w := tOp .descriptor .immediate .immediate 2 0 1
    Turn tQuant 0 tInst w ∧
    (let r := runAt tQuant tInst w 0
     okAnd (esView r true w.kindA w.a) fun d => scaleFits d && decide (d.rank = 2 ∧ d.extent 0 ≤ 64 ∧ d.extent 1 ≤ 64) &&
       !(bankOf r).header.valid) = true := ⟨turn_run _ _ _ _ rfl, by decide +kernel⟩

/-- An int8 gradient and int16 tensors of one element each, and the block of a momentum update: weights 1, new weights 2, momentum 3 and 4,
residue 3 and 5. -/
def tTrain : State :=
  tRun ((0, tTensor 0 0 1 [1]) :: (span 1 5).map fun k => (k, tTensor 0 (64 * k) 2 [1]))
    [(tData 0, 2, 2), (tData 0 + 2, 2, 3), (tData 0 + 4, 2, 4), (tData 0 + 10, 2, 3), (tData 0 + 12, 2, 5), (tData 0 + 0x14, 2, 3)] []

/-- Witness for CodesAndCalibration: an OPTSTEP. -/
theorem test_optstep : let w := tOp .descriptor .descriptor .store 1 0 (tAt 0)
    Turn tTrain 0 tInst w ∧ BlockAt (runAt tTrain tInst w 0) w 32 28 ∧
    (let b := parseOpt (blockBytes (runAt tTrain tInst w 0) w 32)
     decide ((b.wOut, b.mIn, b.mOut, b.rIn, b.rOut) = (2, 3, 4, 3, 5) ∧ b.reserved = false ∧ b.ge = 0 ∧ b.adaptive = false ∧
       b.refresh = false)) = true ∧
    (let r := runAt tTrain tInst w 0
     okAnd (esView r false w.kindA w.a) fun wv => okAnd (esView r false w.kindB w.b) fun gv =>
       decide (wv.format = 2 ∧ gv.format = 1) && sameShape wv gv && scaleFits gv &&
       [2, 3, 4, 5].all fun k => okAnd (viewAt (afterBlock r w 32) false k 0) fun v => decide (v.space = 0 ∧ v.format = 2 ∧ v.ext = wv.ext)) = true ∧
    (let v (k : Nat) : View := viewOfDesc (tTensor 0 (64 * k) (if k = 0 then 1 else 2) [1]) k 0
     [v 2, v 4, v 5].all fun a => [v 1, v 0, v 3].all fun x => !viewsOverlap a x) = true :=
  ⟨turn_run _ _ _ _ rfl, blockAt_of (by decide +kernel), by decide +kernel, by decide +kernel, by decide +kernel⟩

/-- int8 tensors of ES of 32 elements at bytes 0 and 256; one of XS; one of int32 indexes; a 4 by 2 tensor. -/
def tMoves : State :=
  tRun [(0, tTensor 0 0 1 [32]), (1, tTensor 2 (tData 0) 1 [32]), (2, tTensor 0 64 3 [2]), (3, tTensor 0 128 1 [16, 2]), (4, tTensor 3 0 1 [16, 2])] [] []

/-- Witness for StoreReadsBackWhatWasWritten: LOAD, STORE and COPY by views and by bytes. -/
theorem test_moves : let l := tOp .descriptor .descriptor .immediate 0 1 0
    let d := tOp .store .descriptor .immediate (tAt 8) 0 32
    let c := tOp .store .store .immediate (tAt 8) (tAt 16) 48
    Turn tMoves 0 tInst l ∧ Turn tMoves 0 tInst d ∧ Turn tMoves 0 tInst c ∧
    (okAnd (moveViews (runAt tMoves tInst l 2) l) fun m => decide (m.1.space = 0 ∧ m.2.1.space = 2) && (checkArrival (runAt tMoves tInst l 2) 2 43 m.2.1.addrs).isOk &&
      bufferFits (copyElems (runAt tMoves tInst l 2) l m.1 m.2.1)) = true ∧
    (okAnd (moveViews (runAt tMoves tInst d 0) d) fun m => decide (m.2.1.space = 0 ∧ m.1.space = 2)) = true ∧
    (okAnd (moveViews (runAt tMoves tInst c 0) c) fun m => decide (m.2.2 = (3, 3))) = true :=
  ⟨turn_run _ _ _ _ rfl, turn_run _ _ _ _ rfl, turn_run _ _ _ _ rfl, by decide +kernel, by decide +kernel, by decide +kernel⟩

/-- Witness for StoreReadsBackWhatWasWritten: a LOAD of 4 bytes into a register, a GATHER of two rows, a HALO of two rows from one above. -/
theorem test_rows : let l := tOp .scalar .store .immediate 5 (tAt 0) 0
    let g := tOp .descriptor .descriptor .descriptor 3 4 2
    let h := tOp .descriptor .descriptor .immediate 3 4 0x2FFFF
    Turn tMoves 0 tInst l ∧ Turn tMoves 0 tInst g ∧ Turn tMoves 0 tInst h ∧
    (let r := runAt tMoves tInst l 2
     let v := bytesView l.b 4
     decide (v.space = 2) && (checkView r false v).isOk && !fromRing r v && (checkArrival r v.space 41 v.addrs).isOk && !denied r v) = true ∧
    (let r := runAt tMoves tInst g 0
     okAnd (esView r true g.kindA g.a) fun d => okAnd (slotView r false g.kindB g.b) fun v => okAnd (esView r false g.kindC g.c) fun x =>
       decide (v.rank = 2 ∧ x.format = 3 ∧ x.rank = 1 ∧ d.format = v.format ∧ d.rank = v.rank ∧ x.count = 2) &&
       (ldView r x).all (fun k => 0 ≤ k && k < v.extent 1) && coversExt d { v with ext := v.ext.set 1 2 } && !denied r v &&
       (checkArrival r v.space 200 v.addrs).isOk) = true ∧
    (let r := runAt tMoves tInst h 0
     okAnd (esView r true h.kindA h.a) fun d => okAnd (slotView r false h.kindB h.b) fun v =>
       decide (v.rank = 2 ∧ d.format = v.format ∧ h.c.toNat / 65536 = 2 ∧ signed 16 h.c.toNat = -1 ∧ 2 ≤ d.extent 1) &&
       coversExt { d with ext := d.ext.set 1 (v.extent 1) } v && (checkArrival r v.space 200 v.addrs).isOk) = true :=
  ⟨turn_run _ _ _ _ rfl, turn_run _ _ _ _ rfl, turn_run _ _ _ _ rfl, by decide +kernel, by decide +kernel, by decide +kernel⟩

/-- int8 tensors for the matrix class: weights 4 by 2 (channels along dimension 1), activations 4 by 3; an image of 3 by 3 with one channel,
kernels 2 by 2 by 1 by 1 and 2 by 2 by 1, a result of 2 by 2 by 1; a geometry block of 2 by 2 outputs. -/
def tMatrix : State :=
  tRun [(0, { tTensor 0 0 1 [4, 2] with chdim := 1 }), (1, tTensor 0 16 1 [4, 3]), (2, tTensor 0 32 1 [3, 3, 1]),
        (3, { tTensor 0 64 1 [2, 2, 1, 1] with chdim := 3 }), (4, { tTensor 0 80 1 [2, 2, 1] with chdim := 2 }), (5, tTensor 0 96 1 [2, 2, 1])]
    [(tData 0, 2, 1), (tData 0 + 2, 2, 1), (tData 0 + 4, 2, 1), (tData 0 + 6, 2, 1), (tData 0 + 12, 2, 2), (tData 0 + 14, 2, 4),
     (tData 0 + 0x14, 2, 0x0202), (tData 0 + 0x16, 1, 2)] []

/-- Witness for BankAddSaturatesOnce: an MMA. -/
theorem test_mma : let w := tOp .descriptor .descriptor .immediate 0 1 1
    Turn tMatrix 0 tInst w ∧
    (let r := runAt tMatrix tInst w 0
     okAnd (esView r false w.kindA w.a) fun x => okAnd (esView r false w.kindB w.b) fun y =>
       (matrixForm r x y 1 false).isOk && flatFrom x 2 && flatFrom y 2 && decide (x.extent 0 = y.extent 0 ∧ x.extent 1 ≤ 64 ∧ y.extent 1 ≤ 64) &&
       (headerAfter (bankOf r).header (headerFor x y 4 0) true).isSome) = true := ⟨turn_run _ _ _ _ rfl, by decide +kernel⟩

/-- The fields of a geometry block that its instruction may read. -/
theorem geometryAt_of {r : Run} {w : Insn} {pool : Bool} {count : Geometry → Nat}
    (h : tBlock r w 32 (count (parseGeometry (blockBytes r w 32))) = true)
    (k : (let g := parseGeometry (blockBytes r w 32)
          decide (1 ≤ g.wout ∧ 1 ≤ g.positions ∧ g.positions ≤ 64 ∧ 1 ≤ g.kh ∧ g.kh ≤ 16 ∧ 1 ≤ g.kw ∧ g.kw ≤ 16)) = true) :
    GeometryAt r w pool count (parseGeometry (blockBytes r w 32)) := by
  simp only [decide_eq_true_eq] at k
  exact ⟨rfl, blockAt_of h, k.1, k.2.1, k.2.2.1, fun _ => k.2.2.2⟩

/-- Witness for BankAddSaturatesOnce: a CONV, a DWCONV and a POOL of their geometry block, which clears. -/
theorem test_geometry : let c := tOp .descriptor .descriptor .store 2 3 (tAt 0)
    let d := tOp .descriptor .descriptor .store 2 4 (tAt 0)
    let p := tOp .descriptor .descriptor .store 5 2 (tAt 0)
    Turn tMatrix 0 tInst c ∧ Turn tMatrix 0 tInst d ∧ Turn tMatrix 0 tInst p ∧
    GeometryAt (runAt tMatrix tInst c 0) c false (fun _ => 80) (parseGeometry (blockBytes (runAt tMatrix tInst c 0) c 32)) ∧
    GeometryAt (runAt tMatrix tInst p 0) p true (fun g => poolTime g.positions (g.kh * g.kw) + 72)
      (parseGeometry (blockBytes (runAt tMatrix tInst p 0) p 32)) ∧
    (let r := runAt tMatrix tInst c 0
     okAnd (esView r false c.kindA c.a) fun x => okAnd (esView r false c.kindB c.b) fun y =>
       (matrixForm r y x 3 false).isOk && flatFrom x 3 && flatFrom y 4 && decide (y.extent 2 = x.extent 2 ∧ y.extent 3 ≤ 64)) = true ∧
    (let r := runAt tMatrix tInst d 0
     let g := parseGeometry (blockBytes r d 32)
     okAnd (esView r false d.kindA d.a) fun x => okAnd (esView r false d.kindB d.b) fun y =>
       (matrixForm r y x 2 true).isOk && !g.grouped && flatFrom x 3 && groupsOk g x y && decide (y.extent 2 ≤ 64 ∧ dwconvTaps g y ≤ 64)) = true ∧
    (let r := runAt tMatrix tInst p 0
     let g := parseGeometry (blockBytes r p 32)
     okAnd (esView r true p.kindA p.a) fun x => okAnd (esView r false p.kindB p.b) fun v =>
       flatFrom v 3 && flatFrom x 3 && decide (x.format = v.format ∧ x.zero = v.zero ∧ v.extent 2 ≤ 64 ∧ v.extent 2 ≤ x.extent 2) &&
       (span 0 g.positions).all fun j => (g.p0 + j) % g.wout < x.extent 0 && (g.p0 + j) / g.wout < x.extent 1) = true :=
  ⟨turn_run _ _ _ _ rfl, turn_run _ _ _ _ rfl, turn_run _ _ _ _ rfl, geometryAt_of (by decide +kernel) (by decide +kernel),
   geometryAt_of (by decide +kernel) (by decide +kernel), by decide +kernel, by decide +kernel, by decide +kernel⟩

/-- Sequence 0 of a pool of one frame of 16 columns, with no position yet or with one in frame 0, its tables above it in XS; int8 rows in
ES for keys and values, an int32 one for the output. -/
def tPages (one : Bool) : State :=
  tRun [(0, tTensor 0 0 1 [16, 1]), (1, tTensor 0 64 3 [16, 1])]
    ([(tData 0 + 4, 4, 16), (tData 0 + 8, 4, if one then 1 else 0), (tData 0 + 0xC, 4, if one then 1 else 0),
      (tData 0 + 0x10, 4, 256), (tData 0 + 0x14, 4, 300), (tData 0 + 0x18, 4, 310), (tData 0 + 0x26, 1, 1),
      (tData 0 + 0x30, 4, 320), (tData 0 + 0x34, 4, 2), (tData 0 + 0x50, 4, 1),
      (tData 16, 2, 16), (tData 16 + 2, 2, 1), (tData 16 + 4, 2, if one then 0 else 1), (tData 16 + 8, 8, 2048),
      (tData 16 + 0x40, 1, if one then 0 else 1), (tData 16 + 0x340, 4, 0), (tData 16 + 0x344, 4, 1)] ++
     if one then [(tData 256, 4, 4096), (tData 256 + 8, 8, 1)] else [])
    (if one then [(0, 8, 256)] else [])

/-- Witness for StagedWritesAreInvisible: a KVAPPEND of one position, which takes a frame. -/
theorem test_kvappend : let w := tOp .store .descriptor .descriptor (tAt 0) 0 0
    Turn (tPages false) 0 tInst w ∧
    (let r := runAt (tPages false) tInst w 0
     okAnd (esView r false w.kindB w.b) fun kv => (kvOperand r kv).isOk && headOk (kv.extent 0) && decide (kv.extent 1 = 1)) = true ∧
    (let r := runAt (tPages false) tInst w 0
     okAnd (openSeq r (storeByte w.a) 16) fun y => let x := y.1
       !y.2.2.2 && decide (x.len = 0 ∧ x.evict = false ∧ x.pageCount = 0) && okAnd (ropeTable y.2.2.1 x.rope 16 x.ropeLen [0]) fun u =>
       (checkSpan u.1 true 2 x.pages (x.pages + 15)).isOk && ([x.score 0, x.score 1].all fun a => (checkSpan u.1 true 2 a (a + 1)).isOk) &&
       okAnd (takeAll 0 1 0 0 { r := u.1, p := y.2.1, x := x, extra := 0, evicted := 0, drops := 0 }) fun k =>
         k.2.isNone && decide (k.1.p.free = 0) && (checkArrival k.1.r 2 289 (ropeAddrs x.rope 16 [0])).isOk) = true :=
  ⟨turn_run _ _ _ _ rfl, by decide +kernel, by decide +kernel⟩

/-- Witness for StagedWritesAreInvisible: a KVATTN of one row. -/
theorem test_kvattn : let w := tOp .descriptor .descriptor .store 1 0 (tAt 0)
    Turn (tPages true) 0 tInst w ∧
    (let r := runAt (tPages true) tInst w 0
     okAnd (esView r true w.kindA w.a) fun d => okAnd (esView r false w.kindB w.b) fun v => decide (d.format = 3 ∧ d.ext = v.ext)) = true ∧
    (let r := runAt (tPages true) tInst w 0
     okAnd (attnPlan r (storeByte w.c) 16 1) fun y => !y.2.2 && decide (y.1.pages = 1) && okAnd (attnRopes 16 y.1 y.2.1) fun u =>
       !u.2 && attnPlaces u.1 y.1 1 && (checkArrival u.1 2 289 (y.1.active.flatMap fun x => ropeAddrs x.1.rope 16 [x.2.1])).isOk) = true :=
  ⟨turn_run _ _ _ _ rfl, by decide +kernel, by decide +kernel⟩

/-- Witness for StagedWritesAreInvisible: a KVEVICT of the one position, and a KVDROP. -/
theorem test_kvevict : let w := tOp .store .immediate .immediate (tAt 0) 1 0
    Turn (tPages true) 0 tInst w ∧ RecordSlot w.kindA w.a ∧
    (let r := runAt (tPages true) tInst w 2
     (checkSpan r false 2 (storeByte w.a) (storeByte w.a + 95)).isOk && decide (poolDim r (storeByte w.a) = 16) &&
     okAnd (openSeq (noteReads r 2 (span (storeByte w.a) 96)) (storeByte w.a) 16) fun y =>
       !y.2.2.2 && decide ((liveFrom y.2.2.1 y.1 0).length = 1 ∧ y.1.pageCount = 1) &&
       okAnd (readSpan y.2.2.1 2 (y.1.score y.1.select) 2) fun u => !u.2 && (checkSpan u.1 true 3 y.1.log (y.1.log + 31)).isOk) = true :=
  ⟨turn_run _ _ _ _ rfl, ⟨rfl, rfl⟩, by decide +kernel⟩

/-- A vocabulary of 256 IDs, each spelled with one byte, ID 1 a control token, no merges, in DS 0; the control map, one split block, an
automaton of one state whose mask allows every ID, a greedy sampling record with that automaton, and a stop record that releases into
view 2. Views: IDs, text, bytes, IDs read, mask bytes, logits, the text record. -/
def tText : State :=
  tRun [(0, tTensor 0 0 3 [1]), (1, tTensor 2 (tData 1310) 1 [1]), (2, tTensor 2 (tData 1320) 1 [4]),
      (3, tTensor 2 (tData 1330) 3 [1]), (4, tTensor 2 (tData 1340) 1 [32]), (5, tTensor 2 (tData 1400) 2 [256]),
      (1023, tTensor 2 (tData 0) 1 [64])]
    [(tData 0, 4, 256), (tData 0 + 0x10, 4, 8), (tData 0 + 0x14, 4, 16), (tData 0 + 0x18, 2, 1), (tData 8, 1, 2),
      (tData 1024, 4, 1), (tData 1024 + 8, 8, 0x10000), (tData 1024 + 0x10, 8, 0x20000), (tData 1024 + 0x18, 8, 0x30000),
      (tData 1100 + 0x20, 4, 1200), (tData 1100 + 0x24, 4, 1024), (tData 1100 + 0x2C, 4, 65536), (tData 1100 + 0x31, 1, 1),
      (tData 1110 + 4, 2, 2), (tData 1200, 1, 2), (tData 1310, 1, 65)]
    ([(0, 4, 0x42434F56), (4, 4, 256), (12, 4, 1)] ++ [(0x444, 2, 1), (0xC40, 1, 65), (0x10000, 4, 1)])

/-- Witness for QueuedInstructionIssues: a TOKENIZE of a control token, and one of a text of one byte. -/
theorem test_tokenize : (let w := tOp .descriptor .immediate .scalar 0 1 (BitVec.ofNat 32 0);
      Turn tText 0 tInst w ∧ okAnd (textRecord (runAt tText tInst w 0)) (fun x => !x.2.2 && okAnd (textView x.2.1 true w.kindA w.a 3 true) fun d =>
        okAnd (openImage x.2.1 x.1) fun u => !u.2 && decide (w.b.toNat < x.1.V ∧ 1 ≤ d.count) && isControl u.1 x.1 w.b.toNat &&
          okAnd (writing u.1 d (d.tuples.take 1)) fun z => !z.2) = true) ∧
    (let w := tOp .descriptor .descriptor .scalar 0 1 (BitVec.ofNat 32 0);
      Turn tText 0 tInst w ∧ okAnd (textRecord (runAt tText tInst w 0)) (fun x => !x.2.2 && okAnd (textView x.2.1 true w.kindA w.a 3 true) fun d =>
        okAnd (openImage x.2.1 x.1) fun u => !u.2 && okAnd (textView u.1 false w.kindB w.b 1 true) fun v =>
          (checkArrival u.1 v.space (v.count + 24) v.addrs).isOk && okAnd (reading u.1 v) fun y => !y.2 && decide (v.count ≤ d.count) &&
          okAnd (tokensOf y.1 x.1 ((ldView y.1 v).map (lowBits 8))) fun k => !k.2.2 &&
            okAnd (writing k.2.1 d (d.tuples.take k.1.length)) fun z => !z.2) = true) :=
  ⟨⟨turn_run _ _ _ _ rfl, by decide +kernel⟩, turn_run _ _ _ _ rfl, by decide +kernel⟩

/-- Witness for QueuedInstructionIssues: a DETOK of ID 0. -/
theorem test_detok : let w := tOp .descriptor .descriptor .scalar 2 3 (BitVec.ofNat 32 0)
    Turn tText 0 tInst w ∧ okAnd (textRecord (runAt tText tInst w 0)) (fun x => !x.2.2 && okAnd (textView x.2.1 true w.kindA w.a 1 true) fun d =>
      okAnd (textView x.2.1 false w.kindB w.b 3 true) fun v => okAnd (reading x.2.1 v) fun u => !u.2 &&
        (ldView u.1 v).all (fun k => decide (0 ≤ k ∧ k < x.1.V)) && decide (v.count * x.1.lmax ≤ d.count) && okAnd (openImage u.1 x.1) fun y => !y.2 &&
          (let parts := (((ldView u.1 v).map Int.toNat).filter fun k => x.1.spell || !isControl y.1 x.1 k).map (spelling y.1 x.1)
           parts.all Option.isSome && okAnd (readSpan y.1 3 (x.1.image + 0x440) (8 * x.1.V)) fun a => !a.2 &&
             okAnd (readSpan a.1 3 (stringBase x.1) (stringArea a.1 x.1)) fun b => !b.2 && (checkArrival b.1 v.space 26 v.addrs).isOk &&
               decide ((parts.filterMap id).flatten.length = 1) && okAnd (writing b.1 d (d.tuples.take 1)) fun z => !z.2)) = true :=
  ⟨turn_run _ _ _ _ rfl, by decide +kernel⟩

/-- Witness for QueuedInstructionIssues: a MASKGEN in the automaton's only state. -/
theorem test_maskgen : let w := tOp .descriptor .immediate .store 4 0 (tAt 1024)
    Turn tText 0 tInst w ∧ RecordSlot w.kindC w.c ∧
    okAnd (textRecord (runAt tText tInst w 2)) (fun x => !x.2.2 && okAnd (textView x.2.1 true w.kindA w.a 1 false) fun d =>
      decide (ceilDiv x.1.V 8 ≤ d.count) && okAnd (automatonAt x.2.1 x.1 (storeByte w.c)) fun y => !y.2.2 &&
        decide ((slotValue (runAt tText tInst w 2).i w.kindB w.b).toNat < y.1.Q) && okAnd (maskOf y.2.1 x.1 y.1 0) fun m => !m.2.2 &&
          okAnd (writing m.2.1 d (d.tuples.take (ceilDiv x.1.V 8))) fun z => !z.2) = true :=
  ⟨turn_run _ _ _ _ rfl, ⟨rfl, rfl⟩, by decide +kernel⟩

/-- Witness for QueuedInstructionIssues: a greedy SAMPLE with one token allowed, whose automaton goes on. -/
theorem test_sample : let w := tOp .store .descriptor .store (tAt 1360) 5 (tAt 1100)
    Turn tText 0 tInst w ∧ RecordSlot w.kindA w.a ∧ RecordSlot w.kindC w.c ∧
    okAnd (textRecord (runAt tText tInst w 0)) (fun x => !x.2.2 && (checkView x.2.1 true (bytesView w.a 8)).isOk &&
      okAnd (textView x.2.1 false w.kindB w.b 2 false) fun v => decide (x.1.V ≤ v.count) &&
        okAnd (sampleRec x.2.1 (storeByte w.c)) fun y => !y.2.2 && okAnd (readSpan y.2.1 2 y.1.mask (ceilDiv x.1.V 8)) fun q => !q.2 &&
          decide (y.1.automaton = some (tData 1024)) && okAnd (automatonAt q.1 x.1 (tData 1024)) fun a => !a.2.2 &&
            (checkSpan a.2.1 true 2 (tData 1024) (tData 1024 + 175)).isOk && (checkArrival a.2.1 v.space 33 v.addrs).isOk &&
            okAnd (reading a.2.1 v) fun u => !u.2 && okAnd (writing u.1 (bytesView w.a 8) (bytesView w.a 8).tuples) fun z => !z.2 &&
              okAnd (sampleStep z.1 y.1 (some a.1) (allowedOf z.1 y.1 x.1.V) fun k => (ldView z.1 v).getD k 0) fun o =>
                !o.2.2 && decide (o.1 = some (1, 0))) = true :=
  ⟨turn_run _ _ _ _ rfl, ⟨rfl, rfl⟩, ⟨rfl, rfl⟩, by decide +kernel⟩

/-- Witness for QueuedInstructionIssues: a STOPCHK without stop strings, which releases its byte. -/
theorem test_stopchk : let w := tOp .store .descriptor .scalar (tAt 1110) 1 (BitVec.ofNat 32 0)
    Turn tText 0 tInst w ∧ RecordSlot w.kindA w.a ∧
    okAnd (textRecord (runAt tText tInst w 0)) (fun t => !t.2.2 && okAnd (stopRecord t.2.1 (storeByte w.a)) fun x => !x.2.2 &&
      okAnd (textView x.2.1 false w.kindB w.b 1 false) fun v => okAnd (namedView x.2.1 true x.1.output) fun o => !o.2.2 &&
        decide (o.1.space = 2 ∧ o.1.format = 1 ∧ o.1.rank = 1) && (checkArrival o.2.1 v.space 9 v.addrs).isOk &&
        okAnd (reading o.2.1 v) fun u => !u.2 &&
          (let buf := x.1.held ++ (ldView u.1 v).map (lowBits 8)
           decide (x.1.outLen + buf.length ≤ o.1.extent 0) && okAnd (stopStep u.1 o.1 x.1 buf) fun z => !z.2.2.2 && decide (z.1 = 1))) = true :=
  ⟨turn_run _ _ _ _ rfl, ⟨rfl, rfl⟩, by decide +kernel⟩

/-- In a set of nine, part 0 with its link to part 1 up, a share of it and a window open there; the instance holds a credit. -/
def tSet : State :=
  let s := tRun [(0, tTensor 0 0 1 [16])] [] []
  { s with
    facet := { s.facet with setSize := 9, grants := [(0, 4)], windows := [{ part := 1, owner := 0, fromPart := 0, fromSlot := 0, offset := 0, size := 1024, number := 0 }] }
    iris := { s.iris with stop := 4 }, relay := { s.relay with formed := true, ports := [(0, { RelayPort.idle with up := true })] },
    engines := [(0, { Engine.idle with run := some { tInst with credits := [(1, 1)] } })] }

/-- Witness for ReceiveTakesTheOldestMessage: an RSEND of 16 bytes to part 1. -/
theorem test_rsend : let i := { tInst with credits := [(1, 1)] }
    let w := tOp .immediate .descriptor .immediate 1 0 0
    Turn tSet 0 i w ∧
    (let r := runAt tSet i w 0
     decide (peerField w.a ≠ tSet.facet.partIndex ∧ peerField w.a < tSet.facet.setSize) && linkUp tSet 1 && decide (0 < slotShare tSet 0 1) &&
     ((windowOpen tSet 1 (windowField w.a) 0 0).any fun x => decide (16 ≤ x.size)) &&
     okAnd (slotView r false w.kindB w.b) fun v => decide (v.space < 3 ∧ ceilDiv (packedBytes v.format v.count) 16 = 1) &&
       (checkArrival r v.space 312 v.addrs).isOk && okAnd (reading r v) fun u => !u.2 && decide (1 ≤ tget 0 i.credits 1)) = true :=
  ⟨turn_of _ _ _ _ rfl rfl rfl rfl rfl rfl rfl rfl rfl rfl, by decide +kernel⟩

/-- Witness for ReductionExchangesChunks: an ALLRED in a set of one. -/
theorem test_solo : let s := tRun [(0, tTensor 0 0 3 [4]), (1, tTensor 0 64 1 [4])] [] []
    let w := tOp .descriptor .descriptor .immediate 0 1 0
    s.facet.setSize ≤ 1 ∧ Turn s 0 tInst w ∧
    (let r := runAt s tInst w 0
     okAnd (slotView r true w.kindA w.a) fun d => okAnd (slotView r false w.kindB w.b) fun v => decide (d.format = 3 ∧ v.format ≠ 0) && coversExt d v &&
       (checkArrival r v.space 9 v.addrs).isOk && okAnd (reading r v) fun u => !u.2 && okAnd (writing u.1 (d.within v.ext) v.tuples) fun z => !z.2) = true :=
  ⟨by decide, turn_run _ _ _ _ rfl, by decide +kernel⟩

/-- Slot 0 owns page pipeline 0, with room for 4 slots of a batch and this soft budget; a batch of one slot, whose stream is T.4 images of
1 by 1 with two entries of its deferred area; the stream's queue; coded bytes in view 0. -/
def tMedia (soft : Nat) (queue : List Deferred) : State :=
  let s := tRun [(0, tTensor 2 (tData 200) 1 [2])]
    [(tData 0 + 1, 1, 1), (tData 0 + 4, 4, 100), (tData 0 + 0x18, 8, 0xFFFFFFFFFFFFFFFF), (tData 0 + 0x20, 4, 1), (tData 0 + 0x40, 8, 3 * 2 ^ 40),
      (tData 100, 1, 4), (tData 100 + 4, 4, 1), (tData 100 + 8, 2, 1), (tData 100 + 0xA, 2, 1), (tData 100 + 0xE, 1, 2), (tData 100 + 0x10, 8, 4096),
      (tData 100 + 0x18, 4, 1)] []
  { s with
    facet := { s.facet with pages := [0], widthCeiling := 64, heightCeiling := 64, pixelCeiling := 4096 },
    ctxs := [(0, { ctxOf s 0 with
      granted := { CtxRecord.none with batch := 4, soft := soft, hard := 1000 }, streams := tset Stream.idle [] 64 { Stream.idle with queue := queue } })] }

/-- A decoded sample in entry 0. -/
def tSample : Deferred :=
  { entry := 0, width := 1, height := 1, order := 0, format := 4, short := false, grain := false, background := 0, record := 100,
    place := 4096, size := 2048, dpbAt := 0, dpbSize := 0, empty := false, decoded := true, digest := 0, coded := [] }

theorem turn_media (soft : Nat) (w : Insn) (h : w.predOn = false) : Turn (tMedia soft []) 0 tInst w :=
  turn_of _ _ _ _ rfl rfl h rfl rfl rfl rfl rfl rfl rfl

/-- What the three media instructions ask first: the batch, and for two of them the stream, its free slot and its buffers. -/
def tBatch (s : State) (w : Insn) (srcs : Nat) (p : Run → Batch → Run → StreamRec → Run → Bool) : Bool :=
  okAnd (batchAt w (runAt s tInst w srcs)) fun b => !b.2.2 && okAnd (streamAt b.2.1 b.1.stream) fun x => !x.2.2 &&
    slotsFree (opened b.1) 0 1 && buffersFit x.2.1 b.1 && grantFits (reopen x.2.1 b.1) 1 && p (runAt s tInst w srcs) b.1 b.2.1 x.1 x.2.1

/-- Witness for StreamsDecodeAndAccept: a BATCHCLOSE, and a FETCHSAMPLE of a decoded sample. -/
theorem test_batch : (let w := tOp .store .immediate .immediate (tAt 0) 0 0;
      Turn (tMedia 0 []) 0 tInst w ∧ (okAnd (batchAt w (runAt (tMedia 0 []) tInst w 0)) fun b => !b.2.2) = true) ∧
    (let w := tOp .store .immediate .immediate (tAt 0) 1 0;
      Turn (tMedia 0 [tSample]) 0 tInst w ∧ (tBatch (tMedia 0 [tSample]) w 2 fun _ b _ x u => decide (1 ≤ (fetchable u x.key).length) &&
        okAnd (fillAll (reopen u b) b) fun z => !z.2) = true) :=
  ⟨⟨turn_media _ _ rfl, by decide +kernel⟩, turn_of _ _ _ _ rfl rfl rfl rfl rfl rfl rfl rfl rfl rfl, by decide +kernel⟩

/-- What a DECODE asks of its coded data, its ceilings and its counts; that it decodes at once, or defers. -/
def tDecode (soft : Nat) (later : Bool) : Bool :=
  let w := tOp .store .descriptor .immediate (tAt 0) 0 0
  tBatch (tMedia soft []) w 0 fun _ b q x p => decide (x.format = 4 ∧ x.kind = 4 + 2 ^ 16 + 2 ^ 32) && okAnd (codedView q w) fun v =>
    okAnd (reading p v) fun u => !u.2 && okAnd (fillAll (reopen u.1 b) b) fun y => !y.2 &&
      (let coded := (ldView u.1 v).map fun k => BitVec.ofNat 8 (lowBits 8 k)
       let info := sampleInfo x.kind false coded
       let planes := samplePlanes x.kind false info
       let size := planesBytes (elemSize info) planes
       let d := decodeCount x.kind (slotsOf (tMedia soft []) x.key) coded.length info (sampleBlocks x.kind info planes)
       decide (info.width ≤ 64 ∧ info.height ≤ 64 ∧ info.width * info.height ≤ 4096 ∧ size ≤ b.size ∧ 0 < size ∧ info.excluded = false ∧
         d ≤ 1000 * x.nominal ∧ bit x.flags 0 = false) && (checkArrival u.1 v.space 400 v.addrs).isOk &&
       if later then decide (¬ d ≤ soft * x.nominal ∧ size ≤ x.entrySize ∧ deferredEntry u.1 x = some 0) &&
         (checkSpan u.1 true 3 x.areaAt (x.areaAt + x.entries * x.entrySize - 1)).isOk
       else decide (d ≤ soft * x.nominal) && (checkSpan u.1 true 3 0 (size - 1)).isOk && decide (bufferSpace u.1 b 0 = 3 ∧ bufferAt u.1 b 0 = 0) &&
         okAnd (scanning y.1 3 ((planeRows (elemSize info) 0 planes).flatMap fun k => edgeWords k.1 (elemSize info * k.2))) fun l => !l.2)

/-- Witness for StreamsDecodeAndAccept: a DECODE within its soft budget, and one beyond it, which defers. -/
theorem test_decode : let w := tOp .store .descriptor .immediate (tAt 0) 0 0
    Turn (tMedia 1000 []) 0 tInst w ∧ Turn (tMedia 0 []) 0 tInst w ∧ tDecode 1000 false = true ∧ tDecode 0 true = true :=
  ⟨turn_media _ _ rfl, turn_media _ _ rfl, by decide +kernel, by decide +kernel⟩

end Sys2Proof.Tests
end

section
/-! PROOFS. What a register write does where its interface is served, and that it does nothing elsewhere (chapter 17). The first two
parts hold for every register row: whether its write takes effect, and what its journal entry changes. -/

namespace Sys2Proof.Machine

open Sys2Proof

variable {s t : State} {i : Iface} {c : Instr} {a : Nat} {f : State → Nat × State}

/-! ### Register rows -/

theorem rowWrite_of_writable (h : writable s i) (a : Nat) (f : State → Nat × State) : rowWrite s i a f = (f s).2 := by
  obtain ⟨hserved, hrom⟩ := h
  simp [rowWrite, reaches, hserved, hrom]

theorem rowWrite_of_unserved (h : served s i = false) (a : Nat) (f : State → Nat × State) : rowWrite s i a f = s := by
  simp [rowWrite, reaches, h]

theorem exec_row_of_writable (h : writable s i) (hrow : exec c s = .next (rowWrite s i a f)) : exec c s = .next (f s).2 := by
  rw [hrow, rowWrite_of_writable h]

theorem exec_row_of_unserved (h : served s i = false) (hrow : exec c s = .next (rowWrite s i a f)) : exec c s = .next s := by
  rw [hrow, rowWrite_of_unserved h]

/-- A register row of a served interface answers what its write makes of the state. -/
theorem answers_row {P : State → Prop} (h : writable s i) (hrow : exec c s = .next (rowWrite s i a f)) (hP : P (f s).2) :
    Answers c s P := ⟨_, exec_row_of_writable h hrow, hP⟩

/-- The bit a register write tests is the bit of the word written. -/
theorem bit_toNat (v : Word) (k : Nat) : bit v.toNat k = v.getLsbD k := (Nat.testBit_eq_decide_div_mod_eq).symm

/-- A one clears a flag, and a status register reads another value where it was set. -/
theorem clearFlag_changes (flag one : Bool) (rest : Nat) : (flag && one) = decide (b2n (flag && !one) + rest ≠ b2n flag + rest) := by
  cases flag <;> cases one <;> simp [b2n]

/-! ### The journal entry of a write (R438, R475) -/

@[simp] theorem writeState_journalHead (x : Sec) : (writeState x).journalHead = x.journalHead := by
  unfold writeState; split <;> rfl

@[simp] theorem writeState_staging (x : Sec) : (writeState x).staging = x.staging := by
  unfold writeState; split <;> rfl

@[simp] theorem writeState_stageAddr (x : Sec) : (writeState x).stageAddr = x.stageAddr := by
  unfold writeState; split <;> rfl

@[simp] theorem journalWrite_journalHead (s : State) (i : Iface) (a old new : Nat) :
    (journalWrite s i a old new).sec.journalHead = s.sec.journalHead + 1 := writeState_journalHead _

@[simp] theorem journalWrite_staging (s : State) (i : Iface) (a old new : Nat) :
    (journalWrite s i a old new).sec.staging = s.sec.staging := writeState_staging _

@[simp] theorem journalWrite_stageAddr (s : State) (i : Iface) (a old new : Nat) :
    (journalWrite s i a old new).sec.stageAddr = s.sec.stageAddr := writeState_stageAddr _

/-- What a journal entry leaves alone is the same whether the write is journalled or not. -/
theorem changeReg_keeps {γ : Type} (π : State → γ) (h : ∀ t i a old new, π (journalWrite t i a old new) = π t) (s : State) (i : Iface)
    (a : Nat) (t : State) : π (changeReg s i a t) = π t := by
  unfold changeReg
  split
  · rfl
  · exact h ..

@[simp] theorem changeReg_now (s : State) (i : Iface) (a : Nat) (t : State) : (changeReg s i a t).now = t.now :=
  changeReg_keeps (·.now) (fun _ _ _ _ _ => rfl) s i a t
@[simp] theorem changeReg_lix (s : State) (i : Iface) (a : Nat) (t : State) : (changeReg s i a t).lix = t.lix :=
  changeReg_keeps (·.lix) (fun _ _ _ _ _ => rfl) s i a t
@[simp] theorem changeReg_glint (s : State) (i : Iface) (a : Nat) (t : State) : (changeReg s i a t).glint = t.glint :=
  changeReg_keeps (·.glint) (fun _ _ _ _ _ => rfl) s i a t
@[simp] theorem changeReg_ctxs (s : State) (i : Iface) (a : Nat) (t : State) : (changeReg s i a t).ctxs = t.ctxs :=
  changeReg_keeps (·.ctxs) (fun _ _ _ _ _ => rfl) s i a t
@[simp] theorem changeReg_engines (s : State) (i : Iface) (a : Nat) (t : State) : (changeReg s i a t).engines = t.engines :=
  changeReg_keeps (·.engines) (fun _ _ _ _ _ => rfl) s i a t
@[simp] theorem changeReg_ready (s : State) (i : Iface) (a : Nat) (t : State) : (changeReg s i a t).ready = t.ready :=
  changeReg_keeps (·.ready) (fun _ _ _ _ _ => rfl) s i a t
@[simp] theorem changeReg_ledgers (s : State) (i : Iface) (a : Nat) (t : State) : (changeReg s i a t).ledgers = t.ledgers :=
  changeReg_keeps (·.ledgers) (fun _ _ _ _ _ => rfl) s i a t
@[simp] theorem changeReg_eventHead (s : State) (i : Iface) (a : Nat) (t : State) : (changeReg s i a t).control.head = t.control.head :=
  changeReg_keeps (·.control.head) (fun _ _ _ _ _ => rfl) s i a t
@[simp] theorem changeReg_eventTail (s : State) (i : Iface) (a : Nat) (t : State) : (changeReg s i a t).control.tail = t.control.tail :=
  changeReg_keeps (·.control.tail) (fun _ _ _ _ _ => rfl) s i a t
@[simp] theorem changeReg_eventMask (s : State) (i : Iface) (a : Nat) (t : State) : (changeReg s i a t).control.mask = t.control.mask :=
  changeReg_keeps (·.control.mask) (fun _ _ _ _ _ => rfl) s i a t
@[simp] theorem changeReg_ctxOf (s : State) (i : Iface) (a : Nat) (t : State) (c : Nat) : ctxOf (changeReg s i a t) c = ctxOf t c :=
  changeReg_keeps (ctxOf · c) (fun _ _ _ _ _ => rfl) s i a t
@[simp] theorem changeReg_engOf (s : State) (i : Iface) (a : Nat) (t : State) (e : Nat) : engOf (changeReg s i a t) e = engOf t e :=
  changeReg_keeps (engOf · e) (fun _ _ _ _ _ => rfl) s i a t

/-- A write adds an entry exactly where the register reads another value after it. -/
theorem changeReg_journalHead (s : State) (i : Iface) (a : Nat) (t : State) :
    (changeReg s i a t).sec.journalHead = t.sec.journalHead + if regPeek t a ≠ regPeek s a then 1 else 0 := by
  unfold changeReg
  split <;> simp [*]

/-- A write that has touched no journal, engine, ready queue or time grows the journal where it changes its register. -/
theorem journalGrows_changeReg {changed : Bool} (ht : journalGrows s t false)
    (hc : changed = decide (regPeek t a ≠ regPeek s a)) : journalGrows s (changeReg s i a t) changed := by
  obtain ⟨hhead, heng, hready, hnow⟩ := ht
  have hhead : t.sec.journalHead = s.sec.journalHead := hhead
  exact ⟨by simp [changeReg_journalHead, hhead, hc], by simpa using heng, by simpa using hready, by simpa using hnow⟩

/-- A row whose write is `changeReg`: it answers the changed state, and the journal grows where the register reads another value. -/
theorem answers_change {P : State → Prop} {changed : Bool} (h : writable s i) (hrow : exec c s = .next (rowWrite s i a f))
    (hf : (f s).2 = changeReg s i a t) (ht : journalGrows s t false)
    (hP : journalGrows s (changeReg s i a t) changed → P (changeReg s i a t)) (hc : changed = decide (regPeek t a ≠ regPeek s a)) :
    Answers c s P :=
  answers_row h hrow (hf ▸ hP (journalGrows_changeReg ht hc))

/-! ### LIX (R29, R43, R45) -/

theorem lixSource_refused (h : writable s i) (v : Word)
    (hv : v.toNat % 16 = 6 ∨ v.toNat % 16 = 7 ∨ v.toNat % 16 = s.lix.source ∨ sourceAvailable s (v.toNat % 16) = false) :
    exec (.lixSource i v) s = .next s := by
  have hw : (writeSource i v.toNat s).2 = s := by
    unfold writeSource
    rcases hv with hv | hv | hv | hv
    · simp [hv]
    · simp [hv]
    · simp [hv]
    · simp only [hv]; split <;> rfl
  rw [exec_row_of_writable h (c := .lixSource i v) rfl, hw]

theorem lixSource_taken (h : writable s i) (v : Word) (h6 : v.toNat % 16 ≠ 6) (h7 : v.toNat % 16 ≠ 7)
    (hnew : v.toNat % 16 ≠ s.lix.source) (hav : sourceAvailable s (v.toNat % 16) = true) :
    Answers (.lixSource i v) s fun t => t.lix.source = v.toNat % 16 ∧ t.lix.count = s.lix.count ∧ t.lix.hold = true ∧ t.lix.due = 0 ∧
      t.lix.firstEdge = true ∧ t.lix.divider = s.lix.divider ∧ t.ctxs = s.ctxs ∧ journalGrows s t true := by
  have hw : (writeSource i v.toNat s).2 = changeReg s i 0x10000 (selectSource s (v.toNat % 16)) := by
    simp [writeSource, h6, h7, hnew, hav]
  have hreg : regPeek (selectSource s (v.toNat % 16)) 0x10000 ≠ regPeek s 0x10000 := hnew
  refine answers_change (changed := true) h rfl hw ⟨rfl, rfl, rfl, rfl⟩ (fun hgrow => ?_) (decide_eq_true hreg).symm
  simp only [changeReg_lix, changeReg_ctxs]
  exact ⟨rfl, rfl, rfl, rfl, rfl, rfl, rfl, hgrow⟩

theorem lixDivider_taken (h : writable s i) (v : Word) (hd : 0 < s.lix.divider) :
    Answers (.lixDivider i v) s fun t => t.lix.divider = v.toNat % 65536 + 1 ∧ t.lix.count = s.lix.count ∧
      t.lix.origin = s.lix.high ∧ t.lix.pulses = 0 ∧ t.lix.position = s.lix.position ∧ t.lix.source = s.lix.source ∧ t.lix.due = s.lix.due ∧
      t.ctxs = s.ctxs ∧ journalGrows s t (decide (v.toNat % 65536 + 1 ≠ s.lix.divider)) := by
  have hreg : v.toNat % 65536 + 1 ≠ s.lix.divider ↔ v.toNat % 65536 + 1 - 1 ≠ s.lix.divider - 1 := by omega
  refine answers_change (changed := decide (v.toNat % 65536 + 1 ≠ s.lix.divider)) h rfl rfl ⟨rfl, rfl, rfl, rfl⟩ (fun hgrow => ?_)
    (decide_eq_decide.2 hreg)
  simp only [changeReg_lix, changeReg_ctxs]
  exact ⟨rfl, rfl, rfl, rfl, rfl, rfl, rfl, rfl, hgrow⟩

theorem writeLixStatus_eq (i : Iface) (v : Word) (s : State) : (writeLixStatus i v.toNat s).2 =
    changeReg s i 0x1000C { s with lix := { s.lix with overspeed := s.lix.overspeed && !v.getLsbD 0 } } := by
  unfold writeLixStatus
  rw [bit_toNat]
  cases v.getLsbD 0 <;> simp

theorem lixStatusClear_clears (h : writable s i) (v : Word) :
    Answers (.lixStatusClear i v) s fun t => t.lix = { s.lix with overspeed := s.lix.overspeed && !v.getLsbD 0 } ∧ t.ctxs = s.ctxs ∧
      journalGrows s t (s.lix.overspeed && v.getLsbD 0) := by
  refine answers_change h rfl (writeLixStatus_eq i v s) ⟨rfl, rfl, rfl, rfl⟩ (fun hgrow => ⟨changeReg_lix .., changeReg_ctxs .., hgrow⟩) ?_
  exact clearFlag_changes s.lix.overspeed (v.getLsbD 0) (2 * b2n s.lix.islandOnly)

theorem lixRefPeriod_taken (h : writable s i) (v : Word) :
    Answers (.registerWrite i 0x10008 v) s fun t => t.lix = { s.lix with refPeriod := max 9 v.toNat } ∧ t.ctxs = s.ctxs ∧
      journalGrows s t (decide (s.lix.refPeriod ≠ max 9 v.toNat)) := by
  have hw : (regWrite i 0x10008 v.toNat s).2 =
      changeReg s i 0x10008 { s with lix := { s.lix with refPeriod := max 9 v.toNat } } := by
    simp [regWrite, h.2, writePeriod, Nat.mod_eq_of_lt v.isLt]
  exact answers_change h rfl hw ⟨rfl, rfl, rfl, rfl⟩ (fun hgrow => ⟨changeReg_lix .., changeReg_ctxs .., hgrow⟩)
    (decide_eq_decide.2 ne_comm)

/-! ### IRIS, LEDGER, GLINT and EVENT (R372, R479, R481, R483) -/

theorem irisBudgetLimit_taken (h : writable s i) (v : Word) :
    Answers (.irisBudgetLimit i v) s fun t => t.iris = { s.iris with budgetLimit := max 1800 (min 60000 (v.toNat % 65536)) } ∧
      t.ctxs = s.ctxs ∧ journalGrows s t (decide (s.iris.budgetLimit ≠ max 1800 (min 60000 (v.toNat % 65536)))) :=
  answers_change h rfl rfl ⟨rfl, rfl, rfl, rfl⟩ (fun hgrow => ⟨(changeReg_kept ..).2, changeReg_ctxs .., hgrow⟩)
    (decide_eq_decide.2 ne_comm)

/-- The LEDGER block after a ledger and an index are named: its four columns are captured (R479). -/
def capturedLedgers (s : State) (which index : Nat) : Ledgers :=
  { s.ledgers with
    select := BitVec.ofNat 26 (256 * which + 65536 * index), selTotal := (ledgerColumns s which index).1,
    selFree := (ledgerColumns s which index).2.1, selHeld := (ledgerColumns s which index).2.2.1,
    selFlight := (ledgerColumns s which index).2.2.2 }

theorem writeLedger_eq (i : Iface) (v : Nat) (s : State) : (writeLedger i v s).2 =
    changeReg s i 0x50020 { s with ledgers := capturedLedgers s (v / 256 % 16) (v / 65536 % 1024) } := rfl

theorem ledgerSelect_captures (h : writable s i) (v : Word) :
    Answers (.ledgerSelect i v) s fun t => (t.ledgers.selTotal, t.ledgers.selFree, t.ledgers.selHeld, t.ledgers.selFlight) =
        ledgerColumns s (v.toNat / 256 % 16) (v.toNat / 65536 % 1024) ∧ t.ledgers.es = s.ledgers.es ∧ t.ledgers.sems = s.ledgers.sems ∧
      t.ctxs = s.ctxs ∧ t.iris = s.iris ∧
      journalGrows s t (decide (s.ledgers.select ≠ BitVec.ofNat 26 (256 * (v.toNat / 256 % 16) + 65536 * (v.toNat / 65536 % 1024)))) := by
  refine answers_change h rfl (writeLedger_eq i v.toNat s) ⟨rfl, rfl, rfl, rfl⟩ (fun hgrow =>
      ⟨?_, ?_, ?_, changeReg_ctxs .., (changeReg_kept ..).2, hgrow⟩) (decide_eq_decide.2 (ne_comm.trans BitVec.toNat_ne_iff_ne.symm))
  all_goals rw [changeReg_ledgers]; rfl

theorem writeGlint_eq (i : Iface) (v : Word) (s : State) : (writeGlint i v.toNat s).2 =
    changeReg s i 0x90000 { s with glint := { s.glint with refused := s.glint.refused && !v.getLsbD 0 } } := by
  unfold writeGlint
  rw [bit_toNat]
  cases v.getLsbD 0 <;> simp

theorem glintStatusClear_clears (h : writable s i) (v : Word) :
    Answers (.glintStatusClear i v) s fun t => t.glint = { s.glint with refused := s.glint.refused && !v.getLsbD 0 } ∧ t.ctxs = s.ctxs ∧
      journalGrows s t (s.glint.refused && v.getLsbD 0) := by
  refine answers_change h rfl (writeGlint_eq i v s) ⟨rfl, rfl, rfl, rfl⟩ (fun hgrow => ⟨changeReg_glint .., changeReg_ctxs .., hgrow⟩) ?_
  exact clearFlag_changes s.glint.refused (v.getLsbD 0) (2 * b2n s.glint.armed)

/-- The tail after a write of a word: the word within the head, the head where the word is beyond it, else the tail as it was. -/
def tailAfter (s : State) (v : Word) : Word :=
  if v - s.control.tail ≤ s.control.head - s.control.tail then v
  else if (v - s.control.head).toNat < 2 ^ 31 then s.control.head else s.control.tail

theorem writeTail_eq (i : Iface) (v : Word) (s : State) : (writeTail i v.toNat s).2 =
    changeReg s i 0xF0004 { s with control := { s.control with tail := tailAfter s v } } := by
  simp [writeTail, tailAfter]

theorem eventTail_taken (h : writable s i) (v : Word) :
    Answers (.eventTail i v) s fun t => (v - s.control.tail ≤ s.control.head - s.control.tail → t.control.tail = v) ∧
      (¬ v - s.control.tail ≤ s.control.head - s.control.tail → (v - s.control.head).toNat < 2 ^ 31 → t.control.tail = s.control.head) ∧
      (¬ v - s.control.tail ≤ s.control.head - s.control.tail → 2 ^ 31 ≤ (v - s.control.head).toNat → t.control.tail = s.control.tail) ∧
      t.control.head = s.control.head ∧ journalGrows s t (decide (t.control.tail ≠ s.control.tail)) := by
  refine answers_change h rfl (writeTail_eq i v s) ⟨rfl, rfl, rfl, rfl⟩ (fun hgrow => ⟨?_, ?_, ?_, changeReg_eventHead .., hgrow⟩) ?_
  · exact fun hle => (changeReg_eventTail ..).trans (if_pos hle)
  · exact fun hgt hlt => (changeReg_eventTail ..).trans ((if_neg hgt).trans (if_pos hlt))
  · exact fun hgt hge => (changeReg_eventTail ..).trans ((if_neg hgt).trans (if_neg (Nat.not_lt.2 hge)))
  · rw [changeReg_eventTail]
    exact decide_eq_decide.2 BitVec.toNat_ne_iff_ne.symm

theorem eventMask_taken (h : writable s i) (v : Word) :
    Answers (.registerWrite i 0xF000C v) s fun t => t.control.mask = v.truncate 24 ∧ t.control.head = s.control.head ∧ t.ctxs = s.ctxs ∧
      journalGrows s t (decide (s.control.mask ≠ v.truncate 24)) := by
  have hw : (regWrite i 0xF000C v.toNat s).2 = changeReg s i 0xF000C { s with control := { s.control with mask := v.truncate 24 } } := by
    simp [regWrite, h.2, writeMask]
  exact answers_change h rfl hw ⟨rfl, rfl, rfl, rfl⟩ (fun hgrow =>
      ⟨changeReg_eventMask .., changeReg_eventHead .., changeReg_ctxs .., hgrow⟩)
    (decide_eq_decide.2 (ne_comm.trans BitVec.toNat_ne_iff_ne.symm))

/-! ### The clip threshold (R186) -/

theorem ctxOf_modCtx_same (s : State) (c : Nat) (g : Ctx → Ctx) (h : Canonical s) : ctxOf (modCtx s c g) c = g (ctxOf s c) :=
  tget_tset_same Ctx.empty s.ctxs 0 c _ h.1

theorem ctxOf_modCtx_other (s : State) (c d : Nat) (g : Ctx → Ctx) (h : Canonical s) (hd : d ≠ c) :
    ctxOf (modCtx s c g) d = ctxOf s d := tget_tset_ne Ctx.empty s.ctxs 0 c d _ h.1 hd

/-- An engine that runs nothing takes no threshold; one that runs takes it, and beside what it runs only the trace may change. -/
theorem takeTheta_cases (v : Nat) (s : State) (e : Nat) : ((engOf s e).run = none ∧ takeTheta v s e = s) ∨
    ∃ j d, (engOf s e).run = some j ∧ takeTheta v s e = { setInst s e { j with theta := v } with digest := d } := by
  unfold takeTheta
  cases hrun : (engOf s e).run with
  | none => exact .inl ⟨rfl, rfl⟩
  | some j =>
    refine .inr ⟨j, ?_⟩
    dsimp only
    split
    · exact ⟨_, rfl, rfl⟩
    · exact ⟨s.digest, rfl, rfl⟩

theorem takeTheta_keeps {γ : Type} (π : State → γ) (h : ∀ s e j d, π { setInst s e j with digest := d } = π s) (v : Nat) (s : State)
    (e : Nat) : π (takeTheta v s e) = π s := by
  obtain ⟨-, heq⟩ | ⟨j, d, -, heq⟩ := takeTheta_cases v s e
  · rw [heq]
  · rw [heq, h]

theorem foldl_takeTheta_keeps {γ : Type} (π : State → γ) (h : ∀ s e j d, π { setInst s e j with digest := d } = π s) (v : Nat)
    (l : List Nat) (s : State) : π (l.foldl (takeTheta v) s) = π s :=
  foldl_keep π (takeTheta v) (takeTheta_keeps π h v) l s

theorem takeTheta_other (v : Nat) (s : State) (e k : Nat) (hk : k ≠ e) : engOf (takeTheta v s e) k = engOf s k := by
  obtain ⟨-, heq⟩ | ⟨j, d, -, heq⟩ := takeTheta_cases v s e
  · rw [heq]
  · rw [heq]
    exact engOf_setInst_other s e k _ hk

theorem takeTheta_run (v : Nat) (s : State) (e : Nat) {j : Inst} (hj : Runs s e j) : Runs (takeTheta v s e) e { j with theta := v } := by
  unfold Runs at hj ⊢
  obtain ⟨hnone, -⟩ | ⟨j', d, hrun, heq⟩ := takeTheta_cases v s e
  · simp [hnone] at hj
  · obtain rfl : j' = j := by simpa [hrun] using hj
    rw [heq]
    exact congrArg Engine.run (engOf_setInst s e { j' with theta := v })

theorem foldl_takeTheta_other (v : Nat) (l : List Nat) (s : State) (e : Nat) (he : e ∉ l) :
    engOf (l.foldl (takeTheta v) s) e = engOf s e := by
  induction l generalizing s with
  | nil => rfl
  | cons k l ih =>
    obtain ⟨hk, hl⟩ := List.ne_and_not_mem_of_not_mem_cons he
    rw [List.foldl_cons, ih _ hl, takeTheta_other v s k e hk]

/-- Taking the threshold twice is taking it once, so an engine listed in any place has it at the end. -/
theorem foldl_takeTheta_run (v : Nat) (l : List Nat) (s : State) (e : Nat) {j : Inst} (he : e ∈ l) (hj : Runs s e j) :
    Runs (l.foldl (takeTheta v) s) e { j with theta := v } := by
  induction l generalizing s j with
  | nil => simp at he
  | cons k l ih =>
    rw [List.foldl_cons]
    by_cases hk : e = k
    · subst hk
      have hj' := takeTheta_run v s e hj
      by_cases hl : e ∈ l
      · have hagain := ih _ hl hj'
        exact hagain
      · rwa [Runs, foldl_takeTheta_other v l _ e hl]
    · refine ih _ (by simpa [hk] using he) ?_
      rwa [Runs, takeTheta_other v s k e hk]

/-- QNT_CLIP_THRESHOLD of a slot reads the slot's threshold. -/
theorem regPeek_theta (s : State) {c : Nat} (hc : c < 32) : regPeek s (0x60100 + 4 * c) = (ctxOf s c).theta := by
  have hblock : (0x60100 + 4 * c) / 0x10000 = 6 := by omega
  have hoffset : (0x60100 + 4 * c) % 0x10000 = 0x100 + 4 * c := by omega
  have hcounts : ¬ 0x100 + 4 * c < 0x80 := by omega
  have hevents : ¬ 0x100 + 4 * c < 0x100 := by omega
  have hthetas : 0x100 + 4 * c < 0x180 := by omega
  have hslot : (0x100 + 4 * c - 0x100) / 4 = c := by omega
  have hpeek : regPeek s (0x60100 + 4 * c) = peekQnt s (0x100 + 4 * c) := by
    simp only [regPeek, hblock, hoffset]
  rw [hpeek, peekQnt, if_neg hcounts, if_neg hevents, if_pos hthetas, hslot]

/-- Slot c with a threshold written on this edge, the one before it kept for what starts on this edge. -/
def withTheta (s : State) (c θ : Nat) : State :=
  modCtx s c fun x => { x with theta := θ, thetaWas := thetaFor x s.now, thetaEdge := s.now }

theorem writeTheta_eq (i : Iface) (c v : Nat) (s : State) : (writeTheta i c v s).2 =
    changeReg s i (0x60100 + 4 * c)
      ((startLater s c).foldl (takeTheta (min 65536 (v % 2 ^ 17))) (withTheta s c (min 65536 (v % 2 ^ 17)))) := rfl

theorem qntClipThreshold_taken (h : writable s i) (v : Word) (c : Nat) (hc : c < 32) (hcan : Canonical s) :
    Answers (.qntClipThreshold i c v) s fun t =>
      ctxOf t c = { ctxOf s c with theta := min 65536 (v.toNat % 2 ^ 17), thetaWas := thetaFor (ctxOf s c) s.now, thetaEdge := s.now } ∧
      (∀ d, d ≠ c → ctxOf t d = ctxOf s d) ∧ t.ready = s.ready ∧ t.now = s.now ∧
      t.sec.journalHead = s.sec.journalHead + (if (ctxOf s c).theta ≠ min 65536 (v.toNat % 2 ^ 17) then 1 else 0) ∧
      (∀ e, e ∉ startLater s c → engOf t e = engOf s e) ∧
      (∀ e ∈ startLater s c, ∀ j, (engOf s e).run = some j → (engOf t e).run = some { j with theta := min 65536 (v.toNat % 2 ^ 17) }) := by
  have hrow : exec (.qntClipThreshold i c v) s = .next (rowWrite s i (0x60100 + 4 * c) (writeTheta i c v.toNat)) :=
    congrArg Host.Outcome.next (if_pos hc)
  refine answers_row h hrow ?_
  rw [writeTheta_eq]
  generalize min 65536 (v.toNat % 2 ^ 17) = θ
  have hctx (d : Nat) : ctxOf ((startLater s c).foldl (takeTheta θ) (withTheta s c θ)) d = ctxOf (withTheta s c θ) d :=
    foldl_takeTheta_keeps (ctxOf · d) (fun _ _ _ _ => rfl) θ _ _
  have hslot : ctxOf (withTheta s c θ) c = { ctxOf s c with theta := θ, thetaWas := thetaFor (ctxOf s c) s.now, thetaEdge := s.now } :=
    ctxOf_modCtx_same s c _ hcan
  refine ⟨?_, fun d hd => ?_, ?_, ?_, ?_, fun e he => ?_, fun e he j hj => ?_⟩
  · rw [changeReg_ctxOf, hctx, hslot]
  · rw [changeReg_ctxOf, hctx]
    exact ctxOf_modCtx_other s c d _ hcan hd
  · exact (changeReg_ready ..).trans (foldl_takeTheta_keeps (·.ready) (fun _ _ _ _ => rfl) θ _ _)
  · exact (changeReg_now ..).trans (foldl_takeTheta_keeps (·.now) (fun _ _ _ _ => rfl) θ _ _)
  · rw [changeReg_journalHead, foldl_takeTheta_keeps (·.sec.journalHead) (fun _ _ _ _ => rfl) θ, regPeek_theta _ hc, regPeek_theta _ hc,
      hctx, hslot]
    exact congrArg (s.sec.journalHead + ·) (ite_congr (propext ne_comm) (fun _ => rfl) fun _ => rfl)
  · rw [changeReg_engOf]
    exact foldl_takeTheta_other θ _ _ e he
  · rw [changeReg_engOf]
    exact foldl_takeTheta_run θ _ _ e he hj

/-! ### The staging area (R484) -/

theorem stageBytes_cons (m : Memory) (a : Nat) (b : Byte) (l : List Byte) :
    stageBytes m a (b :: l) = stageBytes (wr m (a % 65536) b) (a + 1) l := by
  simp only [stageBytes, List.zipIdx_cons', List.foldl_cons, List.foldl_map, Prod.map, id, Nat.add_zero, Nat.add_assoc, Nat.add_comm 1]

/-- A byte of the staging area that no staged byte falls on reads as before. -/
theorem rd_stageBytes_other (m : Memory) (a k : Nat) (l : List Byte) (hm : Memory.wf m = true)
    (hk : ∀ j, j < l.length → k ≠ (a + j) % 65536) : rd (stageBytes m a l) k = rd m k := by
  induction l generalizing m a with
  | nil => rfl
  | cons b l ih =>
    have hfirst : k ≠ a % 65536 := hk 0 (by simp)
    rw [stageBytes_cons, ih _ _ (Memory.wf_wr m _ b hm) fun j hj => ?_, rd_wr_ne m _ k b hm hfirst]
    rw [Nat.add_assoc, Nat.add_comm 1]
    exact hk (j + 1) (by simpa using hj)

/-- Staged bytes read back, each at its place in the 64 KiB of the area. -/
theorem rd_stageBytes (m : Memory) (a k : Nat) (l : List Byte) (hm : Memory.wf m = true) (hl : l.length ≤ 65536) (hk : k < l.length) :
    rd (stageBytes m a l) ((a + k) % 65536) = l.getD k 0 := by
  induction l generalizing m a k with
  | nil => simp at hk
  | cons b l ih =>
    have hw := Memory.wf_wr m (a % 65536) b hm
    simp only [List.length_cons] at hl hk
    rw [stageBytes_cons]
    cases k with
    | zero =>
      rw [rd_stageBytes_other _ _ _ _ hw (by omega), Nat.add_zero, rd_wr_same m _ b hm, List.getD_cons_zero]
    | succ k =>
      rw [show a + (k + 1) = a + 1 + k by omega, ih _ _ _ hw (by omega) (by omega), List.getD_cons_succ]

theorem bytesLe_length (x n : Nat) : (bytesLe x n).length = n := by
  induction n generalizing x with
  | zero => rfl
  | succ n ih => simp [bytesLe, ih]

theorem secNvsStageData_stores (h : writable s i) (v : Word) (hm : Memory.wf s.sec.staging = true) :
    Answers (.secNvsStageData i v) s fun t => t.sec.stageAddr = s.sec.stageAddr + 4 ∧
      (∀ k, k < 4 → rd t.sec.staging ((s.sec.stageAddr.toNat + k) % 65536) = (bytesLe v.toNat 4).getD k 0) ∧ t.ctxs = s.ctxs ∧ t.iris = s.iris ∧
      journalGrows s t (decide (v.toNat ≠ regPeek s 0xE0024)) := by
  have hback (k : Nat) (hk : k < 4) : rd (stageBytes s.sec.staging s.sec.stageAddr.toNat (bytesLe v.toNat 4))
      ((s.sec.stageAddr.toNat + k) % 65536) = (bytesLe v.toNat 4).getD k 0 :=
    rd_stageBytes _ _ k _ hm (by simp [bytesLe_length]) (by simpa [bytesLe_length] using hk)
  refine answers_row h rfl ?_
  simp only [writeStageData, Nat.mod_eq_of_lt v.isLt]
  split
  next heq => exact ⟨rfl, hback, rfl, rfl, by simp [journalGrows, heq]⟩
  next hne => exact ⟨journalWrite_stageAddr .., fun k hk => by rw [journalWrite_staging]; exact hback k hk, rfl, (journalWrite_kept ..).2,
    by simp [hne], rfl, rfl, rfl⟩

/-! ### The statement -/

/-- Settles O58: an unserved interface reaches no row, and on a served one each row's write is one of the laws above. -/
theorem registerWritesTakeEffect : Obligations.RegisterWritesTakeEffect := by
  unfold Obligations.RegisterWritesTakeEffect
  refine ⟨fun s i v h => ?_, fun s i v h => ?_⟩
  · simp only [List.mem_cons, List.not_mem_nil, or_false, forall_eq_or_imp, forall_eq]
    and_intros <;> exact exec_row_of_unserved h rfl
  · exact ⟨lixSource_refused h v, lixSource_taken h v, lixDivider_taken h v, lixStatusClear_clears h v, irisBudgetLimit_taken h v,
      fun c hc hcan => qntClipThreshold_taken h v c hc hcan, ledgerSelect_captures h v, glintStatusClear_clears h v, eventTail_taken h v,
      fun _ => lixRefPeriod_taken h v, eventMask_taken h v, secNvsStageData_stores h v⟩

end Sys2Proof.Machine
end

section
/-! PROOFS. The swap of Glint's banks and the end of a ball's pulse (chapter 03): what an event adds beside its ring, which balls a
swap sends to their inactive state, and what ending one pulse leaves alone. -/

namespace Sys2Proof.Machine

open Sys2Proof

/-! ### Events (R472, R473) -/

/-- Sending a frame changes what waits on the interfaces alone. -/
theorem sendFrame_cases (s : State) (i : Iface) (frame : List Byte) :
    ∃ q l, sendFrame s i frame = { s with control := { s.control with spi := q, sent := l } } := by
  unfold sendFrame
  split <;> exact ⟨_, _, rfl⟩

/-- An event is its record in the ring; sending it takes a free value and changes what waits on the interfaces alone. -/
theorem postEvent_cases (s : State) (status slot addr : Nat) (detail : List Byte) :
    ∃ n q l, postEvent s status slot addr detail = { ringEvent s status slot addr detail with
      freeCount := n, control := { (ringEvent s status slot addr detail).control with spi := q, sent := l } } := by
  unfold postEvent
  dsimp only
  split
  · obtain ⟨q, l, hsent⟩ := sendFrame_cases (freshWord (ringEvent s status slot addr detail)).2 (destIface s.control.destPort) _
    exact ⟨_, q, l, hsent⟩
  · exact ⟨_, _, _, rfl⟩

theorem postEvent_glint (s : State) (status slot addr : Nat) (detail : List Byte) :
    (postEvent s status slot addr detail).glint = s.glint := by
  obtain ⟨n, q, l, heq⟩ := postEvent_cases s status slot addr detail
  rw [heq]; rfl

theorem postEvent_lix (s : State) (status slot addr : Nat) (detail : List Byte) :
    (postEvent s status slot addr detail).lix = s.lix := by
  obtain ⟨n, q, l, heq⟩ := postEvent_cases s status slot addr detail
  rw [heq]; rfl

theorem postEvent_head (s : State) (status slot addr : Nat) (detail : List Byte) :
    (postEvent s status slot addr detail).control.head = s.control.head + 1 := by
  obtain ⟨n, q, l, heq⟩ := postEvent_cases s status slot addr detail
  rw [heq]; rfl

/-- The record posted stands at the place of the old head. A status other than 0 keeps it apart from an unwritten place. -/
theorem postEvent_status (s : State) {status : Nat} (slot addr : Nat) (detail : List Byte) (hstatus : status ≠ 0) :
    (tget EventRec.blank (postEvent s status slot addr detail).control.events (s.control.head.toNat % 2048)).status = status := by
  obtain ⟨n, q, l, heq⟩ := postEvent_cases s status slot addr detail
  rw [heq]
  exact congrArg EventRec.status (tget_tset_set EventRec.blank s.control.events _ _ fun h => hstatus (congrArg EventRec.status h))

/-! ### The balls a swap makes inactive (R74, R75) -/

theorem mem_span {lo n k : Nat} : k ∈ span lo n ↔ lo ≤ k ∧ k < lo + n := by
  induction n generalizing lo with
  | zero => simp [span]
  | succ n ih => rw [span, List.mem_cons, ih]; omega

/-- Entries put back to unlisted one after the other: each chosen key of the list reads as unlisted, every other key as before. -/
theorem tget_foldl_tset_default {α : Type} [DecidableEq α] (d : α) (p : Nat → Bool) (l : List Nat) (t : Table α)
    (ht : tableWf d t = true) (k : Nat) :
    tget d (l.foldl (fun t b => if p b then tset d t b d else t) t) k = if k ∈ l ∧ p k = true then d else tget d t k := by
  induction l generalizing t with
  | nil => simp
  | cons b l ih =>
    rw [List.foldl_cons]
    by_cases hb : p b = true
    · rw [if_pos hb, ih _ (tableWf_tset d t b d ht)]
      by_cases hk : k = b
      · subst hk
        simp [hb, tget_tset_same d t 0 k d ht]
      · simp [hk, tget_tset_ne d t 0 b k d ht hk]
    · rw [if_neg hb, ih t ht]
      by_cases hk : k = b
      · subst hk; simp [hb]
      · simp [hk]

theorem tget_swapBanks_balls (s : State) (hballs : tableWf Ball.idle s.glint.balls = true) (b : Nat) :
    tget Ball.idle (swapBanks s).glint.balls b =
      if b < 16 ∧ (s.glint.installed = false ∨ controlKey s.glint.active b ≠ controlKey s.glint.window b) then Ball.idle
      else tget Ball.idle s.glint.balls b := by
  refine (tget_foldl_tset_default Ball.idle
    (fun b => !s.glint.installed || controlKey s.glint.active b ≠ controlKey s.glint.window b) (span 0 16) _ hballs b).trans ?_
  simp [mem_span]

/-! ### The armed swap (R72, R73) -/

theorem exec_glintSwap_of_not_due (s : State)
    (h : s.glint.armed = false ∨ s.iris.stop < 3 ∨ s.sys.halted = true ∨ targetReached s s.glint.target 0 = false) :
    exec .glintSwap s = .next s := by
  refine if_pos ?_
  simpa [or_assoc] using h

section due

variable {s : State} (harmed : s.glint.armed = true) (hstop : 3 ≤ s.iris.stop) (hrun : s.sys.halted = false)
  (hreached : targetReached s s.glint.target 0 = true)

include harmed hstop hrun hreached

theorem exec_glintSwap_of_due : exec .glintSwap s =
    if bankRefused s s.glint.window then
      .next (postEvent { s with glint := { s.glint with armed := false, refused := true } } stHeld s.facet.glintOwner 0x90000 [])
    else .next (swapBanks s) := by
  refine if_neg ?_
  simp [harmed, hrun, hreached, Nat.not_lt.2 hstop]

theorem glintSwap_refused (hrefused : bankRefused s s.glint.window = true) :
    Answers .glintSwap s fun t =>
      t.glint = { s.glint with armed := false, refused := true } ∧ t.control.head = s.control.head + 1 ∧
      (tget EventRec.blank t.control.events (s.control.head.toNat % 2048)).status = stHeld ∧ t.lix = s.lix :=
  ⟨_, (exec_glintSwap_of_due harmed hstop hrun hreached).trans (if_pos hrefused),
    postEvent_glint .., postEvent_head .., postEvent_status _ _ _ _ (by decide), postEvent_lix ..⟩

theorem glintSwap_exchanges (hgranted : bankRefused s s.glint.window = false) (hballs : tableWf Ball.idle s.glint.balls = true) :
    Answers .glintSwap s fun t =>
      t.glint.active = s.glint.window ∧ t.glint.window = s.glint.active ∧ t.glint.upActive = s.glint.upWindow ∧
      t.glint.upWindow = s.glint.upActive ∧ t.glint.armed = false ∧ t.glint.installed = true ∧
      t.glint.fired = s.glint.fired ∧ t.glint.flags = s.glint.flags ∧ t.glint.input = s.glint.input ∧ t.control = s.control ∧
      t.lix = s.lix ∧ ∀ b, tget Ball.idle t.glint.balls b =
        (if b < 16 ∧ (s.glint.installed = false ∨ controlKey s.glint.active b ≠ controlKey s.glint.window b) then Ball.idle
         else tget Ball.idle s.glint.balls b) := by
  have hswap : exec .glintSwap s = .next (swapBanks s) :=
    (exec_glintSwap_of_due harmed hstop hrun hreached).trans (if_neg (by simp [hgranted]))
  exact ⟨_, hswap, rfl, rfl, rfl, rfl, rfl, rfl, rfl, rfl, rfl, rfl, rfl, tget_swapBanks_balls s hballs⟩

end due

/-! ### The end of a pulse (R66) -/

/-- The state with ball b inactive. -/
def endPulse (s : State) (b : Nat) : State :=
  { s with glint := { s.glint with balls := tset Ball.idle s.glint.balls b Ball.idle } }

theorem exec_glintPulseExpiry (s : State) (b : Nat) : exec (.glintPulseExpiry b) s =
    if (tget Ball.idle s.glint.balls b).pulse then .next (endPulse s b) else .next s := rfl

theorem exec_glintLinePulseEnd (s : State) (b : Nat) : exec (.glintLinePulseEnd b) s =
    if (tget Ball.idle s.glint.balls b).active && (tget Ball.idle s.glint.balls b).lines = 0 && controlWord s.glint.active b % 4 = 2
    then .next (endPulse s b) else .next s := rfl

/-- A command that ends the pulse of a ball makes that ball inactive and changes nothing else. -/
theorem answers_endPulse {c : Instr} {s : State} {b : Nat} (hballs : tableWf Ball.idle s.glint.balls = true)
    (hends : exec c s = .next (endPulse s b)) :
    Answers c s fun t => tget Ball.idle t.glint.balls b = Ball.idle ∧
      (∀ k, k ≠ b → tget Ball.idle t.glint.balls k = tget Ball.idle s.glint.balls k) ∧
      { t with glint := { t.glint with balls := s.glint.balls } } = s :=
  ⟨_, hends, tget_tset_same Ball.idle _ 0 b _ hballs, fun k hk => tget_tset_ne Ball.idle _ 0 b k _ hballs hk, rfl⟩

/-! ### The statement -/

/-- Settles O46: a swap that is not due waits, a due one is refused with its event or exchanges the banks, and both ends of a pulse
come down to the one change of `endPulse`. -/
theorem glintBanksSwapAndPulsesEnd : Obligations.GlintBanksSwapAndPulsesEnd := by
  unfold Obligations.GlintBanksSwapAndPulsesEnd
  refine ⟨exec_glintSwap_of_not_due, fun s harmed hstop hrun hreached => ⟨?_, ?_⟩, fun s b hballs => ⟨?_, ?_, ?_, ?_⟩⟩
  · exact glintSwap_refused harmed hstop hrun hreached
  · exact glintSwap_exchanges harmed hstop hrun hreached
  · exact fun hpulse => answers_endPulse hballs ((exec_glintPulseExpiry s b).trans (if_pos hpulse))
  · exact fun hpulse => (exec_glintPulseExpiry s b).trans (if_neg (by simp [hpulse]))
  · exact fun hactive hlines hmode =>
      answers_endPulse hballs ((exec_glintLinePulseEnd s b).trans (if_pos (by simp [hactive, hlines, hmode])))
  · exact fun hlines => (exec_glintLinePulseEnd s b).trans (if_neg (by simp [hlines]))

end Sys2Proof.Machine
end
